-- ==== Sys2Proof/Word.lean ====
section
/-! DEFINITION. The word types of the part and the plainest arithmetic on them (R1, R31, R36, R62). -/

namespace Sys2Proof

/-- A lane or uniform register: 32 bits (R31). -/
abbrev Word := BitVec 32

/-- A byte of memory. -/
abbrev Byte := BitVec 8

/-- A 64-bit value: a pair of registers, a device address, an instruction word. -/
abbrev DWord := BitVec 64

/-- The 128 bits of a quad or of a capability, without the tag (R81). -/
abbrev Quad := BitVec 128

end Sys2Proof
end

