-- ==== Sys2Proof/Config.lean ====
section
/-! DEFINITION. What an implementation fixes, and the free values of the model. Every constant here is opaque: nothing
in Lean can evaluate it or prove a value of it, so a claim proved about the model holds whatever it is. -/

namespace Sys2Proof.Config

/-- Which of several enabled agents moves next, by the step counter: the manual orders none of them (log entry 3). -/
opaque pick : Nat → Nat

/-- How many reference cycles one step of the model takes, by the step counter (R3; log entry 4). -/
opaque elapsed : Nat → Nat

/-- An undefined value (R4): some bit pattern that the same context could have produced (log entry 5). -/
opaque freeWord : Nat → BitVec 32

/-- An undefined 64-bit value (log entry 5). -/
opaque freeDWord : Nat → BitVec 64

/-- A choice the manual leaves to the part, one bit (log entry 5). -/
opaque freeBool : Nat → Bool

/-- The value an approximate function gives for an operand, before the bound of R152, R158 and R160 is applied: the
function's number, then the operand's bits (log entry 6). -/
opaque approx : Nat → BitVec 64 → BitVec 32

/-- Silicon revision of the part, bits [15:0] of REVISION (R131; log entry 7). -/
opaque revision : BitVec 16

/-- Firmware version words of R425: [15:8] major, [7:0] minor (log entry 7). -/
opaque fwVersion : BitVec 16

/-- The choices by which the reeve makes the core map of a die (R7): by die and logical cluster, a number that picks one of the
physical clusters not taken yet (log entry 7). -/
opaque physChoice : Nat → Nat → Nat

/-- The sealing key of the pair of this device and a peer, by the peer's parish index and the key ID (R112, R414; log
entry 8). -/
opaque sealKey : Nat → Nat → BitVec 256

/-- Key and salt of one direction of a link, the key in bits [287:32], as key agreement gives them (R410, R414): by port, the step of the
agreement, and whether it is the direction of sending (log entry 8). -/
opaque linkKey : Nat → Nat → Bool → BitVec 288

/-- The launch key of a context, by context number and key ID (R337; log entry 8). -/
opaque launchKey : Nat → Nat → BitVec 256

/-- Whether an SLH-DSA-SHAKE-256s signature over a message verifies under Valeut's firmware key (R330, R421; log entry
9). -/
opaque signatureOk : List (BitVec 8) → List (BitVec 8) → Bool

/-- The fused secret of the device (R423), which nothing reads (log entry 9). -/
opaque fusedSecret : BitVec 256

/-- The public key, 64 bytes, of the SLH-DSA-SHAKE-256s pair that is derived from a fused secret by SHAKE256 (R423; log entry 9). -/
opaque identityKey : BitVec 256 → BitVec 512

/-- The certificate over the public key, signed at manufacture, in the reeve's flash (R423; log entry 9). -/
opaque certificate : List (BitVec 8)

/-- The SLH-DSA-SHAKE-256s signature, 29,792 bytes, of a message under the key pair of a fused secret (R424; log entry 9). -/
opaque sign : BitVec 256 → List (BitVec 8) → BitVec 238336

/-- Nanoseconds since 1970-01-01 UTC, as the reeve's wall clock gives it at a cycle of the device (R375; log entry 7). -/
opaque wallTime : Nat → BitVec 64

/-- The milliwatt samples that a monitor of a die adds, by die and step counter (R426; log entry 7). -/
opaque monitorRate : Nat → Nat → Nat

/-- The die that a fabric port's link belongs to (R426): the spec does not say which (log entry 91). -/
opaque portDie : Nat → Nat

/-- The governor's choice for a die: the highest step at which its measured power and temperature stay within their limits
(R174; log entry 7). -/
opaque governor : Nat → Nat → Nat

/-- The temperature of a die in degrees, by die and step counter (R427; log entry 7). -/
opaque dieHeat : Nat → Nat → Nat

/-- Cycles after which an L1 has dropped the clean bytes of a line that it allocated, so that every store is seen in finite time
(R244; log entry 81). -/
opaque cleanLife : Nat

/-- What happens in the internal queues of the part as time passes, by step counter: which queue, and whether an entry enters it,
moves on or leaves (R323; log entry 85). -/
opaque queueTraffic : Nat → Nat

/-- Slots of an internal queue, by its number (R323; log entry 85). -/
opaque queueSlots : Nat → Nat

/-- The engine that a part gives a command, by the command's number (R290; log entry
5). -/
opaque engineOf : Nat → Nat

end Sys2Proof.Config
end

