-- ==== Sys2Proof/Syntax.lean ====
section
/-! DEFINITION. The steps of the part as syntax: the six instruction formats of R35 to R40, the payloads of the events
that reach the device from outside or fall due inside it, and ONE inductive with a constructor for each row of
spec/opcode_table.json. An instruction row carries its format's fields; an event row carries what the event names. -/

namespace Sys2Proof

/-- Format T, three and four operand lane instructions (R35). -/
structure FmtT where
  (g ty : BitVec 4)
  (mod : BitVec 12)
  (d a b c : BitVec 9)
  deriving DecidableEq, Repr

/-- Format I, a 32-bit immediate (R37). -/
structure FmtI where
  (g : BitVec 4)
  (mi : BitVec 2)
  (d a : BitVec 9)
  (imm : BitVec 32)
  deriving DecidableEq, Repr

/-- Format M, memory access (R38). `rsv` is bit 38. LDM, STM, SPILL and FILL read `ord` and `scope` as their count
fields (R210, R255). -/
structure FmtM where
  (g ty ord : BitVec 4)
  (scope : BitVec 3)
  (cl : BitVec 2)
  (rsv ack ofl : BitVec 1)
  (d q x off : BitVec 9)
  deriving DecidableEq, Repr

/-- Format B, branches (R39). `rsv` is bits [47:41]. -/
structure FmtB where
  (g bc : BitVec 4)
  (rsv : BitVec 7)
  (a : BitVec 9)
  (off : BitVec 32)
  deriving DecidableEq, Repr

/-- Format X, engines, barriers and the matrix engine (R40). -/
structure FmtX where
  (g xo bar : BitVec 4)
  (msel : BitVec 2)
  (tid : BitVec 6)
  (d a b c : BitVec 9)
  deriving DecidableEq, Repr

/-- Format S, special registers and services (R40). -/
structure FmtS where
  (g : BitVec 4)
  (fn : BitVec 16)
  (d a : BitVec 9)
  (imm : BitVec 18)
  deriving DecidableEq, Repr

/-- The granules of a frame that a restore copies (R362): bytes, tags and poison by offset from the frame's base; a byte not listed is
zero. -/
structure Extent where
  cells : List (Nat × Byte)
  tags : List Nat
  poison : List Nat
  deriving DecidableEq, Repr

/-- What another rank of a communicator brings to a collective (R310, R311): each byte with its poison (R294). -/
structure CollPart where
  (rank opc rop fmt sfmt ofmt count root : Nat)
  (data scales : List (Byte × Bool))
  deriving DecidableEq, Repr

/-- A multi-device launch entry as a rank receives it (R341): the issuing device and context, its generation, the context it goes
to, this device's rank among n, the launch block, the kernel record that firmware re-derived, and the argument bytes. -/
structure MultiEntry where
  (src srcCtx gen ctx rank n record : Nat)
  block : List Word
  args : List Byte
  deriving DecidableEq, Repr

/-- A rank of a multi-device launch: its device, and its context there (R341). -/
structure RankRef where
  (dev ctx : Nat)
  deriving DecidableEq, Repr

/-- A multi-device launch as a message names it: the context the message goes to, and the launch's generation (R341). -/
structure EntryRef where
  (ctx gen : Nat)
  deriving DecidableEq, Repr

/-- An ACCEPT as it reaches a lender (R396). -/
structure LeaseAccept where
  (borrower id count colour wframe : Nat)
  deriving DecidableEq, Repr

/-- A message of the lease handshake beside ACCEPT (R396 to R398). -/
inductive LeaseMsg where
  | granted (lframe : Nat)
  | refused | reclaim | release | drained | copied | abort
  | force (asLender : Bool)
  deriving DecidableEq, Repr

/-- A message of a multi-device launch (R341). -/
inductive LaunchMsg where
  | armed | go | abort | refusal
  deriving DecidableEq, Repr

/-- What a launch or control message carries (R401, R415): a message of a lease (its ID), of a multi-device launch (the sender's
context, and the launch at the receiver), what a rank of a collective brings under a key, or the fabric manager's report of a link of
another device. -/
inductive MsgBody where
  | none
  | lease (m : LeaseMsg) (id : Nat)
  | accept (m : LeaseAccept)
  | launch (m : LaunchMsg) (srcCtx : Nat) (e : EntryRef)
  | entry (e : MultiEntry)
  | part (p : CollPart) (comm key : Nat)
  | linkState (dev port : Nat) (up : Bool)
  deriving DecidableEq, Repr

/-- A message of the fabric (R415). `op` is the OP code, `len` the data bytes asked for, `counts` the four counts of an
ordered request (R417), `tags` the tag unit of a lease message, `bar` the barrier of a bulk packet. `ty`, `ord`, `scope`
and `aop` are the parts of OPX, and `sub` says which access a lease message makes, as OP numbers it (5 an answer). `poison`
says of each granule of the data whether it is poisoned (R377), and `seen` is the frame STATE that a refusal met (R366); the header gives
them no place (log entries 51, 53). `rsvd` are the reserved bits [54:0] of the header, and `body` is what a launch or control message
carries. -/
structure FabMsg where
  (src dst grant colour op sub path : Nat)
  ofl : Bool
  counts : List Nat
  data : List Byte
  (len ty ord scope aop rnum pseq : Nat)
  addr : BitVec 54
  status : Byte
  tags : List Bool
  bar : Nat
  poison : List Bool
  seen : Nat
  rsvd : Nat := 0
  body : MsgBody := .none
  deriving DecidableEq, Repr

/-- The share of one core that a context is created with (R346, R352). -/
structure CoreShare where
  core : Nat
  (rbanks pbanks wbanks : BitVec 16)
  (quota ways share : Nat)
  deriving DecidableEq, Repr

/-- The arguments of the create service (R348). `backing` is the local memory the firmware reserves for spill leases
(R208), `area` that for launch arguments (R337). -/
structure CtxParams where
  (number colour : Nat)
  cores : List CoreShare
  (backing area : Nat)
  deriving DecidableEq, Repr

/-- A flit as a receiver sees it (R409): whether CRC and header are good, whether the GCM tag verifies, the link header,
and the messages its payload completes. -/
structure FlitIn where
  (intact tagOk keysel : Bool)
  (kind fseq ackseq : Nat)
  nak : Bool
  msgs : List FabMsg
  deriving DecidableEq, Repr

/-- What key agreement on a link says of the far end (R414): its parish index, and whether its identity verifies. -/
structure PeerId where
  index : Nat
  genuine : Bool
  deriving DecidableEq, Repr

/-- The image that a restore names (R362): one that this device holds, by number, or one of another part, sealed, with the frames of
its context, which are copied to the same addresses. -/
inductive ImageRef where
  | held (n : Nat)
  | given (sealed : List Byte) (frames : List (Nat × Extent))
  deriving DecidableEq, Repr

/-- Where an uncorrectable error strikes (R376, R377). -/
inductive ErrLoc where
  /-- one register of one lane -/
  | reg (lane r : Nat)
  /-- one uniform register of one group -/
  | uniform (group r : Nat)
  /-- a sector of an L1 line of a context, by L1 and line number -/
  | sector (unit ctx line sec : Nat)
  /-- the granule that holds an address of local memory or a pad -/
  | granule (addr : Nat)
  /-- a 16-byte granule of a weight slot of a context on a core -/
  | slot (core ctx slot granule : Nat)
  /-- the packets of an access, or of a command or weight load, on the on-die network or between stacks: the eighth one has failed; by
  the number of the access, command or load -/
  | network (num : Nat)
  deriving DecidableEq, Repr

/-- What the boot sequence meets (R421): the step that fails, if one does, the security version and match-and-replace
table of the firmware image and the image itself, the parish index, the local frames that fail the memory test with their spares, and how the
fabric manager has wired the hamlet to others: hamlet, own member, link, far member (R400). -/
structure BootIn where
  fails : Option Nat
  (secver parish : Nat)
  (mrt image : List Byte)
  badFrames : List (Nat × Nat)
  wiring : List (Nat × Nat × Nat × Nat)
  deriving DecidableEq, Repr

/-- One constructor per row of spec/opcode_table.json, in the table's order. -/
inductive Instr where
  /-- BRA (R177): Each guard-true lane branches to the header at H + 8 × OFF32; the other lanes continue at the next header. -/
  | bra (f : FmtB)
  /-- BRX (R177): Each guard-true lane branches to the 8-byte-aligned address held in a register pair. -/
  | brx (f : FmtT)
  /-- CALL (R177): Each guard-true lane writes a link quad with the return header and CODEVER, then branches PC-relative. -/
  | call (f : FmtB)
  /-- CALLX (R177): Each guard-true lane reads a target pair, writes a link quad and branches to the target. -/
  | callx (f : FmtT)
  /-- RET (R177): Each guard-true lane branches to the RADDR field of a link quad. -/
  | ret (f : FmtT)
  /-- EXIT (R179): Moves each guard-true lane to EXITED; its earlier stores complete and its outstanding loads are discarded. -/
  | exit (f : FmtT)
  /-- NOP (R180): Has no effect, but counts as an issued instruction for ages and votes. -/
  | nop (f : FmtT)
  /-- YIELD (R180): If any lane's guard is true, the group moves to the bottom of its priority class when the clause ends. -/
  | yield (f : FmtT)
  /-- BRK (R181): Raises BRK on every guard-true lane, with the immediate as fault information. -/
  | brk (f : FmtS)
  /-- TRAP (R181): Raises TRAP on every guard-true lane, with the immediate as fault information. -/
  | trap (f : FmtS)
  /-- IADD (R137): Adds per element, modulo 2^w. -/
  | iadd (f : FmtT)
  /-- ISUB (R137): Subtracts per element, modulo 2^w. -/
  | isub (f : FmtT)
  /-- IMUL (R137): Writes the low w bits of the product. -/
  | imul (f : FmtT)
  /-- IMULH (R137): Writes the high w bits of the 2w-bit product. -/
  | imulh (f : FmtT)
  /-- IMAD (R137): Computes a × b + c modulo 2^w. -/
  | imad (f : FmtT)
  /-- IDIV (R137): Writes the integer quotient under the division rules of R63. -/
  | idiv (f : FmtT)
  /-- IREM (R137): Writes the integer remainder under the division rules of R63. -/
  | irem (f : FmtT)
  /-- IMIN (R137): Writes the per-element minimum. -/
  | imin (f : FmtT)
  /-- IMAX (R137): Writes the per-element maximum. -/
  | imax (f : FmtT)
  /-- IABS (R137): Writes the absolute value; the minimum value gives itself. -/
  | iabs (f : FmtT)
  /-- INEG (R137): Writes the negation modulo 2^w. -/
  | ineg (f : FmtT)
  /-- IADDS (R137): Adds with saturation to the element type's limits. -/
  | iadds (f : FmtT)
  /-- ISUBS (R137): Subtracts with saturation to the element type's limits. -/
  | isubs (f : FmtT)
  /-- ICMP (R140): Compares two integers and writes a predicate, optionally combined with another predicate. -/
  | icmp (f : FmtT)
  /-- SEL (R141): Selects a or b by a predicate. -/
  | sel (f : FmtT)
  /-- MOV (R141): Copies the bits of a and clears the destination quad's tag. -/
  | mov (f : FmtT)
  /-- AND (R142): Bitwise AND. -/
  | andOp (f : FmtT)
  /-- OR (R142): Bitwise OR. -/
  | orOp (f : FmtT)
  /-- XOR (R142): Bitwise exclusive OR. -/
  | xorOp (f : FmtT)
  /-- ANDN (R142): Computes a AND NOT b. -/
  | andn (f : FmtT)
  /-- LOP3 (R142): Computes an arbitrary three-input bitwise function from an 8-bit table. -/
  | lop3 (f : FmtT)
  /-- SHL (R143): Shifts each element left; gives 0 when the amount is at least the width. -/
  | shl (f : FmtT)
  /-- SHR (R143): Shifts each element right with zero fill. -/
  | shr (f : FmtT)
  /-- SHRA (R143): Shifts each element right with sign fill. -/
  | shra (f : FmtT)
  /-- ROTL (R143): Rotates each element left by n mod w. -/
  | rotl (f : FmtT)
  /-- FUNNEL (R143): Shifts the 64-bit join of A and B left or right and takes 32 bits. -/
  | funnel (f : FmtT)
  /-- CLZ (R143): Counts the leading zeros. -/
  | clz (f : FmtT)
  /-- POPC (R143): Counts the one bits. -/
  | popc (f : FmtT)
  /-- BREV (R143): Reverses the order of the bits. -/
  | brev (f : FmtT)
  /-- BFX (R144): Extracts a bit field, with zero or sign extension. -/
  | bfx (f : FmtT)
  /-- BFI (R144): Inserts the low bits of B into a field of A. -/
  | bfi (f : FmtT)
  /-- BPERM (R145): Permutes bytes of an 8-byte source, with optional sign replication, under a nibble selector. -/
  | bperm (f : FmtT)
  /-- MOVI (R147): Writes a 32-bit immediate, extended as MI selects. -/
  | movi (f : FmtI)
  /-- IADDI (R147): Adds an immediate. -/
  | iaddi (f : FmtI)
  /-- ANDI (R147): ANDs with an immediate. -/
  | andi (f : FmtI)
  /-- ORI (R147): ORs with an immediate. -/
  | ori (f : FmtI)
  /-- XORI (R147): Exclusive-ORs with an immediate. -/
  | xori (f : FmtI)
  /-- ICMPI (R148): Compares with an immediate and writes a predicate. -/
  | icmpi (f : FmtI)
  /-- IMULI (R147): Multiplies by an immediate, modulo 2^w. -/
  | imuli (f : FmtI)
  /-- PLOP (R146): Computes a three-input predicate function from a table. -/
  | plop (f : FmtT)
  /-- PACKP (R146): Packs p0 to p7 into a register. -/
  | packp (f : FmtT)
  /-- UNPACKP (R146): Writes the predicates selected by a mask from register bits. -/
  | unpackp (f : FmtT)
  /-- IDOT4 (R139): Computes a four-element 8-bit dot product plus an accumulator, optionally saturated. -/
  | idot4 (f : FmtT)
  /-- IADDC (R138): Adds with carry in and carry out in predicates. -/
  | iaddc (f : FmtT)
  /-- ISUBB (R138): Subtracts with borrow in and borrow out in predicates. -/
  | isubb (f : FmtT)
  /-- CVTI (R149): Converts one integer element to another type, optionally saturated. -/
  | cvti (f : FmtT)
  /-- FADD (R153): Adds in F32, correctly rounded. -/
  | fadd (f : FmtT)
  /-- FSUB (R153): Subtracts in F32, correctly rounded. -/
  | fsub (f : FmtT)
  /-- FMUL (R153): Multiplies in F32, correctly rounded. -/
  | fmul (f : FmtT)
  /-- FFMA (R153): Fused multiply-add with a single rounding. -/
  | ffma (f : FmtT)
  /-- FMIN (R154): Minimum under the NaN and signed-zero rules of R66. -/
  | fmin (f : FmtT)
  /-- FMAX (R154): Maximum under the NaN and signed-zero rules of R66. -/
  | fmax (f : FmtT)
  /-- FCMP (R155): Compares two F32 values and writes a predicate. -/
  | fcmp (f : FmtT)
  /-- FCLASS (R156): Writes a one-hot class mask of an F32 value. -/
  | fclass (f : FmtT)
  /-- FRND (R157): Rounds to an integral F32 value in the mode selected. -/
  | frnd (f : FmtT)
  /-- FRCP (R158): Approximate reciprocal, within 1 ulp. -/
  | frcp (f : FmtT)
  /-- FRSQ (R158): Approximate reciprocal square root, within 1 ulp. -/
  | frsq (f : FmtT)
  /-- FSQRT (R153): Square root, correctly rounded. -/
  | fsqrt (f : FmtT)
  /-- FDIV (R153): Division, correctly rounded. -/
  | fdiv (f : FmtT)
  /-- FEX2 (R158): Approximate 2^a. -/
  | fex2 (f : FmtT)
  /-- FLG2 (R158): Approximate log2 a. -/
  | flg2 (f : FmtT)
  /-- FRED (R159): Reduces the argument exactly by π/2 into a pair (r, q). -/
  | fred (f : FmtT)
  /-- FSIN (R160): Sine of a reduced pair. -/
  | fsin (f : FmtT)
  /-- FCOS (R160): Cosine of a reduced pair. -/
  | fcos (f : FmtT)
  /-- FSINCOS (R160): Sine and cosine of a reduced pair. -/
  | fsincos (f : FmtT)
  /-- FTANH (R158): Approximate tanh. -/
  | ftanh (f : FmtT)
  /-- HADD2 (R161): Packed 16-bit floating add per element. -/
  | hadd2 (f : FmtT)
  /-- HMUL2 (R161): Packed 16-bit floating multiply per element. -/
  | hmul2 (f : FmtT)
  /-- HFMA2 (R161): Packed 16-bit fused multiply-add per element. -/
  | hfma2 (f : FmtT)
  /-- HMNX2 (R161): Packed 16-bit minimum or maximum per element. -/
  | hmnx2 (f : FmtT)
  /-- CVT (R163): Converts one element between floating and integer types. -/
  | cvt (f : FmtT)
  /-- PACK2 (R164): Rounds two F32 values into a packed 16-bit pair. -/
  | pack2 (f : FmtT)
  /-- UNPACK2 (R164): Converts both 16-bit elements exactly to F32. -/
  | unpack2 (f : FmtT)
  /-- FADDI (R166): Adds an F32 immediate, rounded RNE. -/
  | faddi (f : FmtI)
  /-- FMULI (R166): Multiplies by an F32 immediate, rounded RNE. -/
  | fmuli (f : FmtI)
  /-- TRICV (R165): Converts between F32 and the residue formats, optionally with an E8 scale. -/
  | tricv (f : FmtT)
  /-- FDOT2 (R162): Two-element 16-bit dot product plus an accumulator, rounded once. -/
  | fdot2 (f : FmtT)
  /-- BALLOT (R185): Forms a mask of the participating lanes whose source predicate or bit is true. -/
  | ballot (f : FmtT)
  /-- VOTE (R186): Writes an all, any or uniform vote over the participating lanes. -/
  | vote (f : FmtT)
  /-- SHFL (R187): Reads A from an indexed lane. -/
  | shfl (f : FmtT)
  /-- SHFLX (R187): Reads A from the lane L xor n. -/
  | shflx (f : FmtT)
  /-- SHFLUP (R187): Reads A from lane L − n. -/
  | shflup (f : FmtT)
  /-- SHFLDN (R187): Reads A from lane L + n. -/
  | shfldn (f : FmtT)
  /-- PSWAP (R188): Swaps 16-bit halves within a lane or takes the pair lane's value, with optional sign flips. -/
  | pswap (f : FmtT)
  /-- MATCH (R189): Writes the mask of participating lanes holding an equal value. -/
  | matchOp (f : FmtT)
  /-- GREDUX (R190): Reduces A over all participating lanes, exactly and then rounded once for F32. -/
  | gredux (f : FmtT)
  /-- GSCAN (R190): Inclusive or exclusive prefix combination over the participating lanes. -/
  | gscan (f : FmtT)
  /-- ACTMASK (R191): Writes the mask of the group's lanes in the named state. -/
  | actmask (f : FmtT)
  /-- REGROUP (R193): The thread arrives with its key and sleeps until its team's regroup completes or fails. -/
  | regroup (f : FmtT)
  /-- RGQUERY (R202): Reads a field of the thread's record of its last regroup. -/
  | rgquery (f : FmtT)
  /-- BINIT (R224): Sets ARR_EXP of an idle barrier register and clears ERR. -/
  | binit (f : FmtX)
  /-- BARV (R224): Each guard-true lane arrives, or drops out, and receives the phase; the completion test follows. -/
  | barv (f : FmtX)
  /-- BWAIT (R224): The lane sleeps until PHASE differs from the given parity. -/
  | bwait (f : FmtX)
  /-- BEXPB (R224): Adds to BYTE_EXP and tests completion. -/
  | bexpb (f : FmtX)
  /-- BTEST (R224): Writes a predicate that tells whether PHASE differs from the parity. -/
  | btest (f : FmtX)
  /-- BREAD (R224): Reads the 128-bit barrier register into a quad with a clear tag. -/
  | bread (f : FmtX)
  /-- BCLUST_INIT (R224): BINIT applied to a cluster barrier. -/
  | bclustInit (f : FmtX)
  /-- BCLUST_ARV (R220): One arrival per issuing lane set on a cluster barrier. -/
  | bclustArv (f : FmtX)
  /-- BCLUST_WAIT (R224): BWAIT applied to a cluster barrier. -/
  | bclustWait (f : FmtX)
  /-- BCLUST_TEST (R224): BTEST applied to a cluster barrier. -/
  | bclustTest (f : FmtX)
  /-- BCLUST_READ (R224): BREAD applied to a cluster barrier. -/
  | bclustRead (f : FmtX)
  /-- BCLUST_EXP (R224): BEXPB applied to a cluster barrier. -/
  | bclustExp (f : FmtX)
  /-- CVINIT (R225): Arms a convergence register with a set of the group's lanes. -/
  | cvinit (f : FmtX)
  /-- CVSIGN (R222): Guard-true lanes sign the register and sleep until the round completes. -/
  | cvsign (f : FmtX)
  /-- CVDROP_LANE (R225): Removes guard-true lanes from SET, which may complete a round. -/
  | cvdropLane (f : FmtX)
  /-- CVDROP_FREE (R225): The owner frees an armed convergence register. -/
  | cvdropFree (f : FmtX)
  /-- WAITA (R226): Checks a word and sleeps until it meets a condition or a timeout passes. -/
  | waita (f : FmtX)
  /-- WAITA_TIMEOUT (R226): The timeout expires and the lane wakes with a relaxed read. -/
  | waitaTimeout (lane : Nat)
  /-- WAITA_HOST_POLL (R226): A host-window word is read again every 1,024 cycles. -/
  | waitaHostPoll (lane : Nat)
  /-- LANE_WAKE (R126): A sleeping lane's condition becomes true, and it resumes in its recorded state after the instruction. -/
  | laneWake (lane : Nat)
  /-- LD (R254): Checks and loads memory into registers, with extension for sub-word sizes. -/
  | ld (f : FmtM)
  /-- ST (R254): Checks and stores registers to memory, clearing the tags of the granules overlapped. -/
  | st (f : FmtM)
  /-- LDC (R254): Loads 16 bytes and their tag, ANDed with the LDC permission. -/
  | ldc (f : FmtM)
  /-- STC (R254): Stores a quad with its tag, subject to the locality and filter rules. -/
  | stc (f : FmtM)
  /-- LDM (R255): Loads n registers granule by granule, with tags clear. -/
  | ldm (f : FmtM)
  /-- STM (R255): Stores n registers granule by granule, clearing tags. -/
  | stm (f : FmtM)
  /-- LOAD_RETURN (R253): Load data returns and writes the destination registers, carrying any poison. -/
  | loadReturn (acc : Nat)
  /-- ATOM (R256): Atomic read-modify-write, with the old value returned. -/
  | atom (f : FmtM)
  /-- ACAS (R257): Atomic compare-and-swap, with the old value returned. -/
  | acas (f : FmtM)
  /-- FENCE (R259): Orders the thread's accesses at a scope; the .ack form waits for remote acknowledgements. -/
  | fence (f : FmtM)
  /-- FENCE_COMPLETE (R418): The last awaited acknowledgement arrives and the fence completes. -/
  | fenceComplete (fence : Nat)
  /-- PREF (R259): Prefetches the lines of a checked range, without faults. -/
  | pref (f : FmtM)
  /-- CCTL_WB (R263): Writes back the dirty bytes of a line. -/
  | cctlWb (f : FmtM)
  /-- CCTL_INV (R263): Drops the clean sectors of a line. -/
  | cctlInv (f : FmtM)
  /-- CCTL_WBINV (R263): Writes back and then drops a line. -/
  | cctlWbinv (f : FmtM)
  /-- CCTL_WBALL (R263): Writes back every dirty sector of the context in this L1. -/
  | cctlWball (f : FmtM)
  /-- ILINE (R267): Drops the instruction-cache line and fetch-buffer copies, on one core or on every core of the context. -/
  | iline (f : FmtM)
  /-- RETAIN_SET (R262): Sets a span's range, ways and ratio if the ways fit. -/
  | retainSet (f : FmtM)
  /-- RETAIN_CLR (R262): Releases a span's ways. -/
  | retainClr (f : FmtM)
  /-- CGET (R95): Reads one field of a capability. -/
  | cget (f : FmtT)
  /-- CSETB (R96): Narrows a capability to n bytes at its cursor, optionally exact or as a CMD capability. -/
  | csetb (f : FmtT)
  /-- CADD (R97): Adds to the cursor under the representability rule. -/
  | cadd (f : FmtT)
  /-- CSETA (R97): Sets the cursor under the representability rule. -/
  | cseta (f : FmtT)
  /-- CANDP (R98): Masks the permission bits. -/
  | candp (f : FmtT)
  /-- CTEST (R99): Writes the fault code that an access check would raise, without faulting. -/
  | ctest (f : FmtT)
  /-- CMOVQ (R100): Copies a quad with its tag. -/
  | cmovq (f : FmtT)
  /-- CCLR (R100): Copies a quad with its tag cleared. -/
  | cclr (f : FmtT)
  /-- CEQ (R101): Compares two quads and their tags, or only their cursors. -/
  | ceq (f : FmtT)
  /-- CSUB (R101): Writes the difference of two cursors. -/
  | csub (f : FmtT)
  /-- CALIGN (R102): Aligns the cursor down or up, or computes a representable length or base mask. -/
  | calign (f : FmtT)
  /-- CPSEAL (R103): Seals a DATA capability into an encrypted blob for a peer under a grant. -/
  | cpseal (f : FmtT)
  /-- CPOPEN (R104): Opens a peer blob into a tagged REMOTE capability. -/
  | cpopen (f : FmtT)
  /-- CDLG (R105): Delegates a capability into a granule of a command block. -/
  | cdlg (f : FmtM)
  /-- MMA (R281): Lanes sign the convergence register for a matrix multiply-accumulate, and the engine starts at the round's completion. -/
  | mma (f : FmtX)
  /-- MMAT (R281): Lanes sign for a tree-masked matrix multiply. -/
  | mmat (f : FmtX)
  /-- MMA_ROUND_COMPLETE (R282): The signing round completes; operands are read and checked and the engine starts the multiply. -/
  | mmaRoundComplete (team cv : Nat)
  /-- MMA_COMPLETE (R284): The occupancy ends and the accumulators are written. -/
  | mmaComplete (core : Nat)
  /-- WLOAD (R276): Checks and starts loading a weight-slot image, moving the slot to LOADING. -/
  | wload (f : FmtX)
  /-- WLOAD_COMPLETE (R275): The last image byte arrives; the slot becomes READY and the barrier receives its arrival. -/
  | wloadComplete (load : Nat)
  /-- WLOAD_REFUSED (R452): A read refused after issue empties the slot, sets the barrier's ERR and posts ENGINE_ERROR. -/
  | wloadRefused (load : Nat) (code : Byte) (addr : DWord) (bytes : Nat)
  /-- WINV (R277): Invalidates a weight slot. -/
  | winv (f : FmtT)
  /-- MPRED_SET (R285): Sets a row or column predicate in matrix order. -/
  | mpredSet (f : FmtT)
  /-- MPRED_GET (R285): Reads a row or column predicate. -/
  | mpredGet (f : FmtT)
  /-- MQUANT (R288): Quantises one block per lane to a residue format with an E8 scale. -/
  | mquant (f : FmtT)
  /-- TIDSET (R272): Validates and replaces a tensor identifier entry. -/
  | tidset (f : FmtT)
  /-- TIDGET (R272): Reads a tensor identifier entry. -/
  | tidget (f : FmtT)
  /-- TREELD (R286): Checks and reads a parent list to replace the team's tree table. -/
  | treeld (f : FmtX)
  /-- TREELD_COMPLETE (R286): The parent-list data returns; the list is validated and the table replaced in matrix order. -/
  | treeldComplete (team : Nat)
  /-- XCOPY (R297): Creates a tensor-box copy between a tensor and a pad tile. -/
  | xcopy (f : FmtX)
  /-- XCOPYP (R298): Creates a tensor copy through a block table. -/
  | xcopyp (f : FmtX)
  /-- XSTORE (R299): Creates a command storing a register tile to a tensor. -/
  | xstore (f : FmtX)
  /-- XBULK (R302): Sends up to 256 bytes of uniform registers to a peer's pad. -/
  | xbulk (f : FmtX)
  /-- XPUB (R300): Publishes a pad tile on a cluster barrier and arrives. -/
  | xpub (f : FmtX)
  /-- XPULL (R301): Creates a command that pulls a published tile of another core of the cluster. -/
  | xpull (f : FmtX)
  /-- XRUN (R307): Creates a command from a 128-byte command block. -/
  | xrun (f : FmtX)
  /-- XFILL (R303): Creates a command that fills a range with a 4-byte pattern. -/
  | xfill (f : FmtX)
  /-- XSIG (R304): After its earlier stores are acknowledged, arrives on or credits bytes to a barrier through a BARR capability. -/
  | xsig (f : FmtX)
  /-- XCANCEL (R309): Ends a command block's command if it can. -/
  | xcancel (f : FmtX)
  /-- XSTAT (R308): Reads a command block's status record. -/
  | xstat (f : FmtX)
  /-- ENGINE_COMMAND_START (R290): A queued command starts in issue order, reading its block or entry. -/
  | engineCommandStart (core : Nat)
  /-- CMD_COPY (R306): A block command copies COUNT bytes from granule 1 to granule 2. -/
  | cmdCopy (cmd : Nat)
  /-- CMD_TCOPY (R306): A block command performs a tensor copy. -/
  | cmdTcopy (cmd : Nat)
  /-- CMD_TCOPYP (R306): A block command performs a block-table tensor copy. -/
  | cmdTcopyp (cmd : Nat)
  /-- CMD_FILL (R306): A block command fills a range with a pattern. -/
  | cmdFill (cmd : Nat)
  /-- CMD_ALLREDUCE (R311): A collective joins its communicator to reduce over all ranks. -/
  | cmdAllreduce (cmd : Nat)
  /-- CMD_REDUCESCATTER (R311): A collective reduces and scatters a slice to each rank. -/
  | cmdReducescatter (cmd : Nat)
  /-- CMD_ALLGATHER (R311): A collective gathers every rank's source. -/
  | cmdAllgather (cmd : Nat)
  /-- CMD_BROADCAST (R311): A collective copies the root's source to every rank. -/
  | cmdBroadcast (cmd : Nat)
  /-- COLLECTIVE_RUN (R310): All n ranks have joined under one key; the collective runs, or every rank ends on a mismatch. -/
  | collectiveRun (cmd : Nat) (parts : List CollPart)
  /-- XPULL_RECORD_READ (R301): The cluster barrier's phase passes the record's phase; the record is read and the copy begins. -/
  | xpullRecordRead (cmd : Nat)
  /-- ENGINE_COMMAND_END (R292): A command's last payload byte is written, and it completes by arrival or by value word. -/
  | engineCommandEnd (cmd : Nat)
  /-- XBULK_PACKET (R302): A bulk packet arrives at the peer, is checked and written, and credits the team's barrier. -/
  | xbulkPacket (m : FabMsg)
  /-- QPUT (R320): Appends a 64-byte message to a queue, or sleeps or returns full or closed. -/
  | qput (f : FmtT)
  /-- QGET (R320): Removes the oldest message, or sleeps or returns empty or closed. -/
  | qget (f : FmtT)
  /-- QSTAT (R320): Samples the queue's status. -/
  | qstat (f : FmtT)
  /-- EVGET (R321): Removes the oldest event record of the context. -/
  | evget (f : FmtT)
  /-- LAUNCH (R336): Checks and appends a launch entry to the context's launch queue. -/
  | launch (f : FmtT)
  /-- REGACQ_WAIT (R205): Requests the extended block and sleeps in the FIFO until it is granted. -/
  | regacqWait (f : FmtS)
  /-- REGACQ_TRY (R205): Takes the extended block only if it can be granted at once. -/
  | regacqTry (f : FmtS)
  /-- REGACQ_GRANT (R206): Free octs cover the head request, which is granted with zeroed registers. -/
  | regacqGrant (ctx core : Nat)
  /-- REGREL (R207): Waits for pending writes, then releases the extended block. -/
  | regrel (f : FmtS)
  /-- REGREL_LEASE (R205): Releases the group's spill lease and discards its contents. -/
  | regrelLease (f : FmtS)
  /-- SPILL_MEMORY (R211): Stores registers with their tags to memory or the pad, granule by granule. -/
  | spillMemory (f : FmtM)
  /-- SPILL_LEASE (R212): Stores registers with their tags into lease storage, borrowing a bank on first use. -/
  | spillLease (f : FmtM)
  /-- FILL_MEMORY (R211): Loads registers with their tags from memory or the pad. -/
  | fillMemory (f : FmtM)
  /-- FILL_LEASE (R212): Loads registers with their tags from lease storage. -/
  | fillLease (f : FmtM)
  /-- HANDOFF (R214): Records a snapshot of the inherit range for the next team of the launch. -/
  | handoff (f : FmtS)
  /-- SREAD (R132): Reads a special register. -/
  | sread (f : FmtS)
  /-- SWRITE (R133): Writes FPMODE or a scratch word. -/
  | swrite (f : FmtS)
  /-- PERFRD (R358): Reads an own or shared performance counter. -/
  | perfrd (f : FmtS)
  /-- SVC_WALLTIME (R375): Reeve service that returns the wall time. -/
  | svcWalltime (f : FmtS)
  /-- SVC_QCREATE (R375): Reeve service that creates a message queue and returns its QUEUE capability. -/
  | svcQcreate (f : FmtS)
  /-- SVC_QCLOSE (R317): Reeve service that closes a message queue, waking sleepers with status 2. -/
  | svcQclose (f : FmtS)
  /-- SVC_COMMCREATE (R375): Reeve service that creates a communicator. -/
  | svcCommcreate (f : FmtS)
  /-- SVC_COMMEND (R310): Reeve service that ends a communicator and its waiting commands. -/
  | svcCommend (f : FmtS)
  /-- SVC_BARRMINT (R375): Reeve service that mints a BARR capability for a barrier register. -/
  | svcBarrmint (f : FmtS)
  /-- SVC_GRANTREQ (R375): Reeve service that creates a grant entry for a peer. -/
  | svcGrantreq (f : FmtS)
  /-- ERET_RETRY (R374): Returns a trapped lane to the faulting instruction, resuming transfers at PROGRESS. -/
  | eretRetry (f : FmtS)
  /-- ERET_SKIP (R374): Returns a trapped lane past the faulting instruction. -/
  | eretSkip (f : FmtS)
  /-- FAULTRD (R373): Reads the lane's fault record, its code or its info. -/
  | faultrd (f : FmtS)
  /-- TRAPSET_SET (R372): Sets the code version's handler address. -/
  | trapsetSet (f : FmtT)
  /-- TRAPSET_CLR (R372): Clears the handler. -/
  | trapsetClr (f : FmtT)
  /-- TRAPSET_GET (R372): Reads the handler address. -/
  | trapsetGet (f : FmtT)
  /-- SWEEP (R125): Starts or queues a revocation sweep pass. -/
  | sweep (f : FmtS)
  /-- GRANTSET (R115): Writes one grant entry into every fabric port. -/
  | grantset (f : FmtT)
  /-- FSTSET (R390): Writes a frame state entry along an allowed transition, optionally compare-and-set. -/
  | fstset (f : FmtT)
  /-- FSTGET (R391): Reads a frame state entry. -/
  | fstget (f : FmtT)
  /-- CMINT (R106): Tags a well-formed value as a capability. -/
  | cmint (f : FmtT)
  /-- CTXGATE_GATE (R350): Stops issue of another context on every core. -/
  | ctxgateGate (f : FmtS)
  /-- CTXGATE_UNGATE (R350): Ends a context's gate. -/
  | ctxgateUngate (f : FmtS)
  /-- CTXGATE_STATE (R350): Reads a context's state code. -/
  | ctxgateState (f : FmtS)
  /-- SHARESET (R355): Sets a context's token SHARE on one or every core, or a port's POOL. -/
  | shareset (f : FmtT)
  /-- LEASEOP_OFFER (R399): The lender makes an OFFERED record. -/
  | leaseopOffer (f : FmtT)
  /-- LEASEOP_ACCEPT (R399): The borrower sends ACCEPT and sleeps until it is granted or refused. -/
  | leaseopAccept (f : FmtT)
  /-- LEASEOP_RECLAIM (R396): The lender withdraws an offer or starts a reclaim. -/
  | leaseopReclaim (f : FmtT)
  /-- LEASEOP_RELEASE (R398): The borrower starts a release handshake. -/
  | leaseopRelease (f : FmtT)
  /-- LEASEOP_FORCE (R396): Forces a lease to end at either party. -/
  | leaseopForce (f : FmtT)
  /-- LEASEOP_QUERY (R399): Writes a lease record to memory. -/
  | leaseopQuery (f : FmtT)
  /-- MRTLOAD (R331): Verifies and installs a new match-and-replace table while no tenant team runs. -/
  | mrtload (f : FmtT)
  /-- CVERNEW (R333): Points a kernel record at another loaded version and supersedes the old one. -/
  | cvernew (f : FmtT)
  /-- CLAUSE_VOTE (R169): The issue slot chooses a group and a lane set, fetches and checks the header, and starts a clause, possibly paired on the second port. -/
  | clauseVote (core islot : Nat)
  /-- GROUP_PROMOTION (R168): A group able to issue has waited 256 reference cycles and moves to the top of the rotation. -/
  | groupPromotion (core gslot : Nat)
  /-- DEFERRED_FAULT (R365): A refusal answered after the lane moved on is taken just before its next instruction issues. -/
  | deferredFault (lane : Nat)
  /-- RESUME_RETRY (R370): Reeve service that resumes a suspended lane as ERET.retry. -/
  | resumeRetry (lane : Nat)
  /-- RESUME_SKIP (R370): Reeve service that resumes a suspended lane as ERET.skip. -/
  | resumeSkip (lane : Nat)
  /-- RESUME_END (R370): Reeve service that ends a suspended lane, so its launch ends with END 2. -/
  | resumeEnd (lane : Nat)
  /-- REGROUP_SHUFFLE_START (R195): All owed register writes have been made and the shuffle begins. -/
  | regroupShuffleStart (team : Nat)
  /-- REGROUP_PASS (R199): A shuffle pass completes, and the regroup finishes at the last pass. -/
  | regroupPass (team : Nat)
  /-- TEAM_PLACEMENT (R339): The scheduler places the head entry's teams on fitting cores and starts them. -/
  | teamPlacement (ctx : Nat)
  /-- LAUNCH_LEVEL_AGE (R339): Every 1,048,576 queued cycles raise an entry's effective level by one. -/
  | launchLevelAge (launch : Nat)
  /-- TEAM_RETIRE (R343): Once every group is DONE and every access is acknowledged, the team flushes, hands over and frees its resources. -/
  | teamRetire (team : Nat)
  /-- HOST_LAUNCH_MESSAGE (R337): A UDP launch datagram is authenticated, opened and queued or refused. -/
  | hostLaunchMessage (msg : List Byte)
  /-- MULTI_LAUNCH_ENTRY (R341): A rank receives a multi-device entry, places its teams and answers ARMED. -/
  | multiLaunchEntry (e : MultiEntry)
  /-- MULTI_ARMED (R341): An ARMED answer arrives, and the last one triggers GO. -/
  | multiArmed (src : RankRef) (entry : EntryRef)
  /-- MULTI_GO (R341): A rank starts its held teams on a matching GO. -/
  | multiGo (src : RankRef) (entry : EntryRef)
  /-- MULTI_ABORT (R341): A rank drops the entry and frees its held teams on a matching ABORT. -/
  | multiAbort (src : RankRef) (entry : EntryRef)
  /-- MULTI_ARMED_TIMEOUT (R341): 16,777,216 cycles pass without every ARMED answer, and ABORT is sent. -/
  | multiArmedTimeout (launch : Nat)
  /-- LOAD_CODE_OBJECT (R327): Loader service that selects, places and registers an image's kernels. -/
  | loadCodeObject (ctx : Nat) (obj : List Byte)
  /-- KERNEL_RECORD_RELEASE (R332): Firmware releases a kernel record, freeing or superseding its version. -/
  | kernelRecordRelease (record : Nat)
  /-- LAUNCH_END_SERVICE (R342): Reeve service that ends a launch, making its lanes EXITED with status 3. -/
  | launchEndService (launch : Nat)
  /-- LAUNCH_KEY_REPLACE (R337): The reeve replaces a context's launch key at the host's request. -/
  | launchKeyReplace (ctx : Nat)
  /-- CONTEXT_CREATE (R348): Reeve service that creates a context with banks, buckets and counters. -/
  | contextCreate (p : CtxParams)
  /-- CONTEXT_SAVE (R361): Reeve service that drains, promotes and writes a context image, then releases its banks. -/
  | contextSave (ctx : Nat)
  /-- CONTEXT_RESTORE (R362): Reeve service that loads an image onto a part, leaving the context GATED. -/
  | contextRestore (image : ImageRef) (ctx : Nat)
  /-- CONTEXT_DISCARD (R348): Reeve service that destroys a saved image and quarantines its frames. -/
  | contextDiscard (ctx : Nat)
  /-- CONTEXT_RESET (R348): Reeve service that discards a context's teams, closes its queues and scrubs its frames. -/
  | contextReset (ctx : Nat)
  /-- CONTEXT_RESET_DONE (R348): The last bank is scrubbed and the context becomes FREE. -/
  | contextResetDone (ctx : Nat)
  /-- CORE_DRAIN (R359): Reeve service that starts draining a core of the core set. -/
  | coreDrain (ctx core deadline : Nat)
  /-- DRAIN_DEADLINE (R359): The drain deadline passes with teams left, and they are held and moved. -/
  | drainDeadline (ctx core : Nat)
  /-- TOKEN_REFILL (R353): Every 1,024 device cycles each bucket refills and the bonus is lent. -/
  | tokenRefill
  /-- PORT_REQUEST_SEND (R352): A request leaves the network port once its bucket covers its token cost. -/
  | portRequestSend (core ctx : Nat)
  /-- SHARED_COUNTER_UPDATE (R357): The shared counters are updated every 1,048,576 device cycles. -/
  | sharedCounterUpdate
  /-- GOVERNOR_STEP (R174): Every 8,192 reference cycles the governor sets a die's core clock step. -/
  | governorStep (die step : Nat)
  /-- SYNC_NOTICE (R241): A release notice reaches the home slice and is recorded, possibly promoting another owner. -/
  | syncNotice
  /-- HOME_SLICE_ATOMIC (R242): A .dev or wider atomic at the home slice is held while any recorded owner is promoted, then performed. -/
  | homeSliceAtomic (acc : Nat)
  /-- PROMOTION_ACK (R242): The owner core writes back its dirty sectors and acknowledges; the record is removed. -/
  | promotionAck (granule : Nat)
  /-- REMOTE_REQUEST (R114): A request arrives at a fabric port, is checked against the grant and the gate, and is performed. -/
  | remoteRequest (m : FabMsg)
  /-- REMOTE_ANSWER (R415): A fabric answer returns data, an acknowledgement or a refusal to the requester. -/
  | remoteAnswer (m : FabMsg)
  /-- OFL_RELEASE (R417): The completion counts reach a held ordered-flag request's counts, and it is performed. -/
  | oflRelease (held : Nat)
  /-- HOST_ACCESS_TIMEOUT (R419): The host leaves a host-window access unanswered for 12,500,000 cycles, and it is refused with DATA_LOST. -/
  | hostAccessTimeout (acc : Nat)
  /-- RDMA_WRITE (R249): A host RDMA WRITE message is applied in full, in queue-pair order. -/
  | rdmaWrite (addr : DWord) (data : List Byte)
  /-- SWEEP_ACK (R120): A unit acknowledges once its earlier tagged writes pass the filter, ending commands that hold revoked capabilities. -/
  | sweepAck (core : Nat)
  /-- CORE_SWEEP (R122): The groomer holds a core and clears revoked tags in its registers, pad and L1. -/
  | coreSweep (core : Nat)
  /-- SWEEP_PASS_COMPLETE (R120): The walk ends; SWEEPDONE advances, frames move to SCRUB and SWEEP_DONE is posted. -/
  | sweepPassComplete
  /-- SCRUB_SUBFRAME (R382): A 64 KiB sub-frame is dropped and zeroed, and the last one moves the frame to NEXT. -/
  | scrubSubframe (frame : Nat)
  /-- FRAME_RETIRE (R383): The reeve copies a failing frame to a spare and marks it RETIRED. -/
  | frameRetire (frame spare : Nat)
  /-- SPARE_REPLACE (R384): A failing spare is copied to a new spare. -/
  | spareReplace (frame spare : Nat)
  /-- ROUTE_REPLACE (R389): The reeve replaces a failed stack-router route while the affected accesses stall. -/
  | routeReplace (die stack : Nat)
  /-- UNCORRECTABLE_ERROR (R377): An uncorrectable ECC error poisons a register or granule. -/
  | uncorrectableError (loc : ErrLoc)
  /-- LEASE_ACCEPT_MSG (R396): An ACCEPT reaches the lender, which grants or refuses. -/
  | leaseAcceptMsg (m : LeaseAccept)
  /-- LEASE_GRANTED (R397): GRANTED reaches the borrower, whose window frames become BORROWED. -/
  | leaseGranted (lender id lframe : Nat)
  /-- LEASE_REFUSED (R397): REFUSED reaches the borrower and the record is freed. -/
  | leaseRefused (lender id : Nat)
  /-- LEASE_ACCEPT_TIMEOUT (R397): No answer arrives within 16,777,216 cycles and the accepting record is freed. -/
  | leaseAcceptTimeout (record : Nat)
  /-- LEASE_TERM (R396): The lender's counter reaches TERM and a reclaim starts. -/
  | leaseTerm (record : Nat)
  /-- LEASE_RECLAIM_MSG (R398): RECLAIM reaches the borrower, which writes DRAINING and starts draining. -/
  | leaseReclaimMsg (lender id : Nat)
  /-- LEASE_RELEASE_MSG (R396): RELEASE reaches the lender, whose frames go to RECLAIM. -/
  | leaseReleaseMsg (borrower id : Nat)
  /-- LEASE_DRAIN_DONE (R398): In-flight accesses are answered and lines written back; the borrower sends DRAINED. -/
  | leaseDrainDone (record : Nat)
  /-- LEASE_DRAINED (R396): DRAINED reaches the lender, which begins the reclaim copy. -/
  | leaseDrained (borrower id : Nat)
  /-- LEASE_COPY_DONE (R396): Every copied byte is acknowledged; the lender sends COPIED and scrubs. -/
  | leaseCopyDone (record : Nat)
  /-- LEASE_COPIED (R397): COPIED reaches the borrower, whose frames become DEMOTED or ABSENT. -/
  | leaseCopied (lender borrower id : Nat)
  /-- LEASE_ABORT (R397): ABORT reaches the borrower, whose frames become ABSENT. -/
  | leaseAbort (lender id : Nat)
  /-- LEASE_FORCE_MSG (R396): FORCE reaches the peer, which ends its side of the lease. -/
  | leaseForceMsg (peer id : Nat) (asLender : Bool)
  /-- LEASE_DEADLINE (R396): A unit's reclaim DEADLINE passes and the lease ends without the data. -/
  | leaseDeadline (record : Nat)
  /-- PORT_ENABLE (R406): The reeve enables a fabric port and training begins. -/
  | portEnable (port : Nat)
  /-- PORT_DISABLE (R406): The reeve disables a port and its routes are remapped. -/
  | portDisable (port : Nat)
  /-- LINK_TRAINED (R406): Lane lock and key agreement finish and the link goes UP. -/
  | linkTrained (port : Nat) (peer : PeerId) (peerPort : Nat)
  /-- LINK_TRAINING_FAIL (R406): Training attempts are exhausted and the link goes DOWN. -/
  | linkTrainingFail (port : Nat)
  /-- LINK_RETRY (R406): The reeve retries a DOWN link, at most every 12,500,000 cycles. -/
  | linkRetry (port : Nat)
  /-- FLIT_RECEIVE (R411): A flit slot is received, checked, accepted or discarded, and may start replay. -/
  | flitReceive (port : Nat) (f : FlitIn)
  /-- NAK (R411): A NAK arrives and the sender replays from ACKSEQ + 1. -/
  | nak (port ackseq : Nat)
  /-- ACK_TIMEOUT (R411): 4,096 slots pass without an acknowledgement and the sender replays. -/
  | ackTimeout (port : Nat)
  /-- REPLAY_LIMIT (R406): One FSEQ has been sent 8 times unacknowledged, and the link retrains. -/
  | replayLimit (port : Nat)
  /-- LINK_REKEY (R406): 2^40 slots after key agreement, new keys take effect at a named slot. -/
  | linkRekey (port : Nat)
  /-- PEER_UNREACHABLE (R408): No route has been UP for 12,500,000 cycles; outstanding requests are refused with DATA_LOST. -/
  | peerUnreachable (peer : Nat)
  /-- SEALING_KEY_AGREE (R414): A device pair agrees a new sealing key with the next key ID. -/
  | sealingKeyAgree (peer : Nat)
  /-- CHAIRLIFT_PROBE (R323): A queue head blocked 2,048 cycles sends a probe, and a found cycle moves an entry into a reserve slot. -/
  | chairliftProbe (queue : Nat)
  /-- QUEUE_FREE (R317): Firmware frees a closed queue's last capability and its area is scrubbed. -/
  | queueFree (queue : Nat)
  /-- MONITOR_CONTROL_WRITE (R426): A write to a monitor control word selects the source, enable and freeze, zeroing the counter on a new SRC. -/
  | monitorControlWrite (die k : Nat) (w : DWord)
  /-- MONITOR_COUNTER_WRITE (R426): A write to a monitor counter sets its value. -/
  | monitorCounterWrite (die k : Nat) (w : DWord)
  /-- BOOT (R421): At power-on or reset the reeve verifies, trains, builds tables and derives identity, or enters RECOVERY. -/
  | boot (b : BootIn)
  /-- SECVER_RAISE (R422): A signed host request raises the fused minimum security version. -/
  | secverRaise (ver : Nat) (signed : Bool)
  /-- ATTESTATION_REPORT (R424): The reeve signs an attestation report on request. -/
  | attestationReport (nonce : List Byte)
  /-- THERMAL_CAP (R427): A die reaches 95 °C and its governor step is capped at 1.25 GHz. -/
  | thermalCap (die : Nat)
  /-- THERMAL_DUTY_CYCLE (R427): A die reaches 105 °C and issue is duty-cycled to half. -/
  | thermalDutyCycle (die : Nat)
  /-- THERMAL (R427): A die reaches 115 °C; every context is gated and THERMAL is reported. -/
  | thermal (die : Nat)
  /-- MODULE_POWER_DOWN (R427): 1 ms after THERMAL the module powers down. -/
  | modulePowerDown
  /-- FLIT_SLOT (R405): In every 1.28 ns flit slot each link direction sends one flit (IDLE, DATA, CONTROL or a replay) and advances its slot counter. -/
  | flitSlot (port : Nat)
  /-- SLOT_ALIGNMENT_LOST (R410): The receiver loses slot alignment on the wire and the link moves to RETRAINING without guessing. -/
  | slotAlignmentLost (port : Nat)
  /-- CORRECTABLE_ERROR (R376): A correctable ECC error in a register, pad, cache, weight slot or HBM is corrected in place and counted by the reeve. -/
  | correctableError (die : Nat)
  /-- REEVE_ANSWER (R375): The reeve finishes a service requested by SVC or MRTLOAD and answers, writing the results and waking the sleeping lane set as an acquire at .dev. -/
  | reeveAnswer (job : Nat)
  /-- MULTI_REFUSAL (R341): A rank's refusal of a multi-device launch entry reaches the issuing device, which sends ABORT with GEN. -/
  | multiRefusal (src : RankRef) (entry : EntryRef)
  deriving DecidableEq, Repr

end Sys2Proof
end

