-- ==== Sys2Proof/Machine/Fields.lean ====
section
/-! DEFINITION. The encoding tables of the spec: each row's opcode and format (R41, R42), class and privilege (R26, R43),
what its fields must hold (R29 to R40, R136, R151, R184, R223, R251, R295 and the tables beside them), and the two static
checks made from them: legality (ILLEGAL) and operand fields (ILLEGAL_OPERAND). -/

namespace Sys2Proof.Machine

/-- An instruction as its opcode and its format's fields; an event has neither. -/
inductive Form where
  | t (op : Nat) (f : FmtT)
  | i (op : Nat) (f : FmtI)
  | m (op : Nat) (f : FmtM)
  | b (op : Nat) (f : FmtB)
  | x (op : Nat) (f : FmtX)
  | s (op : Nat) (f : FmtS)
  | event
  deriving DecidableEq, Repr

/-- The opcode and fields of each row (R41, R42). -/
def form (i : Instr) : Form :=
  match i with
  | .bra f => .b 0x01 f
  | .brx f => .t 0x02 f
  | .call f => .b 0x03 f
  | .callx f => .t 0x04 f
  | .ret f => .t 0x05 f
  | .exit f => .t 0x06 f
  | .nop f => .t 0x07 f
  | .yield f => .t 0x08 f
  | .brk f => .s 0x09 f
  | .trap f => .s 0x0A f
  | .iadd f => .t 0x10 f
  | .isub f => .t 0x11 f
  | .imul f => .t 0x12 f
  | .imulh f => .t 0x13 f
  | .imad f => .t 0x14 f
  | .idiv f => .t 0x15 f
  | .irem f => .t 0x16 f
  | .imin f => .t 0x17 f
  | .imax f => .t 0x18 f
  | .iabs f => .t 0x19 f
  | .ineg f => .t 0x1A f
  | .iadds f => .t 0x1B f
  | .isubs f => .t 0x1C f
  | .icmp f => .t 0x1D f
  | .sel f => .t 0x1E f
  | .mov f => .t 0x1F f
  | .andOp f => .t 0x20 f
  | .orOp f => .t 0x21 f
  | .xorOp f => .t 0x22 f
  | .andn f => .t 0x23 f
  | .lop3 f => .t 0x24 f
  | .shl f => .t 0x25 f
  | .shr f => .t 0x26 f
  | .shra f => .t 0x27 f
  | .rotl f => .t 0x28 f
  | .funnel f => .t 0x29 f
  | .clz f => .t 0x2A f
  | .popc f => .t 0x2B f
  | .brev f => .t 0x2C f
  | .bfx f => .t 0x2D f
  | .bfi f => .t 0x2E f
  | .bperm f => .t 0x2F f
  | .movi f => .i 0x30 f
  | .iaddi f => .i 0x31 f
  | .andi f => .i 0x32 f
  | .ori f => .i 0x33 f
  | .xori f => .i 0x34 f
  | .icmpi f => .i 0x35 f
  | .imuli f => .i 0x36 f
  | .plop f => .t 0x37 f
  | .packp f => .t 0x38 f
  | .unpackp f => .t 0x39 f
  | .idot4 f => .t 0x3A f
  | .iaddc f => .t 0x3B f
  | .isubb f => .t 0x3C f
  | .cvti f => .t 0x3D f
  | .fadd f => .t 0x40 f
  | .fsub f => .t 0x41 f
  | .fmul f => .t 0x42 f
  | .ffma f => .t 0x43 f
  | .fmin f => .t 0x44 f
  | .fmax f => .t 0x45 f
  | .fcmp f => .t 0x46 f
  | .fclass f => .t 0x47 f
  | .frnd f => .t 0x48 f
  | .frcp f => .t 0x49 f
  | .frsq f => .t 0x4A f
  | .fsqrt f => .t 0x4B f
  | .fdiv f => .t 0x4C f
  | .fex2 f => .t 0x4D f
  | .flg2 f => .t 0x4E f
  | .fred f => .t 0x4F f
  | .fsin f => .t 0x50 f
  | .fcos f => .t 0x51 f
  | .fsincos f => .t 0x52 f
  | .ftanh f => .t 0x53 f
  | .hadd2 f => .t 0x54 f
  | .hmul2 f => .t 0x55 f
  | .hfma2 f => .t 0x56 f
  | .hmnx2 f => .t 0x57 f
  | .cvt f => .t 0x58 f
  | .pack2 f => .t 0x59 f
  | .unpack2 f => .t 0x5A f
  | .faddi f => .i 0x5B f
  | .fmuli f => .i 0x5C f
  | .tricv f => .t 0x5D f
  | .fdot2 f => .t 0x5E f
  | .ballot f => .t 0x60 f
  | .vote f => .t 0x61 f
  | .shfl f => .t 0x62 f
  | .shflx f => .t 0x63 f
  | .shflup f => .t 0x64 f
  | .shfldn f => .t 0x65 f
  | .pswap f => .t 0x66 f
  | .matchOp f => .t 0x67 f
  | .gredux f => .t 0x68 f
  | .gscan f => .t 0x69 f
  | .actmask f => .t 0x6A f
  | .regroup f => .t 0x6B f
  | .rgquery f => .t 0x6C f
  | .binit f => .x 0x70 f
  | .barv f => .x 0x71 f
  | .bwait f => .x 0x72 f
  | .bexpb f => .x 0x73 f
  | .btest f => .x 0x74 f
  | .bread f => .x 0x75 f
  | .bclustInit f => .x 0x76 f
  | .bclustArv f => .x 0x76 f
  | .bclustWait f => .x 0x76 f
  | .bclustTest f => .x 0x76 f
  | .bclustRead f => .x 0x76 f
  | .bclustExp f => .x 0x76 f
  | .cvinit f => .x 0x77 f
  | .cvsign f => .x 0x78 f
  | .cvdropLane f => .x 0x79 f
  | .cvdropFree f => .x 0x79 f
  | .waita f => .x 0x7A f
  | .waitaTimeout .. => .event
  | .waitaHostPoll .. => .event
  | .laneWake .. => .event
  | .ld f => .m 0x80 f
  | .st f => .m 0x81 f
  | .ldc f => .m 0x82 f
  | .stc f => .m 0x83 f
  | .ldm f => .m 0x84 f
  | .stm f => .m 0x85 f
  | .loadReturn .. => .event
  | .atom f => .m 0x86 f
  | .acas f => .m 0x87 f
  | .fence f => .m 0x88 f
  | .fenceComplete .. => .event
  | .pref f => .m 0x89 f
  | .cctlWb f => .m 0x8A f
  | .cctlInv f => .m 0x8A f
  | .cctlWbinv f => .m 0x8A f
  | .cctlWball f => .m 0x8A f
  | .iline f => .m 0x8B f
  | .retainSet f => .m 0x8C f
  | .retainClr f => .m 0x8C f
  | .cget f => .t 0x90 f
  | .csetb f => .t 0x91 f
  | .cadd f => .t 0x92 f
  | .cseta f => .t 0x93 f
  | .candp f => .t 0x94 f
  | .ctest f => .t 0x95 f
  | .cmovq f => .t 0x96 f
  | .cclr f => .t 0x97 f
  | .ceq f => .t 0x98 f
  | .csub f => .t 0x99 f
  | .calign f => .t 0x9A f
  | .cpseal f => .t 0x9B f
  | .cpopen f => .t 0x9C f
  | .cdlg f => .m 0x9D f
  | .mma f => .x 0xA0 f
  | .mmat f => .x 0xA1 f
  | .mmaRoundComplete .. => .event
  | .mmaComplete .. => .event
  | .wload f => .x 0xA2 f
  | .wloadComplete .. => .event
  | .wloadRefused .. => .event
  | .winv f => .t 0xA3 f
  | .mpredSet f => .t 0xA4 f
  | .mpredGet f => .t 0xA4 f
  | .mquant f => .t 0xA5 f
  | .tidset f => .t 0xA6 f
  | .tidget f => .t 0xA7 f
  | .treeld f => .x 0xA8 f
  | .treeldComplete .. => .event
  | .xcopy f => .x 0xB0 f
  | .xcopyp f => .x 0xB1 f
  | .xstore f => .x 0xB2 f
  | .xbulk f => .x 0xB3 f
  | .xpub f => .x 0xB4 f
  | .xpull f => .x 0xB5 f
  | .xrun f => .x 0xB6 f
  | .xfill f => .x 0xB7 f
  | .xsig f => .x 0xB8 f
  | .xcancel f => .x 0xB9 f
  | .xstat f => .x 0xBA f
  | .engineCommandStart .. => .event
  | .cmdCopy .. => .event
  | .cmdTcopy .. => .event
  | .cmdTcopyp .. => .event
  | .cmdFill .. => .event
  | .cmdAllreduce .. => .event
  | .cmdReducescatter .. => .event
  | .cmdAllgather .. => .event
  | .cmdBroadcast .. => .event
  | .collectiveRun .. => .event
  | .xpullRecordRead .. => .event
  | .engineCommandEnd .. => .event
  | .xbulkPacket .. => .event
  | .qput f => .t 0xC0 f
  | .qget f => .t 0xC1 f
  | .qstat f => .t 0xC2 f
  | .evget f => .t 0xC3 f
  | .launch f => .t 0xC4 f
  | .regacqWait f => .s 0xC8 f
  | .regacqTry f => .s 0xC8 f
  | .regacqGrant .. => .event
  | .regrel f => .s 0xC9 f
  | .regrelLease f => .s 0xC9 f
  | .spillMemory f => .m 0xCA f
  | .spillLease f => .m 0xCA f
  | .fillMemory f => .m 0xCB f
  | .fillLease f => .m 0xCB f
  | .handoff f => .s 0xCC f
  | .sread f => .s 0xD0 f
  | .swrite f => .s 0xD1 f
  | .perfrd f => .s 0xD2 f
  | .svcWalltime f => .s 0xD3 f
  | .svcQcreate f => .s 0xD3 f
  | .svcQclose f => .s 0xD3 f
  | .svcCommcreate f => .s 0xD3 f
  | .svcCommend f => .s 0xD3 f
  | .svcBarrmint f => .s 0xD3 f
  | .svcGrantreq f => .s 0xD3 f
  | .eretRetry f => .s 0xD4 f
  | .eretSkip f => .s 0xD4 f
  | .faultrd f => .s 0xD5 f
  | .trapsetSet f => .t 0xD6 f
  | .trapsetClr f => .t 0xD6 f
  | .trapsetGet f => .t 0xD6 f
  | .sweep f => .s 0xE0 f
  | .grantset f => .t 0xE1 f
  | .fstset f => .t 0xE2 f
  | .fstget f => .t 0xE3 f
  | .cmint f => .t 0xE4 f
  | .ctxgateGate f => .s 0xE5 f
  | .ctxgateUngate f => .s 0xE5 f
  | .ctxgateState f => .s 0xE5 f
  | .shareset f => .t 0xE6 f
  | .leaseopOffer f => .t 0xE7 f
  | .leaseopAccept f => .t 0xE7 f
  | .leaseopReclaim f => .t 0xE7 f
  | .leaseopRelease f => .t 0xE7 f
  | .leaseopForce f => .t 0xE7 f
  | .leaseopQuery f => .t 0xE7 f
  | .mrtload f => .t 0xE8 f
  | .cvernew f => .t 0xE9 f
  | .clauseVote .. => .event
  | .groupPromotion .. => .event
  | .deferredFault .. => .event
  | .resumeRetry .. => .event
  | .resumeSkip .. => .event
  | .resumeEnd .. => .event
  | .regroupShuffleStart .. => .event
  | .regroupPass .. => .event
  | .teamPlacement .. => .event
  | .launchLevelAge .. => .event
  | .teamRetire .. => .event
  | .hostLaunchMessage .. => .event
  | .multiLaunchEntry .. => .event
  | .multiArmed .. => .event
  | .multiGo .. => .event
  | .multiAbort .. => .event
  | .multiArmedTimeout .. => .event
  | .loadCodeObject .. => .event
  | .kernelRecordRelease .. => .event
  | .launchEndService .. => .event
  | .launchKeyReplace .. => .event
  | .contextCreate .. => .event
  | .contextSave .. => .event
  | .contextRestore .. => .event
  | .contextDiscard .. => .event
  | .contextReset .. => .event
  | .contextResetDone .. => .event
  | .coreDrain .. => .event
  | .drainDeadline .. => .event
  | .tokenRefill .. => .event
  | .portRequestSend .. => .event
  | .sharedCounterUpdate .. => .event
  | .governorStep .. => .event
  | .syncNotice .. => .event
  | .homeSliceAtomic .. => .event
  | .promotionAck .. => .event
  | .remoteRequest .. => .event
  | .remoteAnswer .. => .event
  | .oflRelease .. => .event
  | .hostAccessTimeout .. => .event
  | .rdmaWrite .. => .event
  | .sweepAck .. => .event
  | .coreSweep .. => .event
  | .sweepPassComplete .. => .event
  | .scrubSubframe .. => .event
  | .frameRetire .. => .event
  | .spareReplace .. => .event
  | .routeReplace .. => .event
  | .uncorrectableError .. => .event
  | .leaseAcceptMsg .. => .event
  | .leaseGranted .. => .event
  | .leaseRefused .. => .event
  | .leaseAcceptTimeout .. => .event
  | .leaseTerm .. => .event
  | .leaseReclaimMsg .. => .event
  | .leaseReleaseMsg .. => .event
  | .leaseDrainDone .. => .event
  | .leaseDrained .. => .event
  | .leaseCopyDone .. => .event
  | .leaseCopied .. => .event
  | .leaseAbort .. => .event
  | .leaseForceMsg .. => .event
  | .leaseDeadline .. => .event
  | .portEnable .. => .event
  | .portDisable .. => .event
  | .linkTrained .. => .event
  | .linkTrainingFail .. => .event
  | .linkRetry .. => .event
  | .flitReceive .. => .event
  | .nak .. => .event
  | .ackTimeout .. => .event
  | .replayLimit .. => .event
  | .linkRekey .. => .event
  | .peerUnreachable .. => .event
  | .sealingKeyAgree .. => .event
  | .chairliftProbe .. => .event
  | .queueFree .. => .event
  | .monitorControlWrite .. => .event
  | .monitorCounterWrite .. => .event
  | .boot .. => .event
  | .secverRaise .. => .event
  | .attestationReport .. => .event
  | .thermalCap .. => .event
  | .thermalDutyCycle .. => .event
  | .thermal .. => .event
  | .modulePowerDown .. => .event
  | .flitSlot .. => .event
  | .slotAlignmentLost .. => .event
  | .correctableError .. => .event
  | .reeveAnswer .. => .event
  | .multiRefusal .. => .event

/-- The opcode of a form, none for an event. -/
def Form.op? : Form → Option Nat
  | .t op _ | .i op _ | .m op _ | .b op _ | .x op _ | .s op _ => some op
  | .event => none

/-- The guard field of a form (R29); an event has none and reads as "always". -/
def Form.guard : Form → BitVec 4
  | .t _ f => f.g
  | .i _ f => f.g
  | .m _ f => f.g
  | .b _ f => f.g
  | .x _ f => f.g
  | .s _ f => f.g
  | .event => 0

/-- Classes of R23: 0 ALU, 1 FP, 2 MEM, 3 MATRIX, 4 ENGINE, 5 CONTROL, 6 SYSTEM, 7 MIXED. -/
def classOf (op : Nat) : Nat :=
  if op ≤ 0x0A then 5
  else if op ≤ 0x3D then 0
  else if op ≤ 0x5E then 1
  else if op = 0x6B then 5
  else if op ≤ 0x6C then 0
  else if op ≤ 0x7A then 5
  else if op ≤ 0x8C then 2
  else if op ≤ 0x9C then 0
  else if op = 0x9D then 2
  else if op ≤ 0xA8 then 3
  else if op ≤ 0xC4 then 4
  else if op = 0xCA ∨ op = 0xCB then 2
  else if op ≤ 0xCC then 5
  else if op ≤ 0xD2 then 0
  else if op = 0xD3 then 6
  else if op = 0xD5 then 0
  else if op ≤ 0xD6 then 5
  else 6

/-- Opcodes that only a system context may execute (R43). -/
def privilegedOp (op : Nat) : Bool := 0xE0 ≤ op && op ≤ 0xE9

/-- The control transfers of R27: BRA, BRX, CALL, CALLX, RET, EXIT, REGROUP, ERET. -/
def transferOp (op : Nat) : Bool := (0x01 ≤ op && op ≤ 0x06) || op = 0x6B || op = 0xD4

/-- Which registers a register field may name: any (R30), a vector register, or a uniform register or ZERO. -/
inductive RegClass where
  | any | vec | uni
  deriving DecidableEq, Repr

/-- What a field holds: nothing (it must be zero, R34), a predicate (R33), `n` registers whose field is a multiple of `al`
(R31), read when `rd`, or a value with no check of its own. -/
inductive Use where
  | zero
  | pred
  | reg (n al : Nat) (cls : RegClass) (rd : Bool)
  | raw
  deriving DecidableEq, Repr

/-- A field of a word: the bit position of its least significant bit, its value, and its use. -/
structure Fld where
  (pos val : Nat)
  use : Use
  deriving DecidableEq, Repr

/-- What a form asks of a word: whether its selector fields hold values it defines (R34), and its operand fields. -/
structure Shape where
  ok : Bool
  flds : List Fld
  deriving DecidableEq, Repr

/-- `n` registers read as a source, naturally aligned. -/
def Use.src (n : Nat) : Use := .reg n n .any true

/-- `n` registers written as a destination, naturally aligned. -/
def Use.dst (n : Nat) : Use := .reg n n .any false

/-- A field that holds `u` when `c` holds and must be zero otherwise. -/
def Use.when (c : Bool) (u : Use) : Use := if c then u else .zero

/-- Whether a lane type code names a 64-bit type (R36). -/
def wide64 (ty : Nat) : Bool := ty = 4 || ty = 5 || ty = 6

/-- Registers that carry one value of a lane type (R36). -/
def tyRegs (ty : Nat) : Nat := if wide64 ty then 2 else 1

/-- Elements in one register of a lane type (R36). -/
def tyElems (ty : Nat) : Nat := if 7 ≤ ty ∧ ty ≤ 10 then 2 else if ty = 11 ∨ ty = 12 then 4 else 1

/-- The TY set "int" of R136. -/
def intTys : List Nat := [1, 2, 5, 6, 9, 10, 11, 12]

/-- The TY set "signed" of R136. -/
def signedTys : List Nat := [1, 5, 9, 11]

/-- The TY set "bits" of R136. -/
def bitsTys : List Nat := [0, 4]

/-- Format T's four register fields at their places (R35). -/
def fldsT (f : FmtT) (d a b c : Use) : List Fld :=
  [⟨27, f.d.toNat, d⟩, ⟨18, f.a.toNat, a⟩, ⟨9, f.b.toNat, b⟩, ⟨0, f.c.toNat, c⟩]

/-- A format-T shape: TY in `tys`, no MOD bit outside `mask`, and a further condition on the selectors. -/
def shT (f : FmtT) (tys : List Nat) (mask : BitVec 12) (extra : Bool) (d a b c : Use) : Shape :=
  ⟨tys.contains f.ty.toNat && (f.mod &&& ~~~mask) == 0 && extra, fldsT f d a b c⟩

/-- B as a register of `n`, or as an immediate when MOD[11] is set (R35). -/
def useB (f : FmtT) (n : Nat) : Use := if f.mod.getLsbD 11 then .raw else .src n

/-- With .s8x4 or .z8x4 an immediate above 255 is ILLEGAL (R135). -/
def immOk (f : FmtT) : Bool := !(f.mod.getLsbD 11 && (f.ty == 11 || f.ty == 12) && 255 < f.b.toNat)

/-- The element count of a TRICV operand's format: 1 for F32, 4 for TRI8, 2 for TRI16 (R165). -/
def tricvElems (dir : Nat) (dest : Bool) : Nat :=
  match dir, dest with
  | 0, true | 2, false | 4, false | 5, true => 4
  | 1, true | 3, false | 4, true | 5, false => 2
  | _, _ => 1

/-- Format T (R136, R151, R176, R184, R192, R202, R94, R272, R277, R285, R288, R319, R334, R372, R115, R390, R391, R355,
R399, R331, R333). -/
def shapeT (op : Nat) (f : FmtT) : Shape :=
  let ty := f.ty.toNat
  let n := tyRegs ty
  let m := f.mod
  let fld := fun (hi lo : Nat) => (m.toNat >>> lo) % 2 ^ (hi - lo + 1)
  match op with
  | 0x02 => shT f [0] 0 true .zero (.src 2) .zero .zero
  | 0x04 => shT f [0] 0 true (.dst 4) (.src 2) .zero .zero
  -- RET reads the low two registers of its quad (R178)
  | 0x05 => shT f [0] 0 true .zero (.reg 2 4 .any true) .zero .zero
  | 0x06 | 0x07 | 0x08 => shT f [0] 0 true .zero .zero .zero .zero
  | 0x10 | 0x11 | 0x12 | 0x13 | 0x15 | 0x16 | 0x17 | 0x18 | 0x1B | 0x1C =>
      shT f intTys 0x800 (immOk f) (.dst n) (.src n) (useB f n) .zero
  | 0x14 => shT f intTys 0x800 (immOk f) (.dst n) (.src n) (useB f n) (.src n)
  | 0x19 | 0x1A => shT f signedTys 0 true (.dst n) (.src n) .zero .zero
  | 0x1D => shT f [1, 2, 5, 6] 0x837 (fld 2 0 < 6) .pred (.src n) (useB f n) (.when (fld 5 4 ≠ 0) .pred)
  | 0x1E => shT f bitsTys 0x800 true (.dst n) (.src n) (useB f n) .pred
  | 0x1F => shT f bitsTys 0 true (.dst n) (.src n) .zero .zero
  | 0x20 | 0x21 | 0x22 | 0x23 => shT f bitsTys 0x800 true (.dst n) (.src n) (useB f n) .zero
  | 0x24 => shT f bitsTys 0x0FF true (.dst n) (.src n) (.src n) (.src n)
  | 0x25 | 0x26 => shT f [0, 4, 10, 12] 0x800 (immOk f) (.dst n) (.src n) (useB f 1) .zero
  | 0x27 => shT f signedTys 0x800 (immOk f) (.dst n) (.src n) (useB f 1) .zero
  | 0x28 => shT f bitsTys 0x800 true (.dst n) (.src n) (useB f 1) .zero
  | 0x29 => shT f [0] 0x001 true (.dst 1) (.src 1) (.src 1) (.src 1)
  | 0x2A | 0x2B => shT f bitsTys 0 true (.dst 1) (.src n) .zero .zero
  | 0x2C => shT f bitsTys 0 true (.dst n) (.src n) .zero .zero
  | 0x2D => shT f [1, 2] 0x7FF (!m.getLsbD 10 || fld 9 0 = 0) (.dst 1) (.src 1) (.when (m.getLsbD 10) (.src 1)) .zero
  | 0x2E => shT f [0] 0x7FF (!m.getLsbD 10 || fld 9 0 = 0) (.dst 1) (.src 1) (.src 1) (.when (m.getLsbD 10) (.src 1))
  | 0x2F => shT f [0] 0 true (.dst 1) (.src 1) (.src 1) (.src 1)
  | 0x37 => shT f [0] 0x0FF true .pred .pred .pred .pred
  | 0x38 => shT f [0] 0 true (.dst 1) .zero .zero .zero
  | 0x39 => shT f [0] 0x0FE true .zero (.src 1) .zero .zero
  | 0x3A => shT f [11, 12] 0x001 true (.dst 1) (.src 1) (.src 1) (.src 1)
  | 0x3B | 0x3C => shT f [2, 6] 0x87F true (.dst n) (.src n) (useB f n) .zero
  | 0x3D =>
      let st := fld 3 0
      shT f intTys 0x1FF (intTys.contains st && fld 6 5 < tyElems st && fld 8 7 < tyElems ty)
        (.reg n n .any (1 < tyElems ty)) (.src (tyRegs st)) .zero .zero
  | 0x40 | 0x41 | 0x42 | 0x4C => shT f [3] 0x003 true (.dst 1) (.src 1) (.src 1) .zero
  | 0x43 => shT f [3] 0x003 true (.dst 1) (.src 1) (.src 1) (.src 1)
  | 0x44 | 0x45 => shT f [3] 0 true (.dst 1) (.src 1) (.src 1) .zero
  | 0x46 => shT f [3] 0x037 true .pred (.src 1) (.src 1) (.when (fld 5 4 ≠ 0) .pred)
  | 0x47 | 0x49 | 0x4A | 0x4D | 0x4E | 0x53 => shT f [3] 0 true (.dst 1) (.src 1) .zero .zero
  | 0x48 | 0x4B => shT f [3] 0x003 true (.dst 1) (.src 1) .zero .zero
  | 0x4F => shT f [3] 0 true (.dst 2) (.src 1) .zero .zero
  | 0x50 | 0x51 => shT f [3] 0 true (.dst 1) (.src 2) .zero .zero
  | 0x52 => shT f [3] 0 true (.dst 2) (.src 2) .zero .zero
  | 0x54 | 0x55 | 0x59 => shT f [7, 8] 0x003 true (.dst 1) (.src 1) (.src 1) .zero
  | 0x56 => shT f [7, 8] 0x003 true (.dst 1) (.src 1) (.src 1) (.src 1)
  | 0x57 => shT f [7, 8] 0x004 true (.dst 1) (.src 1) (.src 1) .zero
  | 0x58 =>
      let st := fld 6 3
      let fl : Nat → Bool := fun t => t = 3 || t = 7 || t = 8
      shT f [1, 2, 3, 5, 6, 7, 8] 0x1FB
        ([1, 2, 3, 5, 6, 7, 8].contains st && (fl ty || fl st) && st ≠ ty && (fld 7 7 = 0 || 1 < tyElems st) &&
          (fld 8 8 = 0 || 1 < tyElems ty))
        (.reg n n .any (1 < tyElems ty)) (.src (tyRegs st)) .zero .zero
  | 0x5A => shT f [7, 8] 0 true (.dst 2) (.src 1) .zero .zero
  | 0x5D =>
      let dir := fld 4 2
      shT f [0] 0x3FF
        (dir < 6 && fld 7 6 < tricvElems dir false && fld 9 8 < tricvElems dir true &&
          (dir < 4 || (fld 5 5 = 0 && fld 1 0 = 0)))
        (.reg 1 1 .any (1 < tricvElems dir true)) (.src 1) (.when (fld 5 5 = 1) (.src 1)) .zero
  | 0x5E => shT f [7, 8] 0x007 true (.dst 1) (.src 1) (.src 1) (.src 1)
  | 0x60 =>
      shT f [0, 4] 0x805
        ((fld 0 0 = 0 || ty = 0) && (!m.getLsbD 11 || (fld 2 2 = 1 && f.b.toNat < 32)))
        (.dst n) (if fld 2 2 = 1 then .src 1 else .pred) (.when (fld 2 2 = 1) (useB f 1)) .zero
  | 0x61 => shT f [0] 0x003 (fld 1 0 < 3) .pred .pred .zero .zero
  | 0x62 | 0x63 => shT f [0, 4] 0x800 (!m.getLsbD 11 || f.b.toNat < 64) (.dst n) (.src n) (useB f 1) .zero
  | 0x64 | 0x65 => shT f [0, 4] 0x800 true (.dst n) (.src n) (useB f 1) .zero
  | 0x66 => shT f [0] 0x00F (fld 1 0 < 2) (.dst 1) (.src 1) .zero .zero
  | 0x67 => shT f [0, 4] 0 true (.dst 2) (.src n) .zero .zero
  | 0x68 | 0x69 =>
      let o := fld 6 4
      shT f [0, 1, 2, 3, 4, 5, 6] (if op = 0x68 then 0x073 else 0x0F3)
        (o < 6 && (if o < 3 then ty ≠ 0 ∧ ty ≠ 4 else ty ≠ 3) && (fld 1 0 = 0 || (ty = 3 && o = 0)))
        (.dst n) (.src n) .zero .zero
  | 0x6A => shT f [0] 0x003 true (.dst 2) .zero .zero .zero
  | 0x6B => shT f [0] 0 (f.g == 0) .zero (.src 1) .zero .zero
  | 0x6C => shT f [0] 0x003 true (.dst 1) .zero .zero .zero
  | 0x90 =>
      shT f [if fld 3 0 ≤ 4 then 4 else 0] 0x00F (fld 3 0 ≤ 9) (.dst (if fld 3 0 ≤ 4 then 2 else 1)) (.src 4) .zero .zero
  | 0x91 => shT f [4] 0x803 true (.dst 4) (.src 4) (useB f 2) .zero
  | 0x92 => shT f [5] 0x800 true (.dst 4) (.src 4) (useB f 2) .zero
  | 0x93 => shT f [4] 0 true (.dst 4) (.src 4) (.src 2) .zero
  | 0x94 => shT f [0] 0 true (.dst 4) (.src 4) (.src 1) .zero
  | 0x95 => shT f [0] 0x83F true (.dst 1) (.src 4) (useB f 1) .zero
  | 0x96 | 0x97 | 0xE4 => shT f [0] 0 true (.dst 4) (.src 4) .zero .zero
  | 0x98 => shT f [0] 0x001 true (.dst 1) (.src 4) (.src 4) .zero
  | 0x99 => shT f [5] 0 true (.dst 2) (.src 4) (.src 4) .zero
  | 0x9A =>
      if fld 1 0 < 2 then shT f [4] 0x803 true (.dst 4) (.src 4) (useB f 1) .zero
      else shT f [4] 0x003 true (.dst 2) (.src 2) .zero .zero
  | 0x9B => shT f [0] 0 true (.dst 8) (.src 4) (.src 1) (.src 1)
  | 0x9C => shT f [0] 0 true (.dst 4) (.src 8) .zero .zero
  | 0xA3 => shT f [0] 0x0FF true .zero (.reg 1 1 .uni true) .zero .zero
  | 0xA4 =>
      let r := if fld 2 2 = 0 then 2 else 1
      if fld 3 3 = 0 then shT f [0] 0x00F true .zero (.src r) .zero .zero
      else shT f [0] 0x00F true (.dst r) .zero .zero .zero
  | 0xA5 =>
      shT f [0] 0x003 true (.reg 17 8 .any false) (.reg (if fld 0 0 = 0 then 32 else 64) 8 .any true)
        (.when (fld 1 1 = 1) (.src 1)) .zero
  | 0xA6 => shT f [0] 0x03F true (.dst 1) (.src 16) .zero .zero
  | 0xA7 => shT f [0] 0x03F true (.dst 16) .zero .zero .zero
  | 0xC0 => shT f [0] 0x001 true (.dst 1) (.src 4) (.src 16) .zero
  | 0xC1 => shT f [0] 0x001 true (.dst 1) (.src 4) (.dst 16) .zero
  | 0xC2 => shT f [0] 0 true (.dst 2) (.src 4) .zero .zero
  | 0xC3 => shT f [0] 0x001 true (.dst 8) .zero (.dst 1) .zero
  | 0xC4 => shT f [0] 0 true (.src 4) (.src 4) (.src 4) (.reg 8 8 .uni true)
  | 0xD6 =>
      shT f [0] 0x003 (fld 1 0 < 3) (.dst (if fld 1 0 = 2 then 2 else 1)) (.when (fld 1 0 = 0) (.src 2)) .zero .zero
  | 0xE1 => shT f [0] 0 true (.dst 1) (.src 8) (.src 1) .zero
  | 0xE2 => shT f [0] 0x001 true (.dst 1) (.src 2) (.src 1) (.when (fld 0 0 = 1) (.src 1))
  | 0xE3 => shT f [0] 0x001 true (.dst 2) .zero (.src 1) .zero
  | 0xE6 =>
      shT f [0] 0x003 (fld 1 0 < 3 && (fld 0 0 = 0 || f.c == 0x140) && (fld 1 1 = 0 || f.a == 0x140))
        (.dst 1) (.src 1) (.src 1) (.src 1)
  | 0xE7 =>
      shT f [0] 0x007 (fld 2 0 < 6) (.dst 1) (.src 4)
        (if fld 2 0 < 2 then .dst 4 else if fld 2 0 = 5 then .src 4 else .zero) .zero
  | 0xE8 => shT f [0] 0 true (.dst 1) (.src 4) .zero .zero
  | 0xE9 => shT f [0] 0 true (.dst 1) (.src 4) (.src 4) .zero
  | _ => ⟨false, []⟩

/-- Format I (R147, R148, R166). ICMPI divides its D field: [2:0] the predicate, [5:3] the condition, [8:6] zero. -/
def shapeI (op : Nat) (f : FmtI) : Shape :=
  let n := if f.mi == 0 then 1 else 2
  let fs := fun (d a : Use) => [⟨41, f.d.toNat, d⟩, ⟨32, f.a.toNat, a⟩]
  match op with
  | 0x30 => ⟨f.mi != 3, fs (.dst n) .zero⟩
  | 0x31 | 0x32 | 0x33 | 0x34 | 0x36 => ⟨f.mi != 3, fs (.dst n) (.src n)⟩
  | 0x35 => ⟨f.d.toNat / 8 < 6, fs .raw (.src (if f.mi.toNat < 2 then 1 else 2))⟩
  | 0x5B | 0x5C => ⟨f.mi == 0, fs (.dst 1) (.src 1)⟩
  | _ => ⟨false, []⟩

/-- The access size in bytes of a memory TY code (R38). -/
def tySize (ty : Nat) : Nat :=
  if ty ≤ 1 then 1 else if ty ≤ 3 then 2 else if ty = 4 then 4 else if ty = 5 then 8 else if ty = 6 then 16 else 32

/-- Registers of a data operand of a memory TY code (R38). -/
def memRegs (ty : Nat) : Nat := if ty ≤ 4 then 1 else tySize ty / 4

/-- The seven count bits [47:41] of LDM, STM, SPILL and FILL (R210, R255). -/
def countBits (f : FmtM) : Nat := f.ord.toNat * 8 + f.scope.toNat

/-- Format M (R105, R210, R251, R255 to R257, R262, R263). -/
def shapeM (op : Nat) (f : FmtM) : Shape :=
  let ty := f.ty.toNat
  let o := f.ord.toNat
  let sc := f.scope.toNat
  let r := memRegs ty
  let fs := fun (d q x : Use) => [⟨27, f.d.toNat, d⟩, ⟨18, f.q.toNat, q⟩, ⟨9, f.x.toNat, x⟩]
  let mfz := f.rsv == 0 && f.ack == 0 && f.ofl == 0
  let plain := o = 0 && sc = 0
  let scOk := sc < 6 && (o ≠ 0 || sc = 0)
  match op with
  | 0x80 => ⟨ty < 8 && [0, 1, 2, 5].contains o && scOk && mfz, fs (.dst r) (.src 4) (.src 1)⟩
  | 0x81 => ⟨[0, 2, 4, 5, 6, 7].contains ty && [0, 1, 3, 5].contains o && scOk && f.rsv == 0 && f.ack == 0,
      fs (.dst r) (.src 4) (.src 1)⟩
  | 0x82 => ⟨ty = 6 && [0, 1, 2, 5].contains o && scOk && mfz, fs (.dst 4) (.src 4) (.src 1)⟩
  | 0x83 => ⟨ty = 6 && [0, 1, 3, 5].contains o && scOk && mfz, fs (.src 4) (.src 4) (.src 1)⟩
  | 0x84 => ⟨ty = 6 && countBits f < 64 && mfz, fs (.reg (4 * (countBits f + 1)) 4 .any false) (.src 4) (.src 1)⟩
  | 0x85 => ⟨ty = 6 && countBits f < 64 && mfz, fs (.reg (4 * (countBits f + 1)) 4 .any false) (.src 4) (.src 1)⟩
  | 0x86 => ⟨(ty = 4 || ty = 5) && 1 ≤ o && o ≤ 5 && sc < 6 && f.cl == 0 && f.rsv == 0 && f.ack == 0 &&
        f.off.toNat / 32 < 10 && (f.off.toNat / 32 ≠ 9 || ty = 4), fs (.dst r) (.src 4) (.src r)⟩
  | 0x87 => ⟨(ty = 4 || ty = 5 || ty = 6) && 1 ≤ o && o ≤ 5 && sc < 6 && f.cl == 0 && f.rsv == 0 && f.ack == 0 &&
        f.off.toNat / 32 = 0, fs (.src r) (.src 4) (.src r)⟩
  | 0x88 => ⟨ty = 0 && 2 ≤ o && o ≤ 5 && sc < 6 && f.cl == 0 && f.rsv == 0 && f.ofl == 0 && f.off == 0 &&
        (f.ack == 0 || sc = 4 || sc = 5), fs .zero .zero .zero⟩
  | 0x89 => ⟨ty < 8 && plain && mfz, fs .zero (.src 4) (.src 1)⟩
  | 0x8A =>
      if ty = 3 then ⟨plain && f.cl == 0 && mfz && f.q == 0x140 && f.x == 0x140 && f.off == 0, fs .zero .raw .raw⟩
      else ⟨ty < 3 && plain && f.cl == 0 && mfz, fs .zero (.src 4) (.src 1)⟩
  | 0x8B => ⟨ty < 2 && plain && f.cl == 0 && mfz, fs .zero (.src 4) (.src 1)⟩
  | 0x8C =>
      let base := plain && f.cl == 0 && mfz && f.off.toNat < 4 && f.x == 0x140
      if ty = 0 then ⟨base, fs (.src 1) (.src 4) .raw⟩
      else ⟨ty = 1 && base && f.q == 0x140, fs .zero .raw .raw⟩
  | 0x9D => ⟨ty = 6 && plain && f.cl == 0 && mfz, fs (.src 4) (.src 4) (.src 1)⟩
  | 0xCA | 0xCB => ⟨ty = 6 && countBits f < 32 && mfz, fs (.reg (8 * (countBits f + 1)) 8 .vec false) (.src 4) (.src 1)⟩
  | _ => ⟨false, []⟩

/-- Format B (R39, R176). -/
def shapeB (op : Nat) (f : FmtB) : Shape :=
  let base := f.bc == 0 && f.rsv == 0
  match op with
  | 0x01 => ⟨base, [⟨32, f.a.toNat, .zero⟩]⟩
  | 0x03 => ⟨base, [⟨32, f.a.toNat, .dst 4⟩]⟩
  | _ => ⟨false, []⟩

/-- Format X (R223, R276, R280, R286, R295). -/
def shapeX (op : Nat) (f : FmtX) : Shape :=
  let xo := f.xo.toNat
  let bar := f.bar.toNat
  let fs := fun (d a b c : Use) => [⟨27, f.d.toNat, d⟩, ⟨18, f.a.toNat, a⟩, ⟨9, f.b.toNat, b⟩, ⟨0, f.c.toNat, c⟩]
  let mt := f.msel == 0 && f.tid == 0
  let vw := xo / 2 % 2 = 1
  match op with
  | 0x70 => ⟨mt && xo = 0, fs (.dst 1) (.src 1) .zero .zero⟩
  | 0x71 => ⟨mt && xo < 2, fs (.dst 1) .zero .zero .zero⟩
  | 0x72 => ⟨mt && xo = 0, fs .zero (.src 1) .zero .zero⟩
  | 0x73 => ⟨mt && xo = 0, fs .zero (.src 2) .zero .zero⟩
  | 0x74 => ⟨mt && xo = 0, fs .pred (.src 1) .zero .zero⟩
  | 0x75 => ⟨mt && xo = 0, fs (.dst 4) .zero .zero .zero⟩
  | 0x76 =>
      let ok := mt && bar < 4
      match xo with
      | 0 => ⟨ok, fs (.dst 1) (.src 1) .zero .zero⟩
      | 1 => ⟨ok, fs (.dst 1) .zero .zero .zero⟩
      | 2 => ⟨ok, fs .zero (.src 1) .zero .zero⟩
      | 3 => ⟨ok, fs .pred (.src 1) .zero .zero⟩
      | 4 => ⟨ok, fs (.dst 4) .zero .zero .zero⟩
      | 5 => ⟨ok, fs .zero (.src 2) .zero .zero⟩
      | _ => ⟨false, []⟩
  | 0x77 => ⟨mt && xo = 0, fs (.dst 1) (.src 2) .zero .zero⟩
  | 0x78 => ⟨mt && xo = 0, fs .zero .zero .zero .zero⟩
  | 0x79 => ⟨mt && xo < 2, fs (.dst 1) .zero .zero .zero⟩
  | 0x7A =>
      let r := if xo / 4 % 2 = 1 then 2 else 1
      ⟨mt && xo < 8 && bar < 6, fs (.dst r) (.src 4) (.src r) (.src 1)⟩
  | 0xA0 =>
      ⟨xo < 4 && f.b.toNat < 256,
        fs (.reg (if xo % 2 = 1 then 32 else 16) 16 .vec false) (.reg 1 8 .vec false) .raw (.reg 1 1 .uni true)⟩
  | 0xA1 => ⟨xo < 4 && xo % 2 = 0 && f.b.toNat < 256, fs (.reg 16 16 .vec false) (.reg 1 8 .vec false) .raw (.reg 4 4 .uni true)⟩
  | 0xA2 =>
      ⟨xo < 4 && f.msel == 0 && f.d.toNat < 256 && (xo < 2 || bar = 0),
        fs .raw (.src 4) (.src 1) (.reg 1 1 .uni true)⟩
  | 0xA8 => ⟨mt && xo = 0 && bar = 0, fs (.dst 1) (.src 4) (.src 1) .zero⟩
  | 0xB0 =>
      ⟨f.msel == 0 && xo < 4 && (!vw || bar = 0), fs (.src 4) (.reg 8 8 .uni true) .zero (.when vw (.reg 2 2 .uni true))⟩
  | 0xB1 =>
      ⟨f.msel == 0 && xo < 4 && (!vw || bar = 0),
        fs (.src 4) (.reg 8 8 .uni true) (.src 4) (.when vw (.reg 2 2 .uni true))⟩
  | 0xB2 =>
      ⟨f.msel == 0 && (xo = 0 || xo = 2) && (!vw || bar = 0),
        fs (.reg 1 4 .vec false) (.reg 8 8 .uni true) .zero (.when vw (.reg 2 2 .uni true))⟩
  | 0xB3 => ⟨mt && xo = 0, fs (.reg 1 4 .uni true) (.src 4) (.src 1) .zero⟩
  | 0xB4 => ⟨mt && xo < 4 && bar = 0, fs .zero (.src 4) (.src 1) .zero⟩
  | 0xB5 => ⟨mt && xo < 4, fs (.src 4) .zero (.src 1) .zero⟩
  | 0xB6 | 0xB9 => ⟨mt && xo = 0 && bar = 0, fs (.dst 1) (.src 4) .zero .zero⟩
  | 0xB7 =>
      ⟨mt && (xo = 0 || xo = 2) && (!vw || bar = 0), fs (.when vw (.reg 2 2 .uni true)) (.src 4) (.src 2) (.src 1)⟩
  | 0xB8 => ⟨mt && xo < 2 && bar = 0, fs .zero (.src 4) (.src 1) .zero⟩
  | 0xBA => ⟨mt && xo = 0 && bar = 0, fs (.dst 2) (.src 4) .zero .zero⟩
  | _ => ⟨false, []⟩

/-- The selectors SREAD knows (R131). -/
def sreadSels : List Nat :=
  (List.range 27).tail ++ [0x20, 0x30] ++ (List.range 8).map (0x40 + ·)

/-- The counters PERFRD knows (R357). -/
def perfSels : List Nat := List.range 10 ++ (List.range 5).map (0x10 + ·)

/-- Format S (R125, R132, R133, R176, R205, R214, R350, R358, R373 to R375). -/
def shapeS (op : Nat) (f : FmtS) : Shape :=
  let fn := f.fn.toNat
  let im := f.imm.toNat
  let fs := fun (d a : Use) => [⟨27, f.d.toNat, d⟩, ⟨18, f.a.toNat, a⟩]
  match op with
  | 0x09 | 0x0A => ⟨fn = 0, fs .zero .zero⟩
  | 0xC8 | 0xC9 => ⟨fn < 2 && im = 0, fs (.dst 1) .zero⟩
  | 0xCC => ⟨fn = 0 && im = 0, fs .zero .zero⟩
  | 0xD0 =>
      ⟨sreadSels.contains fn && (if fn = 0x17 then im < 8 else im = 0),
        fs (.dst (if fn = 0x12 ∨ fn = 0x13 then 2 else 1)) .zero⟩
  | 0xD1 => ⟨(fn = 0x30 || (0x40 ≤ fn && fn ≤ 0x47)) && (im = 0 || f.a == 0x140), fs .zero (.src 1)⟩
  | 0xD2 => ⟨perfSels.contains fn && im < 2, fs (.dst 2) .zero⟩
  | 0xD3 => ⟨im = 0, fs (.dst 8) (.src 8)⟩
  | 0xD4 => ⟨fn < 2 && im = 0, fs .zero .zero⟩
  | 0xD5 => ⟨fn < 3 && im = 0, fs (.dst (if fn = 0 then 16 else if fn = 1 then 1 else 2)) .zero⟩
  | 0xE0 => ⟨fn = 0 && im < 2, fs (.dst 1) .zero⟩
  | 0xE5 => ⟨fn < 3 && im = 0, fs (.dst 1) (.src 1)⟩
  | _ => ⟨false, []⟩

/-- What a form asks of a word. -/
def Form.shape : Form → Shape
  | .t op f => shapeT op f
  | .i op f => shapeI op f
  | .m op f => shapeM op f
  | .b op f => shapeB op f
  | .x op f => shapeX op f
  | .s op f => shapeS op f
  | .event => ⟨false, []⟩

/-- A field that must be zero and is. -/
def Fld.zeroOk (x : Fld) : Bool := x.use != .zero || x.val == 0

/-- Whether a word breaks no ILLEGAL rule of its form (R34, R44). -/
def Form.legal (w : Form) : Bool := w.shape.ok && w.shape.flds.all Fld.zeroOk

/-- Whether a register or predicate field is acceptable when its group holds `alloc` vector registers: in range and not
reserved (R30), a multiple as R31 asks, within the allocation (R127), of the class the row accepts; a predicate field has
no high bit (R33). -/
def Fld.operandOk (alloc : Nat) (x : Fld) : Bool :=
  match x.use with
  | .zero | .raw => true
  | .pred => x.val < 8
  | .reg n al cls _ =>
      x.val ≤ 0x140 && x.val % al == 0 &&
        (if x.val < 0x100 then cls != .uni && x.val + n ≤ alloc
         else if x.val < 0x140 then cls != .vec && x.val + n ≤ 0x140
         else cls != .vec)

/-- The offending operand field that stands highest in the word (R450), if any. -/
def Form.badField (alloc : Nat) (w : Form) : Option Fld :=
  w.shape.flds.find? fun x => !x.operandOk alloc

/-- Whether SPILL or FILL is in its lease form (R210). -/
def leaseForm (f : FmtM) : Bool := f.q == 0x140 && f.x == 0x140

/-- The lease-form offset and count of a SPILL or FILL pass 16 octs (R210). -/
def leaseTooLong (f : FmtM) : Bool := 16 < f.off.toNat + countBits f + 1

end Sys2Proof.Machine
end

