-- ==== Sys2Proof/WellFormed.lean ====
section
/-! DEFINITION. When an instruction word is well formed: it breaks no rule of R34 and R44 that stands in the word alone, its
selectors are those of the row it stands for, and its operand fields fit the largest allocation (R127). -/

namespace Sys2Proof

open Sys2Proof.Machine

/-- The selector fields that tell the rows of one opcode apart hold this row's value. -/
def ownSelector (i : Instr) : Bool :=
  match i with
  | .bclustInit f => f.xo == 0
  | .bclustArv f => f.xo == 1
  | .bclustWait f => f.xo == 2
  | .bclustTest f => f.xo == 3
  | .bclustRead f => f.xo == 4
  | .bclustExp f => f.xo == 5
  | .cvdropLane f => f.xo == 0
  | .cvdropFree f => f.xo == 1
  | .cctlWb f => f.ty == 0
  | .cctlInv f => f.ty == 1
  | .cctlWbinv f => f.ty == 2
  | .cctlWball f => f.ty == 3
  | .retainSet f => f.ty == 0
  | .retainClr f => f.ty == 1
  | .mpredSet f => !f.mod.getLsbD 3
  | .mpredGet f => f.mod.getLsbD 3
  | .regacqWait f => f.fn == 0
  | .regacqTry f => f.fn == 1
  | .regrel f => f.fn == 0
  | .regrelLease f => f.fn == 1
  | .spillMemory f => !leaseForm f
  | .spillLease f => leaseForm f && !leaseTooLong f
  | .fillMemory f => !leaseForm f
  | .fillLease f => leaseForm f && !leaseTooLong f
  | .svcWalltime f => !([0x10, 0x11, 0x20, 0x21, 0x30, 0x40].contains f.fn.toNat)
  | .svcQcreate f => f.fn == 0x10
  | .svcQclose f => f.fn == 0x11
  | .svcCommcreate f => f.fn == 0x20
  | .svcCommend f => f.fn == 0x21
  | .svcBarrmint f => f.fn == 0x30
  | .svcGrantreq f => f.fn == 0x40
  | .eretRetry f => f.fn == 0
  | .eretSkip f => f.fn == 1
  | .trapsetSet f => f.mod.toNat % 4 == 0
  | .trapsetClr f => f.mod.toNat % 4 == 1
  | .trapsetGet f => f.mod.toNat % 4 == 2
  | .ctxgateGate f => f.fn == 0
  | .ctxgateUngate f => f.fn == 1
  | .ctxgateState f => f.fn == 2
  | .leaseopOffer f => f.mod.toNat % 8 == 0
  | .leaseopAccept f => f.mod.toNat % 8 == 1
  | .leaseopReclaim f => f.mod.toNat % 8 == 2
  | .leaseopRelease f => f.mod.toNat % 8 == 3
  | .leaseopForce f => f.mod.toNat % 8 == 4
  | .leaseopQuery f => f.mod.toNat % 8 == 5
  | _ => true

/-- A well-formed instruction: an instruction row, legal, with its own selector and acceptable operand fields. -/
def wellFormed (i : Instr) : Bool :=
  (form i).legal && ownSelector i && ((form i).badField 256).isNone

end Sys2Proof
end

