-- ==== Sys2Proof/Decode.lean ====
section
/-! DEFINITION. Decoding a 64-bit instruction word (R21, R29 to R44), total and rejecting by name, and the encoder written
from the same tables. The checks made here are those that rank as ILLEGAL and stand in the word alone; ILLEGAL_OPERAND,
ILLEGAL_CLASS and PRIV belong to the machine (Machine/Issue.lean), because R46 ranks them after. -/

namespace Sys2Proof

open Sys2Proof.Machine

/-- Why a word is no instruction (R44). Every one of them is ILLEGAL. -/
inductive DecodeError where
  /-- OP 0x00: zero-filled code -/
  | zero
  /-- an OP that the map of R41 marks with a dot -/
  | reservedOpcode (op : Nat)
  /-- JOIN or XCHAIN, which the match-and-replace table has not replaced (R45) -/
  | retired (op : Nat)
  /-- OP 0xFE in an instruction position -/
  | header
  /-- a selector that tells the rows of one opcode apart holds a value no row defines (R34) -/
  | undefinedSelector (op : Nat)
  /-- a nonzero reserved or unused field, or a selector value the row does not accept (R34) -/
  | illegalField (op : Nat)
  deriving DecidableEq, Repr

/-- The fields of a format-T word (R35). -/
def FmtT.ofWord (w : DWord) : FmtT :=
  ⟨w.extractLsb' 52 4, w.extractLsb' 48 4, w.extractLsb' 36 12, w.extractLsb' 27 9, w.extractLsb' 18 9, w.extractLsb' 9 9,
    w.extractLsb' 0 9⟩

/-- The fields of a format-I word (R37). -/
def FmtI.ofWord (w : DWord) : FmtI :=
  ⟨w.extractLsb' 52 4, w.extractLsb' 50 2, w.extractLsb' 41 9, w.extractLsb' 32 9, w.extractLsb' 0 32⟩

/-- The fields of a format-M word (R38). -/
def FmtM.ofWord (w : DWord) : FmtM :=
  ⟨w.extractLsb' 52 4, w.extractLsb' 48 4, w.extractLsb' 44 4, w.extractLsb' 41 3, w.extractLsb' 39 2, w.extractLsb' 38 1,
    w.extractLsb' 37 1, w.extractLsb' 36 1, w.extractLsb' 27 9, w.extractLsb' 18 9, w.extractLsb' 9 9, w.extractLsb' 0 9⟩

/-- The fields of a format-B word (R39). -/
def FmtB.ofWord (w : DWord) : FmtB :=
  ⟨w.extractLsb' 52 4, w.extractLsb' 48 4, w.extractLsb' 41 7, w.extractLsb' 32 9, w.extractLsb' 0 32⟩

/-- The fields of a format-X word (R40). -/
def FmtX.ofWord (w : DWord) : FmtX :=
  ⟨w.extractLsb' 52 4, w.extractLsb' 48 4, w.extractLsb' 44 4, w.extractLsb' 42 2, w.extractLsb' 36 6, w.extractLsb' 27 9,
    w.extractLsb' 18 9, w.extractLsb' 9 9, w.extractLsb' 0 9⟩

/-- The fields of a format-S word (R40). -/
def FmtS.ofWord (w : DWord) : FmtS :=
  ⟨w.extractLsb' 52 4, w.extractLsb' 36 16, w.extractLsb' 27 9, w.extractLsb' 18 9, w.extractLsb' 0 18⟩

/-- OP, bits [63:56] of every word (R21). -/
def opOf (w : DWord) : Nat := (w.extractLsb' 56 8).toNat

/-- The rows of BCLUST, by their selector. -/
def selectBclust (f : FmtX) : Except DecodeError Instr :=
  match f.xo.toNat with
  | 0 => .ok (.bclustInit f)
  | 1 => .ok (.bclustArv f)
  | 2 => .ok (.bclustWait f)
  | 3 => .ok (.bclustTest f)
  | 4 => .ok (.bclustRead f)
  | 5 => .ok (.bclustExp f)
  | _ => .error (.undefinedSelector 0x76)

/-- The rows of CVDROP, by their selector. -/
def selectCvdrop (f : FmtX) : Except DecodeError Instr :=
  match f.xo.toNat with
  | 0 => .ok (.cvdropLane f)
  | 1 => .ok (.cvdropFree f)
  | _ => .error (.undefinedSelector 0x79)

/-- The rows of CCTL, by their selector. -/
def selectCctl (f : FmtM) : Except DecodeError Instr :=
  match f.ty.toNat with
  | 0 => .ok (.cctlWb f)
  | 1 => .ok (.cctlInv f)
  | 2 => .ok (.cctlWbinv f)
  | 3 => .ok (.cctlWball f)
  | _ => .error (.undefinedSelector 0x8A)

/-- The rows of RETAIN, by their selector. -/
def selectRetain (f : FmtM) : Except DecodeError Instr :=
  match f.ty.toNat with
  | 0 => .ok (.retainSet f)
  | 1 => .ok (.retainClr f)
  | _ => .error (.undefinedSelector 0x8C)

/-- The rows of REGACQ, by their selector. -/
def selectRegacq (f : FmtS) : Except DecodeError Instr :=
  match f.fn.toNat with
  | 0 => .ok (.regacqWait f)
  | 1 => .ok (.regacqTry f)
  | _ => .error (.undefinedSelector 0xC8)

/-- The rows of REGREL, by their selector. -/
def selectRegrel (f : FmtS) : Except DecodeError Instr :=
  match f.fn.toNat with
  | 0 => .ok (.regrel f)
  | 1 => .ok (.regrelLease f)
  | _ => .error (.undefinedSelector 0xC9)

/-- The rows of SVC, by their selector. -/
def selectSvc (f : FmtS) : Except DecodeError Instr :=
  match f.fn.toNat with
  | 16 => .ok (.svcQcreate f)
  | 17 => .ok (.svcQclose f)
  | 32 => .ok (.svcCommcreate f)
  | 33 => .ok (.svcCommend f)
  | 48 => .ok (.svcBarrmint f)
  | 64 => .ok (.svcGrantreq f)
  | _ => .ok (.svcWalltime f)

/-- The rows of ERET, by their selector. -/
def selectEret (f : FmtS) : Except DecodeError Instr :=
  match f.fn.toNat with
  | 0 => .ok (.eretRetry f)
  | 1 => .ok (.eretSkip f)
  | _ => .error (.undefinedSelector 0xD4)

/-- The rows of TRAPSET, by their selector. -/
def selectTrapset (f : FmtT) : Except DecodeError Instr :=
  match f.mod.toNat % 4 with
  | 0 => .ok (.trapsetSet f)
  | 1 => .ok (.trapsetClr f)
  | 2 => .ok (.trapsetGet f)
  | _ => .error (.undefinedSelector 0xD6)

/-- The rows of CTXGATE, by their selector. -/
def selectCtxgate (f : FmtS) : Except DecodeError Instr :=
  match f.fn.toNat with
  | 0 => .ok (.ctxgateGate f)
  | 1 => .ok (.ctxgateUngate f)
  | 2 => .ok (.ctxgateState f)
  | _ => .error (.undefinedSelector 0xE5)

/-- The rows of LEASEOP, by their selector. -/
def selectLeaseop (f : FmtT) : Except DecodeError Instr :=
  match f.mod.toNat % 8 with
  | 0 => .ok (.leaseopOffer f)
  | 1 => .ok (.leaseopAccept f)
  | 2 => .ok (.leaseopReclaim f)
  | 3 => .ok (.leaseopRelease f)
  | 4 => .ok (.leaseopForce f)
  | 5 => .ok (.leaseopQuery f)
  | _ => .error (.undefinedSelector 0xE7)

/-- The row that OP and the row selectors name, before any field is checked. Each row of R41 is read in its format of
R42. -/
def candidate (w : DWord) : Except DecodeError Instr :=
  match opOf w with
  | 0x00 => .error .zero
  | 0x01 => .ok (.bra (FmtB.ofWord w))
  | 0x02 => .ok (.brx (FmtT.ofWord w))
  | 0x03 => .ok (.call (FmtB.ofWord w))
  | 0x04 => .ok (.callx (FmtT.ofWord w))
  | 0x05 => .ok (.ret (FmtT.ofWord w))
  | 0x06 => .ok (.exit (FmtT.ofWord w))
  | 0x07 => .ok (.nop (FmtT.ofWord w))
  | 0x08 => .ok (.yield (FmtT.ofWord w))
  | 0x09 => .ok (.brk (FmtS.ofWord w))
  | 0x0A => .ok (.trap (FmtS.ofWord w))
  | 0x0B => .error (.retired 0x0B)
  | 0x10 => .ok (.iadd (FmtT.ofWord w))
  | 0x11 => .ok (.isub (FmtT.ofWord w))
  | 0x12 => .ok (.imul (FmtT.ofWord w))
  | 0x13 => .ok (.imulh (FmtT.ofWord w))
  | 0x14 => .ok (.imad (FmtT.ofWord w))
  | 0x15 => .ok (.idiv (FmtT.ofWord w))
  | 0x16 => .ok (.irem (FmtT.ofWord w))
  | 0x17 => .ok (.imin (FmtT.ofWord w))
  | 0x18 => .ok (.imax (FmtT.ofWord w))
  | 0x19 => .ok (.iabs (FmtT.ofWord w))
  | 0x1A => .ok (.ineg (FmtT.ofWord w))
  | 0x1B => .ok (.iadds (FmtT.ofWord w))
  | 0x1C => .ok (.isubs (FmtT.ofWord w))
  | 0x1D => .ok (.icmp (FmtT.ofWord w))
  | 0x1E => .ok (.sel (FmtT.ofWord w))
  | 0x1F => .ok (.mov (FmtT.ofWord w))
  | 0x20 => .ok (.andOp (FmtT.ofWord w))
  | 0x21 => .ok (.orOp (FmtT.ofWord w))
  | 0x22 => .ok (.xorOp (FmtT.ofWord w))
  | 0x23 => .ok (.andn (FmtT.ofWord w))
  | 0x24 => .ok (.lop3 (FmtT.ofWord w))
  | 0x25 => .ok (.shl (FmtT.ofWord w))
  | 0x26 => .ok (.shr (FmtT.ofWord w))
  | 0x27 => .ok (.shra (FmtT.ofWord w))
  | 0x28 => .ok (.rotl (FmtT.ofWord w))
  | 0x29 => .ok (.funnel (FmtT.ofWord w))
  | 0x2A => .ok (.clz (FmtT.ofWord w))
  | 0x2B => .ok (.popc (FmtT.ofWord w))
  | 0x2C => .ok (.brev (FmtT.ofWord w))
  | 0x2D => .ok (.bfx (FmtT.ofWord w))
  | 0x2E => .ok (.bfi (FmtT.ofWord w))
  | 0x2F => .ok (.bperm (FmtT.ofWord w))
  | 0x30 => .ok (.movi (FmtI.ofWord w))
  | 0x31 => .ok (.iaddi (FmtI.ofWord w))
  | 0x32 => .ok (.andi (FmtI.ofWord w))
  | 0x33 => .ok (.ori (FmtI.ofWord w))
  | 0x34 => .ok (.xori (FmtI.ofWord w))
  | 0x35 => .ok (.icmpi (FmtI.ofWord w))
  | 0x36 => .ok (.imuli (FmtI.ofWord w))
  | 0x37 => .ok (.plop (FmtT.ofWord w))
  | 0x38 => .ok (.packp (FmtT.ofWord w))
  | 0x39 => .ok (.unpackp (FmtT.ofWord w))
  | 0x3A => .ok (.idot4 (FmtT.ofWord w))
  | 0x3B => .ok (.iaddc (FmtT.ofWord w))
  | 0x3C => .ok (.isubb (FmtT.ofWord w))
  | 0x3D => .ok (.cvti (FmtT.ofWord w))
  | 0x40 => .ok (.fadd (FmtT.ofWord w))
  | 0x41 => .ok (.fsub (FmtT.ofWord w))
  | 0x42 => .ok (.fmul (FmtT.ofWord w))
  | 0x43 => .ok (.ffma (FmtT.ofWord w))
  | 0x44 => .ok (.fmin (FmtT.ofWord w))
  | 0x45 => .ok (.fmax (FmtT.ofWord w))
  | 0x46 => .ok (.fcmp (FmtT.ofWord w))
  | 0x47 => .ok (.fclass (FmtT.ofWord w))
  | 0x48 => .ok (.frnd (FmtT.ofWord w))
  | 0x49 => .ok (.frcp (FmtT.ofWord w))
  | 0x4A => .ok (.frsq (FmtT.ofWord w))
  | 0x4B => .ok (.fsqrt (FmtT.ofWord w))
  | 0x4C => .ok (.fdiv (FmtT.ofWord w))
  | 0x4D => .ok (.fex2 (FmtT.ofWord w))
  | 0x4E => .ok (.flg2 (FmtT.ofWord w))
  | 0x4F => .ok (.fred (FmtT.ofWord w))
  | 0x50 => .ok (.fsin (FmtT.ofWord w))
  | 0x51 => .ok (.fcos (FmtT.ofWord w))
  | 0x52 => .ok (.fsincos (FmtT.ofWord w))
  | 0x53 => .ok (.ftanh (FmtT.ofWord w))
  | 0x54 => .ok (.hadd2 (FmtT.ofWord w))
  | 0x55 => .ok (.hmul2 (FmtT.ofWord w))
  | 0x56 => .ok (.hfma2 (FmtT.ofWord w))
  | 0x57 => .ok (.hmnx2 (FmtT.ofWord w))
  | 0x58 => .ok (.cvt (FmtT.ofWord w))
  | 0x59 => .ok (.pack2 (FmtT.ofWord w))
  | 0x5A => .ok (.unpack2 (FmtT.ofWord w))
  | 0x5B => .ok (.faddi (FmtI.ofWord w))
  | 0x5C => .ok (.fmuli (FmtI.ofWord w))
  | 0x5D => .ok (.tricv (FmtT.ofWord w))
  | 0x5E => .ok (.fdot2 (FmtT.ofWord w))
  | 0x60 => .ok (.ballot (FmtT.ofWord w))
  | 0x61 => .ok (.vote (FmtT.ofWord w))
  | 0x62 => .ok (.shfl (FmtT.ofWord w))
  | 0x63 => .ok (.shflx (FmtT.ofWord w))
  | 0x64 => .ok (.shflup (FmtT.ofWord w))
  | 0x65 => .ok (.shfldn (FmtT.ofWord w))
  | 0x66 => .ok (.pswap (FmtT.ofWord w))
  | 0x67 => .ok (.matchOp (FmtT.ofWord w))
  | 0x68 => .ok (.gredux (FmtT.ofWord w))
  | 0x69 => .ok (.gscan (FmtT.ofWord w))
  | 0x6A => .ok (.actmask (FmtT.ofWord w))
  | 0x6B => .ok (.regroup (FmtT.ofWord w))
  | 0x6C => .ok (.rgquery (FmtT.ofWord w))
  | 0x70 => .ok (.binit (FmtX.ofWord w))
  | 0x71 => .ok (.barv (FmtX.ofWord w))
  | 0x72 => .ok (.bwait (FmtX.ofWord w))
  | 0x73 => .ok (.bexpb (FmtX.ofWord w))
  | 0x74 => .ok (.btest (FmtX.ofWord w))
  | 0x75 => .ok (.bread (FmtX.ofWord w))
  | 0x76 => selectBclust (FmtX.ofWord w)
  | 0x77 => .ok (.cvinit (FmtX.ofWord w))
  | 0x78 => .ok (.cvsign (FmtX.ofWord w))
  | 0x79 => selectCvdrop (FmtX.ofWord w)
  | 0x7A => .ok (.waita (FmtX.ofWord w))
  | 0x80 => .ok (.ld (FmtM.ofWord w))
  | 0x81 => .ok (.st (FmtM.ofWord w))
  | 0x82 => .ok (.ldc (FmtM.ofWord w))
  | 0x83 => .ok (.stc (FmtM.ofWord w))
  | 0x84 => .ok (.ldm (FmtM.ofWord w))
  | 0x85 => .ok (.stm (FmtM.ofWord w))
  | 0x86 => .ok (.atom (FmtM.ofWord w))
  | 0x87 => .ok (.acas (FmtM.ofWord w))
  | 0x88 => .ok (.fence (FmtM.ofWord w))
  | 0x89 => .ok (.pref (FmtM.ofWord w))
  | 0x8A => selectCctl (FmtM.ofWord w)
  | 0x8B => .ok (.iline (FmtM.ofWord w))
  | 0x8C => selectRetain (FmtM.ofWord w)
  | 0x90 => .ok (.cget (FmtT.ofWord w))
  | 0x91 => .ok (.csetb (FmtT.ofWord w))
  | 0x92 => .ok (.cadd (FmtT.ofWord w))
  | 0x93 => .ok (.cseta (FmtT.ofWord w))
  | 0x94 => .ok (.candp (FmtT.ofWord w))
  | 0x95 => .ok (.ctest (FmtT.ofWord w))
  | 0x96 => .ok (.cmovq (FmtT.ofWord w))
  | 0x97 => .ok (.cclr (FmtT.ofWord w))
  | 0x98 => .ok (.ceq (FmtT.ofWord w))
  | 0x99 => .ok (.csub (FmtT.ofWord w))
  | 0x9A => .ok (.calign (FmtT.ofWord w))
  | 0x9B => .ok (.cpseal (FmtT.ofWord w))
  | 0x9C => .ok (.cpopen (FmtT.ofWord w))
  | 0x9D => .ok (.cdlg (FmtM.ofWord w))
  | 0xA0 => .ok (.mma (FmtX.ofWord w))
  | 0xA1 => .ok (.mmat (FmtX.ofWord w))
  | 0xA2 => .ok (.wload (FmtX.ofWord w))
  | 0xA3 => .ok (.winv (FmtT.ofWord w))
  | 0xA4 => let f := FmtT.ofWord w; .ok (if f.mod.getLsbD 3 then .mpredGet f else .mpredSet f)
  | 0xA5 => .ok (.mquant (FmtT.ofWord w))
  | 0xA6 => .ok (.tidset (FmtT.ofWord w))
  | 0xA7 => .ok (.tidget (FmtT.ofWord w))
  | 0xA8 => .ok (.treeld (FmtX.ofWord w))
  | 0xB0 => .ok (.xcopy (FmtX.ofWord w))
  | 0xB1 => .ok (.xcopyp (FmtX.ofWord w))
  | 0xB2 => .ok (.xstore (FmtX.ofWord w))
  | 0xB3 => .ok (.xbulk (FmtX.ofWord w))
  | 0xB4 => .ok (.xpub (FmtX.ofWord w))
  | 0xB5 => .ok (.xpull (FmtX.ofWord w))
  | 0xB6 => .ok (.xrun (FmtX.ofWord w))
  | 0xB7 => .ok (.xfill (FmtX.ofWord w))
  | 0xB8 => .ok (.xsig (FmtX.ofWord w))
  | 0xB9 => .ok (.xcancel (FmtX.ofWord w))
  | 0xBA => .ok (.xstat (FmtX.ofWord w))
  | 0xBB => .error (.retired 0xBB)
  | 0xC0 => .ok (.qput (FmtT.ofWord w))
  | 0xC1 => .ok (.qget (FmtT.ofWord w))
  | 0xC2 => .ok (.qstat (FmtT.ofWord w))
  | 0xC3 => .ok (.evget (FmtT.ofWord w))
  | 0xC4 => .ok (.launch (FmtT.ofWord w))
  | 0xC8 => selectRegacq (FmtS.ofWord w)
  | 0xC9 => selectRegrel (FmtS.ofWord w)
  | 0xCA => let f := FmtM.ofWord w; .ok (if leaseForm f then .spillLease f else .spillMemory f)
  | 0xCB => let f := FmtM.ofWord w; .ok (if leaseForm f then .fillLease f else .fillMemory f)
  | 0xCC => .ok (.handoff (FmtS.ofWord w))
  | 0xD0 => .ok (.sread (FmtS.ofWord w))
  | 0xD1 => .ok (.swrite (FmtS.ofWord w))
  | 0xD2 => .ok (.perfrd (FmtS.ofWord w))
  | 0xD3 => selectSvc (FmtS.ofWord w)
  | 0xD4 => selectEret (FmtS.ofWord w)
  | 0xD5 => .ok (.faultrd (FmtS.ofWord w))
  | 0xD6 => selectTrapset (FmtT.ofWord w)
  | 0xE0 => .ok (.sweep (FmtS.ofWord w))
  | 0xE1 => .ok (.grantset (FmtT.ofWord w))
  | 0xE2 => .ok (.fstset (FmtT.ofWord w))
  | 0xE3 => .ok (.fstget (FmtT.ofWord w))
  | 0xE4 => .ok (.cmint (FmtT.ofWord w))
  | 0xE5 => selectCtxgate (FmtS.ofWord w)
  | 0xE6 => .ok (.shareset (FmtT.ofWord w))
  | 0xE7 => selectLeaseop (FmtT.ofWord w)
  | 0xE8 => .ok (.mrtload (FmtT.ofWord w))
  | 0xE9 => .ok (.cvernew (FmtT.ofWord w))
  | 0xFE => .error .header
  | op => .error (.reservedOpcode op)

/-- Decoding a word: the row it names, unless one of its fields is illegal (R44). -/
def decode (w : DWord) : Except DecodeError Instr :=
  match candidate w with
  | .error e => .error e
  | .ok i => if (form i).legal then .ok i else .error (.illegalField (opOf w))

/-- The 64-bit word whose little-endian bytes begin a list (R1, R21), with the bytes that follow. -/
def takeWord : List Byte → Option (DWord × List Byte)
  | b0 :: b1 :: b2 :: b3 :: b4 :: b5 :: b6 :: b7 :: rest =>
      some (b7 ++ b6 ++ b5 ++ b4 ++ b3 ++ b2 ++ b1 ++ b0, rest)
  | _ => none

/-- Decoding the bytes at an instruction address, total on any bytes: an instruction and the bytes after it, or none where
fewer than eight bytes stand or the word is no instruction. -/
def decodeBytes (bs : List Byte) : Option (Instr × List Byte) :=
  match takeWord bs with
  | none => none
  | some (w, rest) =>
      match decode w with
      | .ok i => some (i, rest)
      | .error _ => none

/-- The little-endian bytes of a word. -/
def wordBytes (w : DWord) : List Byte :=
  [w.extractLsb' 0 8, w.extractLsb' 8 8, w.extractLsb' 16 8, w.extractLsb' 24 8, w.extractLsb' 32 8, w.extractLsb' 40 8,
    w.extractLsb' 48 8, w.extractLsb' 56 8]

/-- A format-T word (R35). -/
def FmtT.toWord (op : Nat) (f : FmtT) : DWord :=
  BitVec.ofNat 8 op ++ f.g ++ f.ty ++ f.mod ++ f.d ++ f.a ++ f.b ++ f.c

/-- A format-I word (R37). -/
def FmtI.toWord (op : Nat) (f : FmtI) : DWord :=
  BitVec.ofNat 8 op ++ f.g ++ f.mi ++ f.d ++ f.a ++ f.imm

/-- A format-M word (R38). -/
def FmtM.toWord (op : Nat) (f : FmtM) : DWord :=
  BitVec.ofNat 8 op ++ f.g ++ f.ty ++ f.ord ++ f.scope ++ f.cl ++ f.rsv ++ f.ack ++ f.ofl ++ f.d ++ f.q ++ f.x ++ f.off

/-- A format-B word (R39). -/
def FmtB.toWord (op : Nat) (f : FmtB) : DWord :=
  BitVec.ofNat 8 op ++ f.g ++ f.bc ++ f.rsv ++ f.a ++ f.off

/-- A format-X word (R40). -/
def FmtX.toWord (op : Nat) (f : FmtX) : DWord :=
  BitVec.ofNat 8 op ++ f.g ++ f.xo ++ f.bar ++ f.msel ++ f.tid ++ f.d ++ f.a ++ f.b ++ f.c

/-- A format-S word (R40). -/
def FmtS.toWord (op : Nat) (f : FmtS) : DWord :=
  BitVec.ofNat 8 op ++ f.g ++ f.fn ++ f.d ++ f.a ++ f.imm

/-- The word of an instruction; an event has none, and zero stands for it. -/
def encode (i : Instr) : DWord :=
  match form i with
  | .t op f => f.toWord op
  | .i op f => f.toWord op
  | .m op f => f.toWord op
  | .b op f => f.toWord op
  | .x op f => f.toWord op
  | .s op f => f.toWord op
  | .event => 0

/-- The instruction the decoder reads from a word whose bits are `w`; an instruction of the part is one 64-bit word, so
`nbits` only bounds the bits that are given. -/
def decodeTableWord (nbits w : Nat) : Option Instr :=
  (decodeBytes (wordBytes (BitVec.ofNat 64 (w % 2 ^ nbits)))).map Prod.fst

end Sys2Proof
end

