-- ==== Sys2Proof/Machine/State.lean ====
section
/-! DEFINITION. The state of one device as plain data, why a step may stop, and the state after reset. Everything outside
the device (peers, the host, the wires) is outside the state: what the device sends is appended to `out`, and what reaches
it comes as event rows of Instr. -/

namespace Sys2Proof.Machine

/-- A sparse table by number, keys rising; its operations are in Machine/Store.lean. -/
abbrev Tbl (α : Type) := List (Nat × α)

/-- Bytes by address in one canonical form: addresses rising, no entry equal to what an unlisted address reads as. -/
abbrev Memory := List Host.Cell

/-- Why a step stops for good. -/
inductive Fault where
  /-- The module has powered down (R427); raised by the step function. Safe: the part does nothing more. -/
  | poweredOff
  deriving DecidableEq, Repr

/-- Why a step has no meaning. -/
inductive Refusal where
  /-- An instruction this model does not give a meaning yet; raised by exec's arms only. Safe. -/
  | notModelled (mnemonic : String)
  deriving DecidableEq, Repr

/-! ## Lanes -/

/-- The state of a lane position (R126). An ASLEEP lane records whether it was TRAPPED. -/
inductive LaneState where
  | empty | active | exited
  | asleep (trapped : Bool)
  | trapped | suspended
  deriving DecidableEq, Repr

/-- A write of one register, of one quad with its tag, or of one predicate: `f` is a register field (R30), `k` counts
registers or quads from it. `bad` marks a register written just before as poisoned (R377). -/
inductive RegWrite where
  | reg (f : BitVec 9) (k : Nat) (v : Word)
  | bad (f : BitVec 9) (k : Nat)
  | quad (f : BitVec 9) (k : Nat) (v : Quad) (tag : Bool)
  | pred (k : Nat) (b : Bool)
  deriving DecidableEq, Repr

/-- A WAITA that sleeps (R226): the word's address and width, the condition and the value compared, the scope, whether it
polls (a word in the host or borrowed window), the destination, when the timeout passes, when it last polled, and the value
it then observed. -/
structure WaitWord where
  addr : Nat
  wide : Bool
  (cond scope : Nat)
  cmp : DWord
  polls : Bool
  d : BitVec 9
  deadline : Option Nat
  polled : Nat
  last : Option Nat
  deriving DecidableEq, Repr

/-- What a sleeping lane waits for (R126, R193, R222, R224, R226, R320, R375). `due` is a wake owed to the lane, with the
registers it then writes; lanes with one batch number wake together. -/
inductive Sleep where
  | regroup
  | bwait (bar : Nat) (parity : Bool)
  | bclust (cb : Nat) (parity : Bool)
  | cv (cv : Nat)
  | waita (w : WaitWord)
  | queue (q : Nat)
  | event
  | regacq
  | reeve (job : Nat)
  | lease (record : Nat)
  | due (batch : Nat) (ws : List RegWrite)
  deriving DecidableEq, Repr

/-- The fault record of a lane (R366); `aux` and `info` as the record holds them, `progress` and `flags` as bit fields. -/
structure FaultRec where
  (pc info word : DWord)
  seq : Nat
  progress : BitVec 16
  (codever aux : Word)
  (tid lane group core role : Nat)
  (flags code : Byte)
  deriving DecidableEq, Repr

/-- Where ERET goes (R47): the faulting address, the address and word of the header of its clause, registers transferred
(R213) and substitute words completed (R45). `kind` 0: an instruction of a clause; 1: a header word whose fields break
R44; 2: a word that is no header where one is due. -/
structure RetPoint where
  kind : Nat
  (pc hdr hw : DWord)
  (prog sub : Nat)
  deriving DecidableEq, Repr

/-- A lane that stands in the middle of a clause: the clause's header address and word, and what R213 and R45 let it
skip. -/
structure Resume where
  (hdr hw : DWord)
  (prog sub : Nat)
  deriving DecidableEq, Repr

/-- A refusal answered after its lane moved on (R365, R451). -/
structure Late where
  code : Byte
  (info : DWord)
  aux : Word
  deriving DecidableEq, Repr

/-- What RGQUERY reads (R202). -/
structure RgRec where
  (run rank first mixed : Nat)
  deriving DecidableEq, Repr

/-- Where a fault is taken: PC and WORD of the record, FLAGS without NESTED, substitute words completed, and where a return
goes. -/
structure Site where
  (pc word : DWord)
  flags : Byte
  sub : Nat
  ret : RetPoint
  deriving DecidableEq, Repr

/-- A thread's arrival at REGROUP (R193): its code version and key. -/
structure Arrival where
  (ver key : Nat)
  deriving DecidableEq, Repr

/-- One lane position and the thread in it (R126 to R130, R366). `tags` are the tagged quads, `poison` the poisoned
registers (R377), `ret` the return point of ERET, `susp` where firmware resumes a SUSPENDED lane (R370), `late` the
refusals not yet taken (R451), `site` the instruction in which it sleeps, `lastIssue` dates its age (R169), and `fenced` says
that it has made a release fence that wrote nothing back (R233, R238). -/
structure Lane where
  state : LaneState
  pc : DWord
  regs : Tbl Word
  tags : List Nat
  poison : List Nat
  preds : BitVec 8
  (tid key : Nat)
  rg : RgRec
  fault : FaultRec
  (ret susp : Option RetPoint)
  resume : Option Resume
  sleep : Option Sleep
  late : List Late
  arrival : Option Arrival
  site : Option Site
  lastIssue : Nat
  fenced : Bool
  deriving DecidableEq, Repr

/-! ## Groups, issue slots and teams -/

/-- A group slot (R167 to R173, R204, R208): its team (0: the slot is FREE), group number and role; the uniform registers with their tags and poison;
the vote counter; the extended block; and the lease storage with its tagged quads and poisoned registers, by
register × 64 + lane. `bank` is the core and bank a spill
lease borrowed. The other states of R173 are read from the lanes (Machine/Ops.lean, State.groupState). -/
structure Group where
  (team number role : Nat)
  sregs : Tbl Word
  stags : List Nat
  spoison : List Nat
  (vote lastIssue prio : Nat)
  ext : Bool
  leaseOn : Bool
  lease : Tbl Word
  leaseTags : List Nat
  leasePoison : List Nat
  bank : Option (Nat × Nat)
  deriving DecidableEq, Repr

/-- A tensor identifier entry (R269, R270): 64 bytes, the tag of BASE, and whether the entry is valid. -/
structure TnEntry where
  bits : BitVec 512
  tag : Bool
  valid : Bool
  deriving DecidableEq, Repr

/-- A clause in progress (R22 to R25): its group slot, lane set, header address and word, and next instruction. `sub`
counts substitute words done at that instruction (R45); `yielded` that a YIELD instruction acted in it (R180); `words` are its
instruction words in the fetch buffer of its issue slot, by position (R267). -/
structure Clause where
  gslot : Nat
  (mask hdr hw : DWord)
  (idx sub : Nat)
  yielded : Bool
  words : Tbl DWord
  deriving DecidableEq, Repr

/-- What the second port reads when both ports issue for one group in one cycle (R128): the uniform registers, their tags and
poison, FPMODE, the scratch words and the lane states as they stood before the cycle. So did what a round that completes in it
reads, which are the tensor identifiers, the row and column predicates and the tree table with the TREELD under way (R272, R285,
R287), and the handler that a fault taken in it uses (R372). `late` is the fault that its fetch gave, if it gave one, and `seqs` the
numbers of the cycle's faults, by lane key: those of both instructions stand in lane order (R367). -/
structure PairSnap where
  sregs : Tbl Word
  stags : List Nat
  spoison : List Nat
  fpmode : Word
  scratch : Tbl Word
  states : List LaneState
  tns : Tbl TnEntry
  mrow : Tbl DWord
  mcol : Tbl (BitVec 16)
  tree : List Nat
  treeBy : Option Nat
  handler : Option DWord
  late : Option Late
  seqs : Tbl Nat
  deriving DecidableEq, Repr

/-- Clauses of a held group, parked until the hold ends (R171), with the yield they owe. -/
structure Parked where
  (c0 c1 : Option Clause)
  yieldDue : Bool
  deriving DecidableEq, Repr

/-- An issue slot (R168, R170): its rotation list, top first, the clauses of its two ports, whether the group yields when
both have ended, the pair snapshot, and the clauses of held groups. -/
structure ISlot where
  rotation : List Nat
  (c0 c1 : Option Clause)
  yieldDue : Bool
  snap : Option PairSnap
  parked : List Parked
  deriving DecidableEq, Repr

/-- STATE of a convergence register (R221). -/
inductive CvState where
  | free | armed | signing
  deriving DecidableEq, Repr

/-- What a matrix round reads beside its rows, as it stands when the round completes (R284, R285): its place in matrix order
(R275), the words of C and whether one of them is poisoned, the row and column predicates, the tensor identifier, and the
tree table; `treeBy` is the TREELD that comes before it in matrix order and has not replaced that table yet (R286). -/
structure MmaArgs where
  (order slot kcnt pfx kbase qbase : Nat)
  bad : Bool
  mrow : DWord
  mcol : BitVec 16
  entry : TnEntry
  tree : List Nat
  treeBy : Option Nat
  deriving DecidableEq, Repr

/-- A convergence register (R221). For a matrix round, `mma` holds the instruction's fields and whether it is MMAT, and
`guards` the guards that the signers brought; `full` says that every member has signed, and `args` then holds what a matrix
round reads. -/
structure CvReg where
  state : CvState
  owner : Nat
  (set signed addr : DWord)
  ver : Nat
  mma : Option (FmtX × Bool)
  full : Bool
  guards : DWord
  args : Option MmaArgs
  deriving DecidableEq, Repr

/-- What an access or an engine reads: bytes moved down to byte 0, and the tag and poison of their granule. -/
structure AccVal where
  val : Quad
  (tag poison : Bool)
  deriving DecidableEq, Repr

/-- A TREELD whose data is on its way (R286): the number of its loads, the acting thread and its lane, the lanes that receive the
status, their register, the range, and what its loads have read, by piece. -/
structure TreePend where
  (num gkey acting tid : Nat)
  mask : DWord
  d : BitVec 9
  (addr n : Nat)
  buf : Tbl AccVal
  deriving DecidableEq, Repr

/-- A HANDOFF snapshot of one thread (R214). -/
structure HandSnap where
  regs : Tbl Word
  tags : List Nat
  poison : List Nat
  deriving DecidableEq, Repr

/-- One placed thread of a regroup (R196): its old position as group number × 64 + lane, its role, key and TID, and its new
group number and lane. -/
structure Placed where
  (old role key tid grp lane : Nat)
  deriving DecidableEq, Repr

/-- A regroup in progress (R195, R199 to R201): checked and waiting, or shuffling, with the placement that pass 1 computed
and the passes in all and done. -/
structure RgRun where
  started : Bool
  place : List Placed
  (total done : Nat)
  deriving DecidableEq, Repr

/-- A team (R10, R11, R130, R340). `slots` are its group slots by group number, `roles` the group count and registers of
each role, `ver` the code version it is bound to. `gone` keeps, by TID, the program counter, group and role of EXITED threads that a
regroup has left without a position (R365, R451). -/
structure Team where
  (ctx core launch index padOff padLen ver : Nat)
  nteam : Nat × Nat × Nat
  roles : List (Nat × Nat)
  slots : List Nat
  cvs : Tbl CvReg
  tns : Tbl TnEntry
  tree : List Nat
  treePend : Option TreePend
  fpmode : Word
  scratch : Tbl Word
  rgen : Word
  rg : Option RgRun
  snaps : Tbl HandSnap
  held : Bool
  gone : Tbl (DWord × Nat × Nat)
  deriving DecidableEq, Repr

/-! ## Contexts, launches and queues -/

/-- The states of a context (R348). -/
inductive CtxState where
  | free | active | gated | saved | resetting
  deriving DecidableEq, Repr

/-- An allocation entry (R346) without its reserved bits, and when a drain's deadline falls (R359). -/
structure Alloc where
  (rbanks pbanks wbanks : BitVec 16)
  (quota waysM1 : Nat)
  (drain member moving : Bool)
  deadline : Option Nat
  deriving DecidableEq, Repr

/-- A token bucket (R352, R353): SHARE in force and the one written for the next refill, OWN, BONUS, own tokens used in
the period, and whether a request waited in it. -/
structure Bucket where
  share : Nat
  newShare : Option Nat
  (own bonus used : Nat)
  throttled : Bool
  deriving DecidableEq, Repr

/-- A RETAIN span (R262), with the .retain misses counted in it. -/
structure Span where
  (lo hi ways ratio misses : Nat)
  deriving DecidableEq, Repr

/-- The states of a weight slot (R275). -/
inductive SlotState where
  | empty | loading | ready
  deriving DecidableEq, Repr

/-- A weight slot (R273): the image bytes (data, then the side store's metadata and scales), what WLOAD recorded, and its
poisoned granules. -/
structure WSlot where
  state : SlotState
  image : List Byte
  (fmt sfmt : Nat)
  sparse : Bool
  poison : List Nat
  deriving DecidableEq, Repr

/-- A publication record of a cluster barrier (R300), with the publishing capability's permissions. -/
structure PubRec where
  (off len : Nat)
  phase : Bool
  perm : BitVec 12
  deriving DecidableEq, Repr

/-- An event queue (R314): 32-byte records oldest first, SEQ of the last record posted, and the drop count. -/
structure EvQueue where
  recs : List (BitVec 256)
  (seq dropped : Nat)
  deriving DecidableEq, Repr

/-- A lane set that sleeps in an instruction acting once: group key, acting lane, mask, and the registers it writes on
waking; for QPUT also the message (R320), for REGACQ its place (R206). -/
structure Waiter where
  (gkey acting : Nat)
  mask : DWord
  (d b : BitVec 9)
  msg : List (Quad × Bool)
  ctx : Nat
  keep : Bool
  deriving DecidableEq, Repr

/-- A context (R19, R345 to R357). Per-core tables are keyed core × 256 + slot for `slots`, core × 4 + index for `spans`,
`mrow` and `mcol`, cluster × 4 + index for `cbs`, (cluster × 4 + index) × 8 + core for `pubs`, and core × 32 + selector for
the counters. `clock` is CLOCK as of cycle `clockAt`; `gatedAt` is when the gate began; `fused` are the clusters whose L1s
run fused (R264); `backing` is where the frames begin that firmware reserves for spill leases, one for each core of `backs` in turn
(R208), `area` the place for launch arguments (R337); `saving` that a save waits for the context's work to end (R361). -/
structure Ctx where
  state : CtxState
  colour : Nat
  alloc : Tbl Alloc
  (clock clockAt gen faultSeq : Nat)
  lq : List Nat
  evq : EvQueue
  evWait : List Waiter
  spans : Tbl Span
  mrow : Tbl DWord
  mcol : Tbl (BitVec 16)
  slots : Tbl WSlot
  cbs : Tbl Quad
  pubs : Tbl PubRec
  buckets : Tbl Bucket
  counters : Tbl Nat
  shared : Tbl Nat
  regq : Tbl (List Waiter)
  keyId : Nat
  backing : Nat
  backs : List Nat
  (area gatedAt : Nat)
  fused : List Nat
  saving : Bool
  deriving DecidableEq, Repr

/-- The states of a launch (R342). -/
inductive LaunchState where
  | queued | armed | running | ended
  deriving DecidableEq, Repr

/-- A launch entry (R335, R336, R339, R341, R344): `core` is the core that issued it, `lo` and `hi` bound the team indices of
this device, `next` is the next to place, `live` counts its placed teams that have not retired. For a launch on several
devices, `own` says that this device issued it, `issuer`, `issuerCtx` and `gen` name it, `rank` is this device's rank among
`ndev`, and `armed` lists the devices and contexts that have answered ARMED. `hand` keeps HANDOFF snapshots by core (R214), and
`ending` is the status with which a launch that will run no more ends, once its completion record can be written (R344). -/
structure Launch where
  (ctx gen ver core : Nat)
  args : Quad × Bool
  comp : Option (Quad × Bool)
  (nx ny nz threads prio comm ndev rank : Nat)
  (multi fused own : Bool)
  state : LaunchState
  (lo hi next live : Nat)
  lastCore : Option Nat
  (queuedAt level issuer issuerCtx : Nat)
  armed : List (Nat × Nat)
  cookie : Nat
  (faulted forced : Bool)
  hand : Tbl (Tbl HandSnap)
  ending : Option Nat
  deriving DecidableEq, Repr

/-- The states of a message queue (R317). -/
inductive QState where
  | opened | closed | free
  deriving DecidableEq, Repr

/-- A message queue (R316, R317). -/
structure MsgQueue where
  (owner depth : Nat)
  state : QState
  msgs : List (List (Quad × Bool))
  prod : List Waiter
  cons : List Waiter
  deriving DecidableEq, Repr

/-! ## Kernels -/

/-- A kernel descriptor as decoded from its 128 bytes (R328). -/
structure KDesc where
  (entry base ext padKb nbar : Nat)
  roles : List (Nat × Nat)
  (fused inherit : Bool)
  (inhLo inhHi : Nat)
  carry : BitVec 256
  deriving DecidableEq, Repr

/-- The states of a code version (R332). -/
inductive VerState where
  | current | superseded | freed
  deriving DecidableEq, Repr

/-- A code version (R329, R332, R369): its record, context, image, kernel capability, descriptor and handler. -/
structure KVer where
  state : VerState
  (record ctx colour imgBase imgTop : Nat)
  cap : Quad
  desc : KDesc
  handler : Option DWord
  deriving DecidableEq, Repr

/-- A kernel record (R329): the address that names it, and the version it points at. -/
structure KRec where
  (addr ver : Nat)
  deriving DecidableEq, Repr

/-! ## Memory, outstanding work and engines -/

/-- A 16-byte L1 sector (R260): its bytes, tag and poison, whether its clean bytes are valid, its dirty bytes, and whether a store of the
whole granule is among what made them dirty, which alone clears the poison of the granule at home (R377). -/
structure Sector where
  data : Quad
  (tag poison valid : Bool)
  dirty : BitVec 16
  full : Bool := false
  deriving DecidableEq, Repr

/-- A 128-byte L1 line of a context in one L1 (R260, R264): `unit` is a core, or 2,048 + cluster when fused; `line` is the
address divided by 128; `span` is 0 or one more than the span whose reserved ways hold it (R262); `born` is the cycle of its
allocation; `victim` marks the next victim of the set (R261); the sectors are keyed 0 to 7. -/
structure Line where
  (unit ctx line span born : Nat)
  victim : Bool
  sectors : Tbl Sector
  deriving DecidableEq, Repr

/-- A granule of a line of the memory-side cache (R386): whether its clean bytes are there, its tag, and its dirty bytes with whether a
store of the whole granule made them so (R377). For a line of the borrowed window `own` holds its bytes and whether they are
poisoned; the bytes of a line of this device's memory are those of State.mem, which is what memory and its slice read as. -/
structure MGran where
  (valid tag : Bool)
  dirty : BitVec 16
  full : Bool
  own : Option (Quad × Bool)
  deriving DecidableEq, Repr

/-- A 128-byte line of the memory-side cache (R386): the address where it lies divided by 128, the step in which it last became dirty
(R395), and its granules that are not all clean, keyed 0 to 7; of a line of the borrowed window all that it holds. -/
structure MLine where
  (line since : Nat)
  grans : Tbl MGran
  deriving DecidableEq, Repr

/-- A 128-byte line of a core's instruction cache (R267): the sixteen words as they were fetched. -/
structure ILine where
  (core line : Nat)
  words : List DWord
  deriving DecidableEq, Repr

/-- A record or notice of the sync owner table: granule, owner unit, context (R240, R241). -/
structure SyncRec where
  (granule unit ctx : Nat)
  deriving DecidableEq, Repr

/-- What an access does. -/
inductive AccKind where
  | load | store | atom | acas
  deriving DecidableEq, Repr

/-- Where an outstanding access waits: at the network port for tokens (R352), at the gate (R380, R382), at its home slice for a
promotion (R242), behind earlier accesses of its thread (R235, R240), at the host port (R385), at the home slice of a line of the
borrowed window behind another request for it (R385), with its data for the other half of its load (R32), or for the answer of a
peer with its RNUM (R412). -/
inductive AccPlace where
  | port | gate | home | order | host | slice | mate
  | remote (peer rnum : Nat)
  deriving DecidableEq, Repr

/-- What the gate makes of an access. -/
inductive GateRes where
  /-- performed in local memory at this address (after a spare's or a fallback's redirection) -/
  | go (a : Nat) (nocache : Bool)
  /-- a load that returns zero with tags clear (R382) -/
  | zero
  /-- stalls at the gate (R382, R398) -/
  | stall
  /-- sent to the lender's frame (R385): lender and address there, frame number and offset -/
  | lender (peer addr : Nat)
  /-- sent to the host port (R385): host address -/
  | host (h : Nat)
  /-- refused, with the STATE seen -/
  | refuse (code : Byte) (st : Nat)
  deriving DecidableEq, Repr

/-- One lane's access of at most 16 bytes (R252, R253), named by its thread. `ty` and `aop` are the size code and the ATOM
operation; `val`, `tag` and `poison` what a store writes, `cmp` the compare value of ACAS; a load writes the registers from
`dk` on of field `d`; `caps` that it moves a tag, `ldc` the LDC permission; `cache` the CACHE permission; `peer` the
parish index and grant of a REMOTE capability; `batch` numbers the instruction and `req` the request it is part of (R265; 0:
none); `fenced` that a release fence without write-back came before it (R233); `passed` what the gate made of it, once it has
passed (R381), and `home` the address it is then performed at, a spare's apart; an acquire keeps its `site`. `mate` marks the halves
of a 32-byte load, which complete together (R32, R363), and `got` is what the first of them has read. -/
structure Acc where
  kind : AccKind
  place : AccPlace
  (team tid core ctx colour : Nat)
  (addr size ty aop ord scope cl : Nat)
  (val cmp : Quad)
  (tag poison : Bool)
  d : Option (BitVec 9)
  dk : Nat
  (caps ldc cache ofl : Bool)
  peer : Option (Nat × Nat)
  (since batch req : Nat)
  fenced : Bool
  passed : Option GateRes
  site : Option Site
  mate : Bool := false
  got : Option AccVal := none
  home : Nat := 0
  deriving DecidableEq, Repr

/-- Whose request it is: of lanes' accesses; of a PREF, which brings a line into an L1 with the CL for an address; of the reads or
writes of the command, load or TREELD of a number; of the value word of a command; or of none that waits for it (a write-back, the
poll of a WAITA). -/
inductive ReqUser where
  | lanes
  | fill (unit cl addr : Nat)
  | engine (num : Nat) (write : Bool)
  | word (num : Nat)
  | posted
  deriving DecidableEq, Repr

/-- A request at a core's network port (R265, R352): where it goes, its bytes, whether it may allocate in the memory-side cache
(R261), and when it left the port; none while it waits for tokens. -/
structure Req where
  (core ctx : Nat)
  peer : Bool
  (addr bytes : Nat)
  alloc : Bool
  user : ReqUser
  sent : Option Nat
  deriving DecidableEq, Repr

/-- A FENCE that waits (R240, R259, R418): its team, order and scope, whether it has .ack, and its threads. -/
structure FencePend where
  (team core ctx ord scope : Nat)
  ack : Bool
  tids : List Nat
  deriving DecidableEq, Repr

/-- A piece of a granule that an engine reads through a capability; `far` lets it reach another pad of the cluster. -/
structure Piece where
  cap : Quad × Bool
  (addr n : Nat)
  far : Bool
  deriving DecidableEq, Repr

/-- One piece that a command moves: where it is read or its value, where it is written, and whether the capabilities let a
tag pass (R111). -/
structure Move where
  src : Option Piece
  lit : AccVal
  dst : Quad × Bool
  (addr n : Nat)
  keep : Bool
  deriving DecidableEq, Repr

/-- How a command completes (R292, R306): not at all; by arrival on a barrier of its team, or on a barrier register of a pad
through a BARR capability; or by a value word at an offset of its team's pad, or where a capability's cursor lies. `unread` is that
of a block which has been cancelled before it could be read (R309). -/
inductive Comp where
  | none
  | unread
  | barrier (bar : Nat)
  | barCap (cap : Quad × Bool)
  | padWord (off : Nat) (val : Word)
  | word (cap : Quad × Bool) (val : Word)
  deriving DecidableEq, Repr

/-- The states of a command (R293, R308). -/
inductive CmdState where
  | queued | running | done | faulted | cancelled
  deriving DecidableEq, Repr

/-- What a command does, with the operands it read at issue or in its block (R296 to R312). XSTORE holds the registers of
each lane position's row with their poison; a block command not yet read holds no more than its address. A collective holds
the header, the capabilities, granule 3, the key, and, once it has joined, its source and scale bytes with their poison;
`result` are the bytes that a collective that has run still has to write, by address; `moving` is a payload on its way: the
pieces not written yet, and the capabilities that the command holds. -/
inductive CmdBody where
  | block
  | tcopy (e : TnEntry) (box : BitVec 256) (pad : Quad × Bool) (st : Bool) (table : Option (Quad × Bool))
  | xstore (e : TnEntry) (box : BitVec 256) (rows : Tbl (List (Word × Bool)))
  | bulk (cap : Quad) (data : List Byte) (bar : Nat)
  | pull (cb src : Nat) (dest : Quad × Bool) (rec : Option PubRec)
  | fill (cap : Quad × Bool) (n : Nat) (pattern : Word)
  | copy (src dst : Quad × Bool) (n : Nat)
  | coll (hdr : Quad) (src dst : Quad × Bool) (scales : Quad) (key : Nat) (data scl : List (Byte × Bool))
  | result (dst : Quad × Bool) (parts : List (Nat × List (Byte × Bool)))
  | moving (ms : List Move) (caps : List (Quad × Bool))
  deriving DecidableEq, Repr

/-- A command (R289 to R293): its core, context, team and thread, the opcode of its instruction, OPC and address of its
block, body, byte count, completion, state, fault code and address, bytes done, engine, whether its payload has been moved
and whether it has joined its communicator, and what it has read, by address and size. -/
structure Cmd where
  (core ctx team tid : Nat)
  opcode : Byte
  opc : Nat
  block : Option ((Quad × Bool) × Nat)
  body : CmdBody
  count : Nat
  comp : Comp
  state : CmdState
  code : Byte
  (failAddr bytes engine : Nat)
  (moved joined : Bool)
  buf : Tbl AccVal
  deriving DecidableEq, Repr

/-- The status record of a command block (R308). -/
structure XRec where
  (core ctx block cmd : Nat)
  deriving DecidableEq, Repr

/-- A running MMA (R284): accumulators to write, by lane key: register, value and whether it is poisoned. -/
structure MmaRun where
  ctx : Nat
  writes : List (Nat × Nat × Word × Bool)
  deriving DecidableEq, Repr

/-- A weight load in flight (R275, R276, R452). -/
structure WLoad where
  (core ctx slot team : Nat)
  bar : Option Nat
  cap : Quad × Bool
  (addr bytes : Nat)
  buf : Tbl AccVal
  deriving DecidableEq, Repr

/-- What the reeve has been asked for: a service of SVC with the registers A to A + 3 and quad A + 4 (R375), a new
match-and-replace table (R331), or the record image of a LEASEOP.offer or .accept (R399). -/
inductive Ask where
  | svc (fn : Nat) (args : List Word) (cap : Quad × Bool)
  | mrt (cap : Quad × Bool)
  | lease (accept : Bool) (cap : Quad × Bool)
  deriving DecidableEq, Repr

/-- A request to the reeve that is not answered yet (R331, R375): the waiting lane set, what it asks, what other devices have
answered to the reeve's reads, by address, and what the first refusal of one of them says: code, address and AUX. -/
structure Job where
  who : Waiter
  ask : Ask
  buf : Tbl AccVal
  refused : Option (Byte × Nat × Word)
  deriving DecidableEq, Repr

/-- A communicator (R310): its ranks as (parish index, context), or none once ended. -/
structure Comm where
  ranks : List (Nat × Nat)
  colour : Nat
  ended : Bool
  deriving DecidableEq, Repr

/-! ## Sweeps, leases, links, the reeve -/

/-- The groomer's walk of the BORROWED frames through the lease path (R120): the frames left, how far the first has been walked, the
number that its requests bear, and the granules of the present 64 bytes as they were read. -/
structure Walk where
  left : List Nat
  (at_ num : Nat)
  buf : Tbl AccVal
  deriving DecidableEq, Repr

/-- A sweep pass in progress (R119, R120): its number, the frames of its set, the cores that have acknowledged, the cores that the
groomer holds, each with the cycle in which its hold ends (R122), the cores swept, and the walk once it has begun. -/
structure Pass where
  n : Nat
  set : List Nat
  acked : List Nat
  holds : Tbl Nat
  swept : List Nat
  walk : Option Walk
  deriving DecidableEq, Repr

/-- A lease record (R392) with the tag of FALLBACK and its generation (R393); STATE is numbered as R396 and R397 number it.
Beside the 64 bytes: which party this device is, the lane set that LEASEOP.accept put to sleep, when the record was made,
the borrower's drain (0 accesses under way, 1 lines written back, 2 DRAINED sent), how far the lender's copy has been sent and the
number of its requests, and, after the lease, the frames that the record waits for: at the borrower those of the window that have not
gone to QUARANTINE, at the lender those that have not left SCRUB. -/
structure Lease where
  fallback : Quad
  fallTag : Bool
  (term tbound lframe count wframe colour lender borrower state id bctx deadline gen : Nat)
  asLender : Bool
  who : Option Waiter
  born : Nat
  (drain sent num : Nat)
  left : List Nat
  deriving DecidableEq, Repr

/-- The states of a link (R406), numbered as R315 numbers them. -/
inductive LinkState where
  | off | training | up | replaying | retraining | down
  deriving DecidableEq, Repr

/-- A flit held for replay (R411), how often it has been sent, and in which slot last. -/
structure Flit where
  fseq : Nat
  msgs : List FabMsg
  (sent slot : Nat)
  deriving DecidableEq, Repr

/-- A link (R400, R406, R409 to R411): peer and far port, the slot counters of both directions, slots since the key was
agreed and since the link came up, FSEQ to send and to expect, the flits held, the position among them where a replay
stands, GCM failures in a row, messages waiting to be packed, the NAK owed and whether one has been sent for the flits now
discarded, the key epoch, when the link may be retried, when it came up, and the key and the salt of each direction (R410). -/
structure Link where
  state : LinkState
  (peer peerPort : Option Nat)
  (txCtr rxCtr keySlots slots fseq expect : Nat)
  held : List Flit
  replay : Option Nat
  gcmFails : Nat
  txq : List FabMsg
  (nakOwed nakSent keysel : Bool)
  (retryAt upAt : Nat)
  (txKey rxKey : BitVec 256)
  (txSalt rxSalt : BitVec 32)
  deriving DecidableEq, Repr

/-- Sealing keys of a peer (R112, R414): current and previous key ID, and blobs sealed under the current one. -/
structure SealKeys where
  cur : Option Nat
  prev : Option Nat
  used : Nat
  deriving DecidableEq, Repr

/-- A request of another device that is not performed yet: held by an ordered flag (R417), kept in arrival order while the
gate stalls it (R380), or passed on to the host or a lender and not answered (`passed`). -/
structure HeldReq where
  m : FabMsg
  passed : Bool
  deriving DecidableEq, Repr

/-- A completion count (R416): the largest n such that requests 1 to n are performed, and those performed beyond it. -/
structure Count where
  upTo : Nat
  beyond : List Nat
  deriving DecidableEq, Repr

/-- An internal queue (R323): entries oldest first, capacity, the entry that is in the reserve slot, the queue its head waits on,
whether its probe is on its way, and since when its head has waited. -/
structure IQueue where
  entries : List Nat
  cap : Nat
  reserve : Option Nat
  down : Option Nat
  probing : Bool
  since : Nat
  deriving DecidableEq, Repr

/-- A monitor counter and its control word, with what has been written to either in this cycle and takes effect at its end
(R426). -/
structure Monitor where
  (ctl value : DWord)
  (newCtl newValue : Option DWord)
  deriving DecidableEq, Repr

/-- A die as the governor and the thermal rules see it (R174, R427): the governor step 0 to 6, the fiftieths of a core cycle that
have passed (R3), whether it is capped and duty-cycled, and the reeve's error counts
(R376). -/
structure Die where
  (step phase : Nat)
  (capped duty : Bool)
  (corrected poisoned : Nat)
  deriving DecidableEq, Repr

/-- Teams as they are taken off their cores: groups and lanes by their keys there, the group keys in the order of the rotation
lists, and the clauses in which groups are held. -/
structure TeamImage where
  teams : Tbl Team
  groups : Tbl Group
  lanes : Tbl Lane
  rotation : List Nat
  parked : List (Nat × Parked)
  deriving DecidableEq, Repr

/-- The saved image of a context (R361): the cycle of the save, from which the ages of its lanes are counted, its record, teams,
launches, queued commands and status records, the frames of its colour, and its pads with tags and poison. What has reached its launches
since waits here: messages of multi-device launches with their senders, and launches that the reeve has ended (log entry 94). -/
structure Image where
  savedAt : Nat
  ctx : Ctx
  work : TeamImage
  launches : Tbl Launch
  cmds : Tbl Cmd
  xrecs : List XRec
  frames : List Nat
  pads : Memory
  padTags : List Nat
  padPoison : List Nat
  late : List (Nat × MsgBody)
  ended : List Nat
  deriving DecidableEq, Repr

/-- What a rank of a collective on another device has brought under a key (R310). -/
structure HeldPart where
  (comm key : Nat)
  part : CollPart
  deriving DecidableEq, Repr

/-- A request of this device that is not answered yet, with the links of its route, each by device and port (R407). -/
structure Asked where
  route : List (Nat × Nat)
  m : FabMsg
  deriving DecidableEq, Repr

/-- The services of the reeve that answer with a status (R348, R359, R361, R362, R370). -/
inductive Service where
  | create | save | restore | discard | reset | drain | resume | endLaunch
  deriving DecidableEq, Repr

/-- What the device sends out or reports to the outside. -/
inductive Out where
  | host (acc addr len : Nat) (data : Option (List Byte))
  | part (p : CollPart) (comm key site dst keyId : Nat)
  | loaded (ctx status : Nat) (blobs : List (BitVec 256))
  | service (s : Service) (ctx status : Nat)
  | key (ctx keyId : Nat)
  | report (bytes : List Byte)
  | thermal (die : Nat)
  | flit (port counter : Nat) (salt : BitVec 32) (keysel : Bool) (kind fseq ack : Nat) (nak : Bool) (msgs : List FabMsg)
  | linkChange (port : Nat) (old new : LinkState)
  | security (port : Nat)
  deriving DecidableEq, Repr

/-- The issuing context of the instruction that executes: core, group slot, port, lane set, the instruction's address and
word as fetched, its clause's header address and word, its position, and the substitute words done and in all (none: the
word stands for itself). -/
structure Cur where
  (core gslot port : Nat)
  (mask pc word hdr hw : DWord)
  idx : Nat
  sub : Option (Nat × Nat)
  deriving DecidableEq, Repr

/-- The place of what acts in the order of one cycle (R69, R217, R314, R318, R351, R367): cores, then engines, then the lease
unit, then the reeve, by `cls`; within a class by `major`, a core, or an engine number and then its die; on one core by core cycle
`sub`, then by group slot and lane `minor` and by issue slot. `bar` is the group slot after that of the last update of a cluster's
barrier in the cycle, which group slots order whatever their core (R217). -/
structure Rank where
  (cls major sub minor islot : Nat)
  bar : Nat := 0
  deriving DecidableEq, Repr

/-- The state of the device. -/
structure State where
  /-- steps taken; the free values are read from it -/
  tick : Nat
  /-- reference cycles since reset (R3) -/
  now : Nat
  /-- events that reach the device, next first -/
  inbox : List Instr
  /-- what the device has sent, oldest first -/
  out : List Out
  cur : Cur
  /-- what acted last in the present cycle; none at its start -/
  rank : Option Rank
  /-- next number for accesses, commands, loads, jobs, teams, launches and versions -/
  fresh : Nat
  power : Bool
  lanes : Tbl Lane
  groups : Tbl Group
  islots : Tbl ISlot
  teams : Tbl Team
  ctxs : Tbl Ctx
  launches : Tbl Launch
  mem : Memory
  tags : List Nat
  poison : List Nat
  hostMem : Memory
  l1 : List Line
  icache : List ILine
  sync : List SyncRec
  notices : List SyncRec
  outst : Tbl Acc
  /-- requests at the network ports, in the order in which they were admitted -/
  reqs : Tbl Req
  /-- lines of the memory-side cache, by set (R8, R386) -/
  msc : Tbl (List MLine)
  fences : Tbl FencePend
  cmds : Tbl Cmd
  xrecs : List XRec
  mma : Tbl MmaRun
  wloads : Tbl WLoad
  jobs : Tbl Job
  queues : Tbl MsgQueue
  pools : Tbl (Nat × Option Nat)
  fwq : EvQueue
  fwWait : List Waiter
  records : Tbl KRec
  vers : Tbl KVer
  /-- the code version number given last (R332) -/
  lastVer : Nat
  /-- the match-and-replace table in force, header and entries (R330) -/
  mrt : List Byte
  comms : Tbl Comm
  grants : Tbl (BitVec 256)
  keys : Tbl SealKeys
  frames : Tbl DWord
  spares : List Nat
  sweepCur : Nat
  sweepDone : Nat
  sweepQueued : Bool
  pass : Option Pass
  leases : Tbl Lease
  leaseGens : Tbl Nat
  links : Tbl Link
  /-- parish route table: by hamlet, the triples (own member, link, far member) in order (R400) -/
  routes : Tbl (List (Nat × Nat × Nat))
  rnums : Tbl Nat
  /-- messages that no usable route takes yet (R407) -/
  unsent : List FabMsg
  /-- requests of this device that are not answered yet, in the order in which they were sent (R407) -/
  asked : List Asked
  /-- links of other devices that the fabric manager has reported down (R402), and for each peer without a route the cycle since when it
  has none (R408) -/
  farDown : List (Nat × Nat)
  cut : Tbl Nat
  /-- what ranks on other devices have brought to collectives (R310) -/
  parts : List HeldPart
  kept : List (Nat × Nat × FabMsg)
  pseqs : Tbl Nat
  counts : Tbl Count
  heldReqs : Tbl HeldReq
  /-- the route that a hamlet leg takes now (R402): by far member × 4 + label, the label whose route it is -/
  legs : Tbl Nat
  /-- RDMA WRITE messages not applied yet, oldest first, and the number of the writes to lenders of the one being applied (R249) -/
  rdma : List (DWord × List Byte)
  rdmaNum : Nat
  iqueues : Tbl IQueue
  monitors : Tbl Monitor
  dies : Tbl Die
  images : Tbl Image
  /-- launch messages the reeve has refused (R337) and messages it has discarded (R415) -/
  discarded : Nat
  parish : Nat
  bootstat : Byte
  secver : Nat
  fuseMin : Nat
  /-- the identity public key, once boot has derived it (R423), and the firmware image that boot verified (R424) -/
  identity : Option (BitVec 512)
  firmware : List Byte
  /-- cycles of the last token refill and of the last update of the shared counters (R353, R357) -/
  lastRefill : Nat
  lastUpdate : Nat
  /-- cycle of the governor's last choice, by die (R174) -/
  governed : Tbl Nat
  thermalAt : Option Nat
  deriving DecidableEq, Repr

/-- No fault yet (R366). -/
def FaultRec.zero : FaultRec :=
  ⟨0, 0, 0, 0, 0, 0, 0, 0, 0, 0, 0, 0, 0, 0⟩

/-- An EMPTY lane position; its registers are undefined (R126), zero here (log entry 10). -/
def Lane.empty : Lane :=
  ⟨.empty, 0, [], [], [], 0, 0, 0, ⟨0, 0, 0, 0⟩, FaultRec.zero, none, none, none, none, [], none, none, 0, false⟩

/-- A FREE group slot. -/
def Group.empty : Group :=
  ⟨0, 0, 0, [], [], [], 0, 0, 0, false, false, [], [], [], none⟩

/-- An issue slot with nothing in it. -/
def ISlot.empty : ISlot := ⟨[], none, none, false, none, []⟩

/-- No team. -/
def Team.empty : Team :=
  ⟨0, 0, 0, 0, 0, 0, 0, (0, 0, 0), [], [], [], [], [], none, 0, [], 0, none, [], false, []⟩

/-- An empty event queue; the first record posted carries SEQ 1 (R314). -/
def EvQueue.empty : EvQueue := ⟨[], 0, 0⟩

/-- A context that does not exist (FREE). -/
def Ctx.empty : Ctx where
  state := .free
  colour := 0
  alloc := []
  clock := 0
  clockAt := 0
  gen := 0
  faultSeq := 0
  lq := []
  evq := EvQueue.empty
  evWait := []
  spans := []
  mrow := []
  mcol := []
  slots := []
  cbs := []
  pubs := []
  buckets := []
  counters := []
  shared := []
  regq := []
  keyId := 0
  backing := 0
  backs := []
  area := 0
  gatedAt := 0
  fused := []
  saving := false

/-- No launch. -/
def Launch.empty : Launch where
  ctx := 0
  gen := 0
  ver := 0
  core := 0
  args := (0, false)
  comp := none
  nx := 0
  ny := 0
  nz := 0
  threads := 0
  prio := 0
  comm := 0
  ndev := 0
  rank := 0
  multi := false
  fused := false
  own := true
  state := .ended
  lo := 0
  hi := 0
  next := 0
  live := 0
  lastCore := none
  queuedAt := 0
  level := 0
  issuer := 0
  issuerCtx := 0
  armed := []
  cookie := 0
  faulted := false
  forced := false
  hand := []
  ending := none

/-- No instruction is executing. -/
def Cur.idle : Cur := ⟨0, 0, 0, 0, 0, 0, 0, 0, 0, Option.none⟩

/-- The match-and-replace table before boot has loaded one: MAGIC, no entries (R330). -/
def Mrt.empty : List Byte := [0x4F, 0x54, 0x4D, 0x52] ++ List.replicate 60 0

/-- The device right after reset: BOOTSTAT shows booting (R425), every frame state entry is zero (FREE, R379), every grant
entry invalid (R113), SWEEPCUR and SWEEPDONE zero (R117), monitor counters zero (R426), links OFF (R406), no context. -/
def State.reset : State where
  tick := 0
  now := 0
  inbox := []
  out := []
  cur := Cur.idle
  rank := none
  fresh := 0
  power := true
  lanes := []
  groups := []
  islots := []
  teams := []
  ctxs := []
  launches := []
  mem := []
  tags := []
  poison := []
  hostMem := []
  l1 := []
  icache := []
  sync := []
  notices := []
  outst := []
  reqs := []
  msc := []
  fences := []
  cmds := []
  xrecs := []
  mma := []
  wloads := []
  jobs := []
  queues := []
  pools := []
  fwq := EvQueue.empty
  fwWait := []
  records := []
  vers := []
  lastVer := 0
  mrt := Mrt.empty
  comms := []
  grants := []
  keys := []
  frames := []
  spares := []
  sweepCur := 0
  sweepDone := 0
  sweepQueued := false
  pass := none
  leases := []
  leaseGens := []
  links := []
  routes := []
  rnums := []
  unsent := []
  asked := []
  farDown := []
  cut := []
  parts := []
  kept := []
  pseqs := []
  counts := []
  heldReqs := []
  legs := []
  rdma := []
  rdmaNum := 0
  iqueues := []
  monitors := []
  dies := []
  images := []
  discarded := 0
  parish := 0
  bootstat := 0
  secver := 0
  fuseMin := 0
  identity := none
  firmware := []
  lastRefill := 0
  lastUpdate := 0
  governed := []
  thermalAt := none

end Sys2Proof.Machine
end

