-- ==== Sys2Proof/Machine/Store.lean ====
section
/-! DEFINITION. Operations on sparse tables and on memory. Both keep their keys rising; a table lists what has been set, and
memory lists no byte that equals what an unlisted address reads as, so that equal contents are equal data. -/

namespace Sys2Proof.Machine

/-! ## Tables -/

/-- The entry at a key. -/
def Tbl.get? {α : Type} : Tbl α → Nat → Option α
  | [], _ => none
  | (j, a) :: t, k => if j = k then some a else Tbl.get? t k

/-- The table with an entry set. -/
def Tbl.set {α : Type} : Tbl α → Nat → α → Tbl α
  | [], k, a => [(k, a)]
  | (j, b) :: t, k, a => if k < j then (k, a) :: (j, b) :: t else if j = k then (k, a) :: t else (j, b) :: Tbl.set t k a

/-- The table without a key. -/
def Tbl.erase {α : Type} : Tbl α → Nat → Tbl α
  | [], _ => []
  | (j, b) :: t, k => if j = k then Tbl.erase t k else (j, b) :: Tbl.erase t k

/-- The entry at a key, or a default. -/
def Tbl.getD {α : Type} (t : Tbl α) (k : Nat) (d : α) : α := (Tbl.get? t k).getD d

/-- The table with an entry changed, where there is one. -/
def Tbl.modify {α : Type} (t : Tbl α) (k : Nat) (f : α → α) : Tbl α :=
  t.map fun p => if p.1 = k then (p.1, f p.2) else p

/-- Whether a table's keys rise strictly. -/
def Tbl.wf {α : Type} : Tbl α → Bool
  | [] => true
  | [_] => true
  | (j, _) :: (k, b) :: t => j < k && Tbl.wf ((k, b) :: t)

/-! ## Sorted sets of numbers -/

/-- A number put into a rising list. -/
def insertNat : List Nat → Nat → List Nat
  | [], k => [k]
  | j :: t, k => if k < j then k :: j :: t else if j = k then j :: t else j :: insertNat t k

/-- A list without a number. -/
def dropNat (l : List Nat) (k : Nat) : List Nat := l.filter fun j => j ≠ k

/-- A rising list with a number in or out. -/
def putNat (l : List Nat) (k : Nat) (b : Bool) : List Nat := if b then insertNat l k else dropNat l k

/-! ## Memory -/

/-- What an unlisted address reads as (log entry 11). -/
def Memory.fill : Byte := 0

/-- The byte at an address. -/
def Memory.byte : Memory → Nat → Byte
  | [], _ => Memory.fill
  | c :: t, a => if c.1 = a then c.2 else Memory.byte t a

/-- Memory with a cell put at its place. -/
def Memory.insert : Memory → Nat → Byte → Memory
  | [], a, b => [(a, b)]
  | c :: t, a, b => if a < c.1 then (a, b) :: c :: t else if c.1 = a then (a, b) :: t else c :: Memory.insert t a b

/-- Memory without a cell. -/
def Memory.remove : Memory → Nat → Memory
  | [], _ => []
  | c :: t, a => if c.1 = a then Memory.remove t a else c :: Memory.remove t a

/-- Memory with one byte written. Writing what an unlisted address reads as removes the entry. -/
def Memory.setByte (m : Memory) (a : Nat) (b : Byte) : Memory :=
  if b = Memory.fill then Memory.remove m a else Memory.insert m a b

/-- The canonical form: addresses rise strictly and no entry equals the fill. -/
def Memory.wf : Memory → Bool
  | [] => true
  | [c] => c.2 != Memory.fill
  | c :: d :: t => c.2 != Memory.fill && (c.1 < d.1 && Memory.wf (d :: t))

/-- The bytes from an address on, lowest first. -/
def Memory.bytes (m : Memory) (a : Nat) : Nat → List Byte
  | 0 => []
  | n + 1 => Memory.byte m a :: Memory.bytes m (a + 1) n

/-- Memory with bytes written from an address on. -/
def Memory.setBytes (m : Memory) (a : Nat) : List Byte → Memory
  | [] => m
  | b :: bs => Memory.setBytes (Memory.setByte m a b) (a + 1) bs

/-- Memory with the bytes of a range removed, so that they read as the fill; `lo` to `hi` − 1. -/
def Memory.clear (m : Memory) (lo hi : Nat) : Memory := m.filter fun c => c.1 < lo || hi ≤ c.1

/-- The little-endian number of a list of bytes (R1). -/
def bytesNat : List Byte → Nat
  | [] => 0
  | b :: bs => b.toNat + 256 * bytesNat bs

/-- The `n` little-endian bytes of a number. -/
def natBytes : Nat → Nat → List Byte
  | 0, _ => []
  | n + 1, x => BitVec.ofNat 8 x :: natBytes n (x / 256)

/-- The little-endian value of `n` bytes of memory as a number. -/
def Memory.nat (m : Memory) (a n : Nat) : Nat := bytesNat (Memory.bytes m a n)

/-! ## Small list operations -/

/-- The first `some` of a function over a list. -/
def firstSome {α β : Type} (f : α → Option β) : List α → Option β
  | [] => none
  | a :: t => match f a with
    | some b => some b
    | none => firstSome f t

/-- The sum of a function over a list. -/
def sumBy {α : Type} (f : α → Nat) (l : List α) : Nat := l.foldl (fun n a => n + f a) 0

/-- The element with the least measure, the first of them on a tie. -/
def minBy {α : Type} (f : α → Nat) : List α → Option α
  | [] => none
  | a :: t => match minBy f t with
    | none => some a
    | some b => some (if f a ≤ f b then a else b)

/-- An element put into a list sorted by an order, before its equals. -/
def insertBy {α : Type} (le : α → α → Bool) (a : α) : List α → List α
  | [] => [a]
  | b :: t => if le a b then a :: b :: t else b :: insertBy le a t

/-- A list sorted by an order; equals keep their places. -/
def sortBy {α : Type} (le : α → α → Bool) : List α → List α
  | [] => []
  | a :: t => insertBy le a (sortBy le t)

/-- Lane positions of a 64-bit mask, rising. -/
def maskLanes (m : DWord) : List Nat := (List.range 64).filter fun i => m.getLsbD i

/-- The 64-bit mask of lane positions. -/
def lanesMask (l : List Nat) : DWord := l.foldl (fun m i => m ||| (1#64 <<< i)) 0

end Sys2Proof.Machine
end

