-- ==== Sys2Proof/Machine/Capability.lean ====
section
/-! DEFINITION. The capability as a value (R81 to R87): fields, bounds, well-formedness, representability, and the access
check of R89. Nothing here reads the state. -/

namespace Sys2Proof.Machine

/-- The fault codes of R368. -/
abbrev Code.pass : Byte := 0x00
abbrev Code.illegal : Byte := 0x01
abbrev Code.illegalOperand : Byte := 0x02
abbrev Code.illegalClass : Byte := 0x03
abbrev Code.priv : Byte := 0x04
abbrev Code.brk : Byte := 0x05
abbrev Code.trap : Byte := 0x06
abbrev Code.capTag : Byte := 0x10
abbrev Code.capSealed : Byte := 0x11
abbrev Code.capKind : Byte := 0x12
abbrev Code.capColour : Byte := 0x13
abbrev Code.capPerm : Byte := 0x14
abbrev Code.capBounds : Byte := 0x15
abbrev Code.capMalformed : Byte := 0x16
abbrev Code.capLocal : Byte := 0x17
abbrev Code.align : Byte := 0x20
abbrev Code.addressHole : Byte := 0x21
abbrev Code.frameState : Byte := 0x22
abbrev Code.remoteGrant : Byte := 0x23
abbrev Code.dataLost : Byte := 0x24
abbrev Code.poison : Byte := 0x25
abbrev Code.convMismatch : Byte := 0x30
abbrev Code.regroupBusy : Byte := 0x31
abbrev Code.barrierOverflow : Byte := 0x32
abbrev Code.queueFault : Byte := 0x33
abbrev Code.engineFault : Byte := 0x34

/-- The kinds of R82. -/
abbrev Kind.data : Nat := 0
abbrev Kind.code : Nat := 1
abbrev Kind.pad : Nat := 2
abbrev Kind.cmd : Nat := 3
abbrev Kind.queue : Nat := 4
abbrev Kind.barr : Nat := 5
abbrev Kind.remote : Nat := 6
abbrev Kind.lease : Nat := 7

/-- The permission bits of R83. -/
abbrev Perm.ld : BitVec 12 := 0x001
abbrev Perm.st : BitVec 12 := 0x002
abbrev Perm.ldc : BitVec 12 := 0x004
abbrev Perm.stc : BitVec 12 := 0x008
abbrev Perm.exec : BitVec 12 := 0x010
abbrev Perm.sealing : BitVec 12 := 0x020
abbrev Perm.dlg : BitVec 12 := 0x040
abbrev Perm.cmd : BitVec 12 := 0x080
abbrev Perm.glob : BitVec 12 := 0x100
abbrev Perm.atom : BitVec 12 := 0x200
abbrev Perm.sys : BitVec 12 := 0x400
abbrev Perm.cache : BitVec 12 := 0x800

/-- The fields of a capability (R81). -/
structure Cap where
  colour : Nat
  perm : BitVec 12
  (kind exp basem topm cur : Nat)
  deriving DecidableEq, Repr

/-- The fields of 128 bits read as a capability (R81). -/
def Cap.ofQuad (q : Quad) : Cap :=
  ⟨(q.extractLsb' 116 12).toNat, q.extractLsb' 104 12, (q.extractLsb' 100 4).toNat, (q.extractLsb' 94 6).toNat,
    (q.extractLsb' 79 15).toNat, (q.extractLsb' 64 15).toNat, (q.extractLsb' 0 64).toNat⟩

/-- The 128 bits of a capability (R81). -/
def Cap.toQuad (c : Cap) : Quad :=
  BitVec.ofNat 12 c.colour ++ c.perm ++ BitVec.ofNat 4 c.kind ++ BitVec.ofNat 6 c.exp ++ BitVec.ofNat 15 c.basem ++
    BitVec.ofNat 15 c.topm ++ BitVec.ofNat 64 c.cur

/-- W of R84, the size of the window. -/
def Cap.window (c : Cap) : Nat := 2 ^ (c.exp + 15)

/-- base of R84, exact. -/
def Cap.base (c : Cap) : Int :=
  let am := (c.cur >>> c.exp) % 2 ^ 15
  let cb : Int := if am < c.basem then 1 else 0
  (((c.cur >>> (c.exp + 15) : Nat) : Int) - cb) * 2 ^ (c.exp + 15) + ((c.basem <<< c.exp : Nat) : Int)

/-- len of R84. -/
def Cap.len (c : Cap) : Nat :=
  let l := (c.topm + 2 ^ 15 - c.basem) % 2 ^ 15
  if l = 0 then c.window else l <<< c.exp

/-- top of R84. -/
def Cap.top (c : Cap) : Int := c.base + c.len

/-- Well formed (R85). -/
def Cap.wf (c : Cap) : Bool := c.kind < 8 && c.exp < 50 && 0 ≤ c.base && c.top ≤ 2 ^ 64

/-- The sealed kinds (R82). -/
def sealedKind (k : Nat) : Bool := k = 1 || k = 3 || k = 4 || k = 5 || k = 7

/-- Whether a permission is held. -/
def Cap.has (c : Cap) (p : BitVec 12) : Bool := (p &&& ~~~c.perm) == 0

/-- A cursor change under R86: the new 128 bits, and whether a tag held before is kept. -/
def Cap.setCursor (c : Cap) (n : Int) : Quad × Bool :=
  ({ c with cur := (n % 2 ^ 64).toNat }.toQuad,
    0 ≤ n && n < 2 ^ 64 && c.base ≤ n && n < c.base + c.window)

/-- What a lane's check has found: a fault code with its INFO and AUX (R366). -/
structure Flt where
  code : Byte
  info : DWord
  aux : Word
  prog : Nat := 0
  deriving DecidableEq, Repr

/-- An exact address taken modulo 2^64, as INFO holds it. -/
def addrInfo (a : Int) : DWord := BitVec.ofInt 64 a

/-- A capability fault; AUX[3:0] holds the KIND (R366). -/
def capFlt (code : Byte) (a : Int) (c : Cap) : Flt := ⟨code, addrInfo a, BitVec.ofNat 32 c.kind, 0⟩

/-- The acc sets of R89: with EXEC; local-only; every other data use. -/
abbrev accExec : List Nat := [1]
abbrev accLocal : List Nat := [0, 2]
abbrev accData : List Nat := [0, 2, 6]

/-- CheckAccess (R89) for a quad with its tag, a context colour, the kinds accepted, the permissions, and the exact range
[a, a + size): the code it raises, or none. -/
def checkCode (tag : Bool) (c : Cap) (colour : Nat) (acc : List Nat) (perm : BitVec 12) (a : Int) (size : Nat) : Option Byte :=
  if !tag then some Code.capTag
  else if !c.wf then some Code.capMalformed
  else if sealedKind c.kind && !acc.contains c.kind then some Code.capSealed
  else if !acc.contains c.kind then some Code.capKind
  else if c.kind ≠ Kind.remote && colour ≠ 0 && c.colour ≠ colour then some Code.capColour
  else if !c.has perm then some Code.capPerm
  else if a < c.base || c.top < a + size then some Code.capBounds
  else none

/-- CheckAccess (R89) as a fault. -/
def checkAccess (q : Quad × Bool) (colour : Nat) (acc : List Nat) (perm : BitVec 12) (a : Int) (size : Nat) : Option Flt :=
  let c := Cap.ofQuad q.1
  (checkCode q.2 c colour acc perm a size).map fun code => capFlt code a c

/-- A capability of the model's own making: base, length, permissions, kind and colour, with the smallest exponent that
holds the length and bounds rounded outward to it, and a cursor inside (R84, R96). -/
def Cap.make (kind colour : Nat) (perm : BitVec 12) (base len cur : Nat) : Quad :=
  let e := ((List.range 50).find? fun e => (base + len + 2 ^ e - 1) / 2 ^ e - base / 2 ^ e ≤ 2 ^ 15).getD 49
  let t := (base + len + 2 ^ e - 1) / 2 ^ e
  Cap.toQuad ⟨colour, perm, kind, e, (base / 2 ^ e) % 2 ^ 15, t % 2 ^ 15, cur⟩

end Sys2Proof.Machine
end

