-- ==== Sys2Proof/Machine/Gate.lean ====
section
/-! DEFINITION. The address map (R13 to R17) and the check at the memory gate (R378 to R385): what a frame's entry makes of
an access. -/

namespace Sys2Proof.Machine

/-- The regions of R13. -/
inductive Region where
  | local | borrowed | host | pad | control | hole
  deriving DecidableEq, Repr

abbrev borrowedBase : Nat := 0x10000000000
abbrev hostBase : Nat := 0x20000000000
abbrev padBase : Nat := 0x30000000000
abbrev controlBase : Nat := 0x40000000000

/-- The region of an address (R13). -/
def regionOf (a : Nat) : Region :=
  if a < 0xC000000000 then .local
  else if borrowedBase ≤ a && a < 0x14000000000 then .borrowed
  else if hostBase ≤ a && a < 0x24000000000 then .host
  else if padBase ≤ a && a < 0x30080000000 then .pad
  else if controlBase ≤ a && a < 0x40100000000 then .control
  else .hole

/-- The stack that holds a local address (R15); the memory-side cache slice of that stack is its home slice (R228). -/
def stackOf (a : Nat) : Nat :=
  let n := fun k => (a >>> k) % 16
  n 12 ^^^ n 16 ^^^ n 20 ^^^ n 24 ^^^ n 28 ^^^ n 32 ^^^ n 36

/-- The address within the stack (R15). -/
def stackAddr (a : Nat) : Nat := ((a >>> 16) % 2 ^ 24) * 4096 + a % 4096

/-- The global frame number of an address of the three framed regions (R378). -/
def frameOf (a : Nat) : Option Nat :=
  match regionOf a with
  | .local => some (a / 0x200000)
  | .borrowed => some (393216 + (a - borrowedBase) / 0x200000)
  | .host => some (524288 + (a - hostBase) / 0x200000)
  | _ => none

/-- The first address of a frame (R378). -/
def frameAddr (g : Nat) : Nat :=
  if g < 393216 then g * 0x200000
  else if g < 524288 then borrowedBase + (g - 393216) * 0x200000
  else hostBase + (g - 524288) * 0x200000

/-- STATE of a frame entry (R379). -/
def Fst.state (e : DWord) : Nat := (e.extractLsb' 0 4).toNat
/-- COLOUR of a frame entry. -/
def Fst.colour (e : DWord) : Nat := (e.extractLsb' 4 12).toNat
/-- TAGSUM of a frame entry. -/
def Fst.tagsum (e : DWord) : Bool := e.getLsbD 16
/-- NOCACHE of a frame entry. -/
def Fst.nocache (e : DWord) : Bool := e.getLsbD 17
/-- TIER of a frame entry. -/
def Fst.tier (e : DWord) : Nat := (e.extractLsb' 18 2).toNat
/-- LEASE of a frame entry. -/
def Fst.lease (e : DWord) : Nat := (e.extractLsb' 20 12).toNat
/-- ARG of a frame entry. -/
def Fst.arg (e : DWord) : Nat := (e.extractLsb' 32 32).toNat

/-- A frame entry from its fields (R379). -/
def Fst.mk (arg lease tier : Nat) (nocache tagsum : Bool) (colour state : Nat) : DWord :=
  BitVec.ofNat 32 arg ++ BitVec.ofNat 12 lease ++ BitVec.ofNat 2 tier ++ BitVec.ofBool nocache ++ BitVec.ofBool tagsum ++
    BitVec.ofNat 12 colour ++ BitVec.ofNat 4 state

/-- States of a frame (R379). -/
abbrev Fst.free : Nat := 0
abbrev Fst.owned : Nat := 1
abbrev Fst.shared : Nat := 2
abbrev Fst.scrub : Nat := 3
abbrev Fst.quarantine : Nat := 4
abbrev Fst.lent : Nat := 5
abbrev Fst.reclaim : Nat := 6
abbrev Fst.retired : Nat := 7
abbrev Fst.borrowed : Nat := 8
abbrev Fst.draining : Nat := 9
abbrev Fst.demoted : Nat := 10
abbrev Fst.absent : Nat := 11

/-- The frame entry with a new STATE. -/
def Fst.setState (e : DWord) (st : Nat) : DWord :=
  Fst.mk (Fst.arg e) (Fst.lease e) (Fst.tier e) (Fst.nocache e) (Fst.tagsum e) (Fst.colour e) st

/-- The frame entry with a new ARG. -/
def Fst.setArg (e : DWord) (arg : Nat) : DWord :=
  Fst.mk arg (Fst.lease e) (Fst.tier e) (Fst.nocache e) (Fst.tagsum e) (Fst.colour e) (Fst.state e)

/-- The entry of a frame; a frame never written has the reset entry (R379). -/
def frameEntry (frames : Tbl DWord) (g : Nat) : DWord := frames.getD g 0

/-- The frame whose entry stands for `g`: its spare when `g` is RETIRED (R384). -/
def liveFrame (frames : Tbl DWord) (g : Nat) : Nat :=
  let e := frameEntry frames g
  if Fst.state e = Fst.retired then Fst.arg e % 2 ^ 19 else g

/-- DONE of a SCRUB entry's ARG (R382). -/
def scrubDone (e : DWord) : Nat := Fst.arg e % 64
/-- NEXTCOL of a SCRUB entry's ARG. -/
def scrubNextCol (e : DWord) : Nat := Fst.arg e / 2 ^ 16 % 2 ^ 12
/-- NEXT of a SCRUB entry's ARG. -/
def scrubNext (e : DWord) : Nat := Fst.arg e / 2 ^ 28

/-- An access in SCRUB (R382). A request of colour 0 passes the colour test, and is taken as the owner's (log entry 12). -/
def gateScrub (e : DWord) (colour off : Nat) (isStore : Bool) (a : Nat) : GateRes :=
  let next := colour = scrubNextCol e && scrubNext e = Fst.owned
  let own := colour = Fst.colour e || colour = 0
  if !next && !own then .refuse Code.frameState Fst.scrub
  else if scrubDone e ≤ off / 0x10000 then .stall
  else if next then .go a (Fst.nocache e)
  else if isStore then .refuse Code.frameState Fst.scrub
  else .zero

/-- The gate (R380) for one access that lies within one frame. `spares` are the frames that serve as spares. -/
def gate (frames : Tbl DWord) (spares : List Nat) (colour a : Nat) (isStore : Bool) : GateRes :=
  match frameOf a with
  | none => .refuse Code.addressHole 0
  | some g0 =>
    if spares.contains g0 then .refuse Code.frameState (Fst.state (frameEntry frames g0))
    else
      let g := liveFrame frames g0
      let e := frameEntry frames g
      let off := a % 0x200000
      let st := Fst.state e
      let here := frameAddr g + off
      let bad := GateRes.refuse Code.frameState st
      if st = Fst.scrub then gateScrub e colour off isStore here
      else if colour ≠ 0 && colour ≠ Fst.colour e then bad
      else if st = Fst.owned || (st = Fst.shared && (!isStore || colour = 0)) then
        if regionOf a = .host then .host (Fst.arg e * 0x200000 + off) else .go here (Fst.nocache e)
      else if st = Fst.borrowed then .lender (Fst.arg e / 2 ^ 22) (Fst.arg e % 2 ^ 19 * 0x200000 + off)
      else if st = Fst.draining then .stall
      else if st = Fst.demoted then
        let f0 := Fst.arg e % 2 ^ 20
        let f := liveFrame frames f0
        let e2 := frameEntry frames f
        if Fst.state e2 = Fst.owned && Fst.colour e2 = Fst.colour e then
          if regionOf (frameAddr f) = .host then .host (Fst.arg e2 * 0x200000 + off)
          else .go (frameAddr f + off) (Fst.nocache e2)
        else .refuse Code.frameState (Fst.state e2)
      else if st = Fst.absent then .refuse Code.dataLost st
      else bad

end Sys2Proof.Machine
end

