-- ==== Sys2Proof/Machine/Ops.lean ====
section
/-! DEFINITION. The named operations over the state: lookups, registers and tags, barrier words, events, waking, the fetch
check, TAKING A FAULT (R363 to R371) and returning from one (R47, R374), and the frame of an instruction: decode faults,
the lanes that act, what they write, and the advance of the clause. -/

namespace Sys2Proof.Machine

/-! ## Lookups -/

/-- The group key of a lane key, the core of a group key, the lane position of a lane key. -/
def groupOf (lk : Nat) : Nat := lk / 64
def coreOf (gk : Nat) : Nat := gk / 64
def posOf (lk : Nat) : Nat := lk % 64

def State.lane (s : State) (lk : Nat) : Lane := s.lanes.getD lk Lane.empty
def State.group (s : State) (gk : Nat) : Group := s.groups.getD gk Group.empty
def State.team (s : State) (t : Nat) : Team := s.teams.getD t Team.empty
def State.ctx (s : State) (c : Nat) : Ctx := s.ctxs.getD c Ctx.empty
def State.launch (s : State) (n : Nat) : Launch := s.launches.getD n Launch.empty
def State.islot (s : State) (k : Nat) : ISlot := s.islots.getD k ISlot.empty

def State.setLane (s : State) (lk : Nat) (l : Lane) : State := { s with lanes := s.lanes.set lk l }
def State.setGroup (s : State) (gk : Nat) (g : Group) : State := { s with groups := s.groups.set gk g }
def State.setTeam (s : State) (t : Nat) (m : Team) : State := { s with teams := s.teams.set t m }
def State.setCtx (s : State) (c : Nat) (x : Ctx) : State := { s with ctxs := s.ctxs.set c x }
def State.setLaunch (s : State) (n : Nat) (l : Launch) : State := { s with launches := s.launches.set n l }
def State.setISlot (s : State) (k : Nat) (i : ISlot) : State := { s with islots := s.islots.set k i }

def State.modLane (s : State) (lk : Nat) (f : Lane → Lane) : State := s.setLane lk (f (s.lane lk))
def State.modGroup (s : State) (gk : Nat) (f : Group → Group) : State := s.setGroup gk (f (s.group gk))
def State.modTeam (s : State) (t : Nat) (f : Team → Team) : State := s.setTeam t (f (s.team t))
def State.modCtx (s : State) (c : Nat) (f : Ctx → Ctx) : State := s.setCtx c (f (s.ctx c))
def State.modLaunch (s : State) (n : Nat) (f : Launch → Launch) : State := s.setLaunch n (f (s.launch n))
def State.modISlot (s : State) (k : Nat) (f : ISlot → ISlot) : State := s.setISlot k (f (s.islot k))

/-- The next number, and the state with it used. -/
def State.takeNum (s : State) : Nat × State := (s.fresh + 1, { s with fresh := s.fresh + 1 })

/-- A message sent. -/
def State.send (s : State) (o : Out) : State := { s with out := s.out ++ [o] }

def State.teamOf (s : State) (gk : Nat) : Nat := (s.group gk).team
def State.ctxOf (s : State) (gk : Nat) : Nat := (s.team (s.teamOf gk)).ctx
def State.colourOf (s : State) (gk : Nat) : Nat := (s.ctx (s.ctxOf gk)).colour
def State.laneTeam (s : State) (lk : Nat) : Nat := s.teamOf (groupOf lk)
def State.laneCtx (s : State) (lk : Nat) : Nat := s.ctxOf (groupOf lk)
def State.laneColour (s : State) (lk : Nat) : Nat := s.colourOf (groupOf lk)

/-- A live lane (R167). -/
def Lane.live (l : Lane) : Bool := l.state = .active || l.state = .trapped

/-- Lane keys of a group, rising. -/
def groupLanes (gk : Nat) : List Nat := (List.range 64).map (gk * 64 + ·)

/-- Lane keys of a team, in group order. -/
def State.teamLanes (s : State) (t : Nat) : List Nat :=
  let m := s.team t
  m.slots.flatMap fun g => groupLanes (m.core * 64 + g)

/-- The lane that a thread occupies, by its TID (R126). -/
def State.findThread (s : State) (t tid : Nat) : Option Nat :=
  (s.teamLanes t).find? fun lk => let l := s.lane lk; l.state ≠ .empty && l.tid = tid

/-- CLOCK of a context (R356). -/
def State.clock (s : State) (c : Nat) : Nat :=
  let x := s.ctx c
  if x.state = .active || x.state = .gated then x.clock + (s.now - x.clockAt) else x.clock

/-- A counter of a context on a core raised by `n`, modulo 2^64 (R357). -/
def State.count (s : State) (c core sel n : Nat) : State :=
  s.modCtx c fun x =>
    { x with counters := x.counters.set (core * 32 + sel) ((x.counters.getD (core * 32 + sel) 0 + n) % 2 ^ 64) }

/-- Whether a monitor counts a source (R426). -/
def Monitor.counts (m : Monitor) (src : Nat) : Bool :=
  m.ctl.getLsbD 0 && !m.ctl.getLsbD 1 && m.ctl.extractLsb' 16 16 == BitVec.ofNat 16 src

/-- `n` of what a source counts have happened on a die (R426). -/
def State.measure (s : State) (die src n : Nat) : State :=
  { s with monitors := s.monitors.map fun p =>
      if p.1 / 16 = die && p.2.counts src then (p.1, { p.2 with value := p.2.value + BitVec.ofNat 64 n }) else p }

/-- The groomer holds a core (R122). -/
def State.groomed (s : State) (core : Nat) : Bool := match s.pass with | some p => (p.holds.get? core).isSome | none => false

/-- A hold of a team other than its own shuffle (R122, R171, R341, R359): its context is not ACTIVE, the groomer holds its core, it
waits to be started, or its context leaves the core with teams to be moved. -/
def State.teamHeld (s : State) (t : Nat) : Bool :=
  let m := s.team t
  (s.ctx m.ctx).state ≠ .active || s.groomed m.core || m.held ||
    (match (s.ctx m.ctx).alloc.get? m.core with | some a => a.moving | none => false)

/-- A group is held (R171): its team is, or its team's shuffle has begun. -/
def State.held (s : State) (gk : Nat) : Bool :=
  s.teamHeld (s.teamOf gk) || (match (s.team (s.teamOf gk)).rg with | some r => r.started | none => false)

/-! ## Registers -/

/-- The uniform registers and tags an instruction of a group reads: those from before the cycle for the second instruction
of a pair (R128). -/
def State.uniform (s : State) (gk : Nat) : Tbl Word × List Nat :=
  let g := s.group gk
  match s.cur.port, (s.islot (coreOf gk * 4 + gk % 4)).snap with
  | 1, some p => (p.sregs, p.stags)
  | _, _ => (g.sregs, g.stags)

/-- The poison of the uniform registers that an instruction of a group reads (R128, R377). -/
def State.uniformPoison (s : State) (gk : Nat) : List Nat :=
  match s.cur.port, (s.islot (coreOf gk * 4 + gk % 4)).snap with
  | 1, some p => p.spoison
  | _, _ => (s.group gk).spoison

/-- The state of a lane as an instruction sees it: from before the cycle for the second instruction of a pair (R128). -/
def State.stateSeen (s : State) (lk : Nat) : LaneState :=
  match s.cur.port, (s.islot (coreOf (groupOf lk) * 4 + groupOf lk % 4)).snap with
  | 1, some p => p.states.getD (posOf lk) .empty
  | _, _ => (s.lane lk).state

/-- The FPMODE and scratch words an instruction reads (R128, R132). -/
def State.modeWords (s : State) (gk : Nat) : Word × Tbl Word :=
  let m := s.team (s.teamOf gk)
  match s.cur.port, (s.islot (coreOf gk * 4 + gk % 4)).snap with
  | 1, some p => (p.fpmode, p.scratch)
  | _, _ => (m.fpmode, m.scratch)

/-- Register `k` counted from a register field, as a lane reads it (R30). -/
def State.reg (s : State) (lk : Nat) (f : BitVec 9) (k : Nat) : Word :=
  let n := f.toNat + k
  if f.toNat < 0x100 then (s.lane lk).regs.getD n 0
  else if f.toNat < 0x140 then (s.uniform (groupOf lk)).1.getD (n - 0x100) 0
  else 0

/-- A single register. -/
def State.reg1 (s : State) (lk : Nat) (f : BitVec 9) : Word := s.reg lk f 0

/-- A pair: the low register holds the low bits (R31). -/
def State.pair (s : State) (lk : Nat) (f : BitVec 9) : DWord := s.reg lk f 1 ++ s.reg lk f 0

/-- Quad `k` counted from a field, without its tag. -/
def State.quadBits (s : State) (lk : Nat) (f : BitVec 9) (k : Nat) : Quad :=
  s.reg lk f (4 * k + 3) ++ s.reg lk f (4 * k + 2) ++ s.reg lk f (4 * k + 1) ++ s.reg lk f (4 * k)

/-- The tag of quad `k` counted from a field (R30, R88). -/
def State.quadTag (s : State) (lk : Nat) (f : BitVec 9) (k : Nat) : Bool :=
  if f.toNat < 0x100 then (s.lane lk).tags.contains (f.toNat / 4 + k)
  else if f.toNat < 0x140 then (s.uniform (groupOf lk)).2.contains ((f.toNat - 0x100) / 4 + k)
  else false

/-- A quad with its tag. -/
def State.quad (s : State) (lk : Nat) (f : BitVec 9) : Quad × Bool := (s.quadBits lk f 0, s.quadTag lk f 0)

/-- A predicate; p0 reads true (R129). -/
def State.pred (s : State) (lk : Nat) (k : Nat) : Bool := k = 0 || (s.lane lk).preds.getLsbD k

/-- A table of words with a word put; zero words are not listed. -/
def putWord (t : Tbl Word) (k : Nat) (w : Word) : Tbl Word := if w = 0 then t.erase k else t.set k w

/-- One register of a lane written: its poison clears (R377) and its quad's tag clears (R88). -/
def Lane.setReg (l : Lane) (n : Nat) (w : Word) : Lane :=
  { l with regs := putWord l.regs n w, tags := dropNat l.tags (n / 4), poison := dropNat l.poison n }

/-- One uniform register written; its quad's tag clears. -/
def Group.setReg (g : Group) (n : Nat) (w : Word) : Group :=
  { g with sregs := putWord g.sregs n w, stags := dropNat g.stags (n / 4), spoison := dropNat g.spoison n }

/-- Bits [32k+31:32k] of a quad. -/
def quadWord (q : Quad) (k : Nat) : Word := q.extractLsb' (32 * k) 32

/-- A quad of a lane written with its tag. -/
def Lane.setQuad (l : Lane) (m : Nat) (q : Quad) (tag : Bool) : Lane :=
  let l1 := ((((l.setReg (4 * m) (quadWord q 0)).setReg (4 * m + 1) (quadWord q 1)).setReg (4 * m + 2) (quadWord q 2)).setReg
    (4 * m + 3) (quadWord q 3))
  { l1 with tags := putNat l1.tags m tag }

/-- A uniform quad written with its tag. -/
def Group.setQuad (g : Group) (m : Nat) (q : Quad) (tag : Bool) : Group :=
  let g1 := ((((g.setReg (4 * m) (quadWord q 0)).setReg (4 * m + 1) (quadWord q 1)).setReg (4 * m + 2) (quadWord q 2)).setReg
    (4 * m + 3) (quadWord q 3))
  { g1 with stags := putNat g1.stags m tag }

/-- A write made for a lane. A write to ZERO or to p0 is discarded (R30, R33). A uniform field is written for its group;
which lane may do so is decided by the caller (R32). -/
def State.write (s : State) (lk : Nat) (w : RegWrite) : State :=
  match w with
  | .reg f k v =>
      if f.toNat < 0x100 then s.modLane lk fun l => l.setReg (f.toNat + k) v
      else if f.toNat < 0x140 then s.modGroup (groupOf lk) fun g => g.setReg (f.toNat - 0x100 + k) v
      else s
  | .bad f k =>
      if f.toNat < 0x100 then s.modLane lk fun l => { l with poison := insertNat l.poison (f.toNat + k) }
      else if f.toNat < 0x140 then
        s.modGroup (groupOf lk) fun g => { g with spoison := insertNat g.spoison (f.toNat - 0x100 + k) }
      else s
  | .quad f k v t =>
      if f.toNat < 0x100 then s.modLane lk fun l => l.setQuad (f.toNat / 4 + k) v t
      else if f.toNat < 0x140 then s.modGroup (groupOf lk) fun g => g.setQuad ((f.toNat - 0x100) / 4 + k) v t
      else s
  | .pred k b =>
      if k = 0 then s
      else s.modLane lk fun l => { l with preds := if b then l.preds ||| (1#8 <<< k) else l.preds &&& ~~~(1#8 <<< k) }

/-- Whether a write is to a uniform register. -/
def RegWrite.uniform : RegWrite → Bool
  | .reg f _ _ | .bad f _ | .quad f _ _ _ => 0x100 ≤ f.toNat && f.toNat < 0x140
  | .pred _ _ => false

/-- Writes made in order. -/
def State.writes (s : State) (lk : Nat) (ws : List RegWrite) : State := ws.foldl (fun s w => s.write lk w) s

/-- The writes of a value of `n` registers at field `f`, low register first. -/
def regWrites (f : BitVec 9) (v : Nat) (n : Nat) : List RegWrite :=
  (List.range n).map fun k => .reg f k (BitVec.ofNat 32 (v >>> (32 * k)))

/-! ## Barrier words -/

/-- The pad address of a team's offset (R16). -/
def Team.padAddr (m : Team) (o : Nat) : Nat := padBase + m.core * 0x100000 + m.padOff + o

/-- Barrier register `i` of a team (R215). -/
def State.barrier (s : State) (t i : Nat) : Quad := BitVec.ofNat 128 (s.mem.nat ((s.team t).padAddr (16 * i)) 16)

/-- PHASE of a barrier register (R216). -/
def barPhase (b : Quad) : Bool := b.getLsbD 0

/-! ## Events and waking (R314, R126) -/

/-- An event record (R315). -/
def eventRec (payload : BitVec 176) (seq : Nat) (source : BitVec 16) (flags type : Byte) : BitVec 256 :=
  payload ++ BitVec.ofNat 48 seq ++ source ++ flags ++ type

/-- A record put into an event queue, or dropped when the queue is full (R314). -/
def EvQueue.post (q : EvQueue) (type flags : Byte) (payload : BitVec 176) (source : BitVec 16) : EvQueue :=
  if 1024 ≤ q.recs.length then { q with dropped := min (q.dropped + 1) (2 ^ 32 - 1) }
  else
    let seq := (q.seq + 1) % 2 ^ 48
    let fl := if q.dropped = 0 then flags else flags ||| 1
    ⟨q.recs ++ [eventRec payload seq source fl type], seq, 0⟩

/-- Lanes of a mask that sleep become due: each writes what `ws` gives it when it wakes. They share a batch number. -/
def State.wakeMask (s : State) (gk : Nat) (mask : DWord) (ws : Nat → List RegWrite) : State :=
  let (b, s) := s.takeNum
  (maskLanes mask).foldl (fun s p =>
    let lk := gk * 64 + p
    match (s.lane lk).state with
    | .asleep _ => s.modLane lk fun l => { l with sleep := some (.due b (ws p)) }
    | _ => s) s

/-- Results of an instruction that acted once: every lane of the mask writes them, a uniform destination only through the
acting lane (R32). -/
def onceWrites (acting : Nat) (ws : List RegWrite) (p : Nat) : List RegWrite :=
  if p = acting then ws else ws.filter fun w => !w.uniform

/-- EVGET's writes: the record in D to D + 7, status 0 in B (R321). -/
def evgetWrites (w : Waiter) (r : BitVec 256) : List RegWrite :=
  regWrites w.d r.toNat 8 ++ [.reg w.b 0 0]

/-- Sleeping EVGETs served while records last, oldest first (R321). -/
def serveEvents (s : State) : EvQueue → List Waiter → EvQueue × List Waiter × State
  | q, [] => (q, [], s)
  | q, w :: ws =>
    match q.recs with
    | [] => (q, w :: ws, s)
    | r :: rs =>
      let s := s.wakeMask w.gkey w.mask (onceWrites w.acting (evgetWrites w r))
      serveEvents s { q with recs := rs } ws

/-- A record posted to the firmware event queue (R314). -/
def State.postFw (s : State) (type flags : Byte) (payload : BitVec 176) (source : BitVec 16) : State :=
  let (q, ws, s') := serveEvents s (s.fwq.post type flags payload source) s.fwWait
  { s' with fwq := q, fwWait := ws }

/-- A record posted for a context: to its event queue, or to the firmware queue for colour 0 (R314). -/
def State.post (s : State) (c : Nat) (type flags : Byte) (payload : BitVec 176) (source : BitVec 16) : State :=
  let x := s.ctx c
  if x.colour = 0 then s.postFw type flags payload source
  else
    let (q, ws, s') := serveEvents s (x.evq.post type flags payload source) x.evWait
    s'.modCtx c fun x => { x with evq := q, evWait := ws }

/-- Event types of R315. -/
abbrev Ev.fault : Byte := 0x01
abbrev Ev.tierDemote : Byte := 0x02
abbrev Ev.dataLost : Byte := 0x03
abbrev Ev.launchDone : Byte := 0x04
abbrev Ev.engineError : Byte := 0x05
abbrev Ev.sweepDone : Byte := 0x06
abbrev Ev.leaseState : Byte := 0x07
abbrev Ev.barrierOverflow : Byte := 0x08
abbrev Ev.linkState : Byte := 0x09

/-- SOURCE of a core, an engine, the lease unit, the reeve, the host port, a fabric port (R315). -/
def srcCore (c : Nat) : BitVec 16 := BitVec.ofNat 16 (c % 4096)
def srcEngine (die e : Nat) : BitVec 16 := BitVec.ofNat 16 (0x1000 + die % 8 * 16 + e % 16)
abbrev srcLease : BitVec 16 := 0x2000
abbrev srcReeve : BitVec 16 := 0x3000
abbrev srcHost : BitVec 16 := 0x4000
def srcPort (p : Nat) : BitVec 16 := BitVec.ofNat 16 (0x5000 + p % 32)

/-! ## Clause headers and instruction fetch (R23, R44, R175, R267) -/

/-- Where a local or borrowed address lies now, without any check: a RETIRED frame in its spare, a DEMOTED one in its
fallback (R380, R384). -/
def State.homeAddr (s : State) (a : Nat) : Nat :=
  match frameOf a with
  | none => a
  | some g0 =>
    let g := liveFrame s.frames g0
    let e := frameEntry s.frames g
    let f := if Fst.state e = Fst.demoted then liveFrame s.frames (Fst.arg e % 2 ^ 20) else g
    frameAddr f + a % 0x200000

/-- N of a header word. -/
def hdrN (hw : DWord) : Nat := (hw.extractLsb' 48 4).toNat + 1
/-- CLASS of a header word. -/
def hdrClass (hw : DWord) : Nat := (hw.extractLsb' 52 4).toNat
/-- WMASK of a header word. -/
def hdrWmask (hw : DWord) : BitVec 16 := hw.extractLsb' 32 16
/-- WPHASE of a header word. -/
def hdrWphase (hw : DWord) : BitVec 16 := hw.extractLsb' 16 16
/-- YIELD of a header word. -/
def hdrYield (hw : DWord) : Bool := hw.getLsbD 7

/-- A word that is a header and breaks no rule of R44. -/
def hdrOk (w : DWord) : Bool :=
  opOf w = 0xFE && hdrClass w < 8 && w.extractLsb' 8 8 == 0 && w.extractLsb' 0 7 == 0 &&
    (hdrWphase w &&& ~~~hdrWmask w) == 0

/-- The next clause header after a clause (R22). -/
def nextHeader (hdr hw : DWord) : DWord := hdr + 8 + BitVec.ofNat 64 (8 * hdrN hw)

/-- The header's waits are met (R24). -/
def State.waitsMet (s : State) (t : Nat) (hw : DWord) : Bool :=
  (List.range 16).all fun i =>
    !(hdrWmask hw).getLsbD i || barPhase (s.barrier t i) == (hdrWphase hw).getLsbD i

/-- What a fetch finds: a word, a fault for every lane at that program counter, or a stall at the gate. -/
inductive Fetch where
  | word (w : DWord)
  | fault (f : Flt)
  | stall
  deriving DecidableEq, Repr

/-- The word that a core's instruction cache holds for an address, if its line is there (R267). -/
def State.icacheWord (s : State) (core a : Nat) : Option DWord :=
  (s.icache.find? fun l => l.core = core && l.line = a / 128).bind fun l => l.words[a % 128 / 8]?

/-- The word at an address for the lanes of a team (R175): CheckAccess with EXEC on the kernel's CODE capability, the hole
and the gate, then the instruction cache or memory. Code lies in local memory; elsewhere a fetch is refused as a hole
(log entry 13). -/
def State.fetch (s : State) (t : Nat) (pc : DWord) : Fetch :=
  let m := s.team t
  let col := (s.ctx m.ctx).colour
  match s.vers.get? m.ver with
  | none => .fault ⟨Code.capTag, pc, 0, 0⟩
  | some v =>
    match checkAccess (v.cap, true) col accExec Perm.exec pc.toNat 8 with
    | some f => .fault f
    | none =>
      if regionOf pc.toNat ≠ .local then .fault ⟨Code.addressHole, pc, 0, 0⟩
      else match gate s.frames s.spares col pc.toNat false with
        | .refuse code st => .fault ⟨code, pc, BitVec.ofNat 32 st, 0⟩
        | .stall => .stall
        | .zero => .word 0
        | .go a _ => .word ((s.icacheWord m.core pc.toNat).getD (BitVec.ofNat 64 (s.mem.nat a 8)))
        | .lender _ _ | .host _ => .fault ⟨Code.addressHole, pc, 0, 0⟩

/-- The line of an address brought into a core's instruction cache, as it stands in memory (in the spare of a RETIRED frame,
R384), where it is not held. The cache holds 512 lines (R8); which line then leaves is free (log entry 14). -/
def State.icacheFill (s : State) (core pc : Nat) : State :=
  if (s.icacheWord core pc).isSome then s
  else
    let base := s.homeAddr (pc / 128 * 128)
    let words := (List.range 16).map fun k => BitVec.ofNat 64 (s.mem.nat (base + 8 * k) 8)
    let own := s.icache.filter fun l => l.core = core
    let kept :=
      if own.length < 512 then s.icache
      else match own[Config.pick s.tick % own.length]? with
        | some l => s.icache.erase l
        | none => s.icache
    { s with icache := kept ++ [⟨core, pc / 128, words⟩] }

/-! ## Taking a fault -/

/-- FLAGS bits of the record (R366). -/
abbrev Flag.decode : Byte := 1
abbrev Flag.header : Byte := 2
abbrev Flag.subst : Byte := 4
abbrev Flag.deferred : Byte := 8
abbrev Flag.nested : Byte := 16

/-- The payload of a FAULT event (R370). -/
def faultPayload (r : FaultRec) (ctxNo : Nat) : BitVec 176 :=
  BitVec.ofNat 48 r.seq ++ r.pc ++ r.code ++ BitVec.ofNat 12 r.tid ++ BitVec.ofNat 6 r.group ++ BitVec.ofNat 11 r.core ++
    BitVec.ofNat 10 ctxNo ++ 0#17

/-- A FAULT event posted for a record: in the firmware queue it names the context (R314, R370). -/
def State.postFault (s : State) (c : Nat) (r : FaultRec) : State :=
  s.post c Ev.fault 0 (faultPayload r (if (s.ctx c).colour = 0 then c else 0)) (srcCore r.core)

/-- The handler set for a team's code version (R369). The second instruction of a pair sees the one from before the cycle
(R372). -/
def State.handlerSet (s : State) (t : Nat) : Option DWord :=
  match s.cur.port, (s.islot (s.cur.core * 4 + s.cur.gslot % 4)).snap with
  | 1, some p => p.handler
  | _, _ => (s.vers.get? (s.team t).ver).bind (·.handler)

/-- The handler of a team's code version, where its header passes the fetch check (R369). -/
def State.handler (s : State) (t : Nat) : Option DWord :=
  match s.handlerSet t with
  | none => none
  | some h => match s.fetch t h with
    | .word w => if hdrOk w then some h else none
    | _ => none

/-- The number of a lane's next fault in its context (R367): the one after the last, or in a cycle in which both ports issue the one
that the cycle's lane order gives it. -/
def State.faultNo (s : State) (lk : Nat) : Nat :=
  let next := (s.ctx (s.laneCtx lk)).faultSeq + 1
  match (s.islot (coreOf (groupOf lk) * 4 + groupOf lk % 4)).snap with
  | some p => p.seqs.getD lk next
  | none => next

/-- The fault record of a lane (R366), numbered in its context (R367). -/
def State.faultRec (s : State) (lk : Nat) (f : Flt) (a : Site) (nested : Bool) : FaultRec :=
  let l := s.lane lk
  let g := s.group (groupOf lk)
  let m := s.team g.team
  { pc := a.pc
    info := f.info
    word := a.word
    seq := s.faultNo lk
    progress := BitVec.ofNat 16 (a.sub * 2 ^ 13 + f.prog)
    codever := BitVec.ofNat 32 m.ver
    aux := f.aux
    tid := l.tid
    lane := posOf lk
    group := g.number
    core := coreOf (groupOf lk)
    role := g.role
    flags := if nested then a.flags ||| Flag.nested else a.flags
    code := f.code }

/-- TAKING A FAULT (R363, R369, R370): the record is written and numbered; an ACTIVE lane whose code version has a handler
becomes TRAPPED with PC at the handler and its return point kept; any other becomes SUSPENDED and posts a FAULT event, and a
TRAPPED one keeps the return point of its first fault. No other register changes. -/
def State.takeFault (s : State) (lk : Nat) (f : Flt) (a : Site) : State :=
  let l := s.lane lk
  let t := s.laneTeam lk
  let c := s.laneCtx lk
  let nested := decide (l.state = .trapped || l.state = .asleep true)
  let r := s.faultRec lk f a nested
  let ret := { a.ret with prog := f.prog }
  let s1 := s.modCtx c fun x => { x with faultSeq := x.faultSeq + 1 }
  match (if nested then none else s.handler t) with
  | some h =>
      s1.setLane lk { l with state := .trapped, pc := h, resume := none, fault := r, ret := some ret, sleep := none }
  | none =>
      (s1.setLane lk
        { l with
          state := .suspended
          pc := a.pc
          resume := none
          fault := r
          susp := some ret
          sleep := none }).postFault c r

/-- Where a return point leads (R47): retry goes to the faulting word, skip to the one after it; `none` in the second
component means the lane stands at a header. -/
def RetPoint.target (r : RetPoint) (retry : Bool) : DWord × Option Resume :=
  let at_ := fun pc => (pc, some (⟨r.hdr, r.hw, 0, 0⟩ : Resume))
  match r.kind, retry with
  | 0, true => (r.pc, some ⟨r.hdr, r.hw, r.prog, r.sub⟩)
  | 0, false => if r.pc + 8 = nextHeader r.hdr r.hw then (r.pc + 8, none) else at_ (r.pc + 8)
  | 1, true => (r.pc, none)
  | 1, false => (nextHeader r.pc r.hw, none)
  | _, true => (r.pc, none)
  | _, false => (r.pc + 8, none)

/-- RETURNING FROM A FAULT (R374): a TRAPPED lane becomes ACTIVE at its return point; its record stays. -/
def Lane.return (l : Lane) (retry : Bool) (now : Nat) : Lane :=
  match l.ret with
  | some r =>
      let (pc, res) := r.target retry
      { l with state := .active, pc := pc, resume := res, ret := none, lastIssue := now }
  | none => l

/-- The site of the instruction in `cur`. -/
def State.site (s : State) (flags : Byte) : Site :=
  let c := s.cur
  let k := match c.sub with | some (k, _) => k | none => 0
  let fl := if c.sub.isSome then flags ||| Flag.subst else flags
  ⟨c.pc, c.word, fl, k, ⟨0, c.pc, c.hdr, c.hw, 0, k⟩⟩

/-! ## The lanes of an instruction -/

/-- Group key of the issuing group. -/
def Cur.gkey (c : Cur) : Nat := c.core * 64 + c.gslot

/-- Lane keys of the issuing lane set that are live, rising. -/
def State.setLanes (s : State) : List Nat :=
  ((maskLanes s.cur.mask).map (s.cur.gkey * 64 + ·)).filter fun lk => (s.lane lk).live

/-- The guard value of a lane (R29). -/
def State.guard (s : State) (g : BitVec 4) (lk : Nat) : Bool :=
  s.pred lk (g.toNat % 8) != g.getLsbD 3

/-- Lane keys whose guard is true, rising. -/
def State.guardTrue (s : State) (g : BitVec 4) : List Nat := s.setLanes.filter fun lk => s.guard g lk

/-- The vector register allocation of a group (R127). -/
def State.allocation (s : State) (gk : Nat) : Nat :=
  let g := s.group gk
  let m := s.team g.team
  let base := match m.roles[g.role]? with | some r => r.2 | none => 0
  let ext := match s.vers.get? m.ver with | some v => v.desc.ext | none => 0
  if g.ext then base + ext else base

/-! ## Results of an instruction -/

/-- What a lane does when an instruction completes for it. -/
inductive Wr where
  | rw (w : RegWrite)
  | pc (t : DWord)
  | exit
  | sleep (x : Sleep)
  | eret (retry : Bool)
  deriving DecidableEq, Repr

/-- A lane's outcome: a fault, or what it writes. -/
abbrev LaneRes := Except Flt (List Wr)

/-- One effect applied to a lane, after its program counter has advanced. -/
def State.applyWr (s : State) (lk : Nat) (low : Bool) (w : Wr) : State :=
  match w with
  | .rw w => if w.uniform && !low then s else s.write lk w
  | .pc t => s.modLane lk fun l => { l with pc := t, resume := none }
  | .exit => s.modLane lk fun l => { l with state := .exited, sleep := none, late := [] }
  | .sleep x => s.modLane lk fun l =>
      { l with state := .asleep (l.state = .trapped), sleep := some x, site := some (s.site 0) }
  | .eret retry => s.modLane lk fun l => l.return retry s.now

/-- The position after the instruction in `cur`: the next word of the clause, the next substitute word of the same one, or
the next header. -/
def Cur.after (c : Cur) : DWord × Option Resume :=
  match c.sub with
  | some (k, n) =>
      if k + 1 < n then (c.pc, some ⟨c.hdr, c.hw, 0, k + 1⟩)
      else if c.idx + 1 = hdrN c.hw then (nextHeader c.hdr c.hw, none)
      else (c.pc + 8, some ⟨c.hdr, c.hw, 0, 0⟩)
  | none =>
      if c.idx + 1 = hdrN c.hw then (nextHeader c.hdr c.hw, none) else (c.pc + 8, some ⟨c.hdr, c.hw, 0, 0⟩)

/-- Whether the instruction in `cur` ends its word (no substitute word is left). -/
def Cur.wordDone (c : Cur) : Bool := match c.sub with | some (k, n) => n ≤ k + 1 | none => true

/-- Whether it is the last of its clause. -/
def Cur.last (c : Cur) : Bool := c.wordDone && c.idx + 1 = hdrN c.hw

/-- A lane after the instruction completed for it. -/
def State.advanceLane (s : State) (lk : Nat) : State :=
  let (pc, res) := s.cur.after
  s.modLane lk fun l => { l with pc := pc, resume := res, lastIssue := s.now }

/-- A group moved, or newly put, to the bottom of its priority class (R168, R340): behind the last group of its class or of a higher
one that stands after its place. A promoted group of a lower class that stands before it stays before it. -/
def rotateBottom (prio : Nat → Nat) (rot : List Nat) (g : Nat) : List Nat :=
  let before := if rot.contains g then rot.takeWhile (· ≠ g) else []
  let after := if rot.contains g then (rot.dropWhile (· ≠ g)).drop 1 else rot
  let tail := (after.reverse.takeWhile fun h => prio h < prio g).reverse
  before ++ after.take (after.length - tail.length) ++ g :: tail

/-- The clause of a port ends (R25, R168, R170): the group yields once both ports have ended, if either asked for it. -/
def State.endClause (s : State) (k : Nat) (port : Nat) : State :=
  let i := s.islot k
  match (if port = 0 then i.c0 else i.c1) with
  | none => s
  | some c =>
    let y := i.yieldDue || hdrYield c.hw || c.yielded
    let i1 := if port = 0 then { i with c0 := none } else { i with c1 := none }
    if i1.c0.isNone && i1.c1.isNone then
      let prio := fun g => (s.group (k / 4 * 64 + g)).prio
      s.setISlot k { i1 with yieldDue := false, snap := none,
                             rotation := if y then rotateBottom prio i1.rotation c.gslot else i1.rotation }
    else s.setISlot k { i1 with yieldDue := y }

/-- The issue slot key of the issuing group (R9). -/
def Cur.islotKey (c : Cur) : Nat := c.core * 4 + c.gslot % 4

/-- The clause after the instruction in `cur`: its lanes are those that completed and still issue; it ends after its last
instruction, or when no lane is left in it. -/
def State.advanceClause (s : State) (stay : List Nat) (yielded : Bool) : State :=
  let c := s.cur
  let k := c.islotKey
  let mask := lanesMask ((stay.filter fun lk => (s.lane lk).live).map posOf)
  let upd := fun (x : Clause) =>
    { x with
      mask := mask
      idx := if c.wordDone then x.idx + 1 else x.idx
      sub := match c.sub with | some (j, _) => if c.wordDone then 0 else j + 1 | none => 0
      yielded := x.yielded || yielded }
  let s1 := s.modISlot k fun i =>
    if c.port = 0 then { i with c0 := i.c0.map upd } else { i with c1 := i.c1.map upd, snap := none }
  let s2 := s1.modGroup c.gkey fun g => { g with lastIssue := s.now }
  if c.last || mask = 0 then s2.endClause k c.port else s2

/-- The faults among the outcomes of lanes. -/
def faultsOf (res : List (Nat × LaneRes)) : List (Nat × Flt) :=
  res.filterMap fun p => match p.2 with | .error f => some (p.1, f) | .ok _ => none

/-- The effects of one lane, in order. -/
def State.applyWrs (s : State) (lk : Nat) (low : Bool) (ws : List Wr) : State :=
  ws.foldl (fun s w => s.applyWr lk low w) s

/-- What a lane's outcome writes: a fault writes nothing. -/
def State.applyRes (s : State) (low : Option Nat) (p : Nat × LaneRes) : State :=
  match p.2 with
  | .ok ws => s.applyWrs p.1 (low = some p.1) ws
  | .error _ => s

/-- COMPLETING AN INSTRUCTION: lanes of the set that did not fault advance, then the results of the acting lanes are written in
lane order, then the faults are taken in lane order by the lanes that issued it and faulted (R169, R363, R367, R371), then the
clause advances. `res` gives each acting lane's outcome; `low` is the lane that R32 lets write a uniform register. -/
def State.commit (s : State) (res : List (Nat × LaneRes)) (low : Option Nat) (yielded : Bool) : State :=
  let faulted := faultsOf res
  let stay := s.setLanes.filter fun lk => !(faulted.map Prod.fst).contains lk
  let s1 := stay.foldl (fun s lk => s.advanceLane lk) s
  let s2 := res.foldl (fun s p => s.applyRes low p) s1
  let site := s.site 0
  let s3 := faulted.foldl (fun s p => (s.modLane p.1 fun l => { l with lastIssue := s.now }).takeFault p.1 p.2 site) s2
  s3.advanceClause stay yielded

/-! ## Decode faults (R46) -/

/-- A decode fault taken by every lane of the set. -/
def State.decodeFault (s : State) (f : Flt) : State :=
  let site := s.site Flag.decode
  (s.setLanes.foldl (fun s lk => s.takeFault lk f site) s).advanceClause [] false

/-- Barriers that the running kernel declares (R223). -/
def State.nbar (s : State) : Nat :=
  match s.vers.get? (s.team (s.teamOf s.cur.gkey)).ver with | some v => v.desc.nbar | none => 0

/-- Whether a core is in the core set of a context. -/
def Ctx.memberOf (x : Ctx) (core : Nat) : Bool := match x.alloc.get? core with | some a => a.member | none => false

/-- A cluster that belongs wholly to a context: each of its cores is in that context's core set and in no other's (R220,
R347). -/
def State.clusterOwned (s : State) (c cluster : Nat) : Bool :=
  (List.range 8).all fun k =>
    (s.ctx c).memberOf (cluster * 8 + k) && s.ctxs.all fun p => p.1 = c || !p.2.memberOf (cluster * 8 + k)

/-- The field of a format-X word that holds BAR (R40), as R450 records it. -/
def barInfo (bar : BitVec 4) : DWord := BitVec.ofNat 64 (44 * 2 ^ 56 + bar.toNat)

/-- A BAR field that names a barrier the kernel or the cluster does not have (R220, R223, and the engines' use of it). -/
def State.badBar (s : State) (i : Instr) : Option Flt :=
  let c := s.ctxOf s.cur.gkey
  let tb := fun (b : BitVec 4) => if s.nbar ≤ b.toNat then some ⟨Code.illegalOperand, barInfo b, 0, 0⟩ else none
  let cb := fun (b : BitVec 4) =>
    if s.clusterOwned c (s.cur.core / 8) then none else some ⟨Code.illegalOperand, barInfo b, 0, 0⟩
  let cx := fun (b : BitVec 4) =>
    if s.clusterOwned c (s.cur.core / 8) then none
    else some ⟨Code.illegalOperand, BitVec.ofNat 64 (48 * 2 ^ 56 + b.toNat), 0, 0⟩
  match i with
  | .binit f | .barv f | .bwait f | .bexpb f | .btest f | .bread f => tb f.bar
  | .bclustInit f | .bclustArv f | .bclustWait f | .bclustTest f | .bclustRead f | .bclustExp f => cb f.bar
  | .xpub f => cx f.xo
  | .xpull f => match cx f.xo with | some e => some e | none => tb f.bar
  | .xcopy f | .xcopyp f | .xstore f | .xfill f => if f.xo.toNat / 2 % 2 = 1 then none else tb f.bar
  | .wload f => if f.xo.toNat % 4 < 2 then tb f.bar else none
  | _ => none

/-- The static and state-dependent checks that rank ILLEGAL (R46). -/
def State.illegalHere (s : State) (i : Instr) : Bool :=
  let w := form i
  !w.legal ||
    (match w.op? with | some op => transferOp op && !s.cur.last | none => true) ||
    (match i with
     | .handoff _ => match s.vers.get? (s.team (s.teamOf s.cur.gkey)).ver with | some v => !v.desc.inherit | none => true
     | _ => false)

/-- The checks that rank PRIV (R43, R132). -/
def State.privHere (s : State) (i : Instr) : Bool :=
  s.colourOf s.cur.gkey ≠ 0 &&
    ((match (form i).op? with | some op => privilegedOp op | none => false) ||
      (match i with | .sread f => f.fn == 0x20 | _ => false))

/-- The class check (R26); substitute words are exempt (R45). -/
def State.classHere (s : State) (i : Instr) : Bool :=
  match (form i).op? with
  | some op => s.cur.sub.isNone && hdrClass s.cur.hw ≠ 7 && op ≠ 7 && classOf op ≠ hdrClass s.cur.hw
  | none => false

/-- An operand field that is not acceptable here (R30, R31, R33, R127, R210, R223), as R450 records it. -/
def State.operandHere (s : State) (i : Instr) : Option Flt :=
  match (form i).badField (s.allocation s.cur.gkey), s.badBar i with
  | some x, some f => some (if 44 < x.pos then ⟨Code.illegalOperand, BitVec.ofNat 64 (x.pos * 2 ^ 56 + x.val), 0, 0⟩ else f)
  | some x, none => some ⟨Code.illegalOperand, BitVec.ofNat 64 (x.pos * 2 ^ 56 + x.val), 0, 0⟩
  | none, some f => some f
  | none, none =>
    match i with
    | .spillLease f | .fillLease f =>
        if leaseTooLong f then some ⟨Code.illegalOperand, BitVec.ofNat 64 f.off.toNat, 0, 0⟩ else none
    | _ => none

/-- The decode fault of an instruction that the decoder has accepted, in the rank of R46. -/
def State.decodeCheck (s : State) (i : Instr) : Option Flt :=
  if s.illegalHere i then some ⟨Code.illegal, 0, 0, 0⟩
  else if s.privHere i then some ⟨Code.priv, 0, 0, 0⟩
  else if s.classHere i then some ⟨Code.illegalClass, 0, 0, 0⟩
  else s.operandHere i

/-- How many of the `n` registers of a source field an instruction reads: LAUNCH the five words of its block (R335). -/
def readRegs (i : Instr) (x : Fld) (n : Nat) : Nat := match i with | .launch _ => if x.pos = 0 then 5 else n | _ => n

/-- POISON (R377): the first poisoned register that the instruction reads as a source, with its number as a register field
gives it. -/
def State.poisonOf (s : State) (i : Instr) (lk : Nat) : Option Flt :=
  let p := (s.lane lk).poison ++ (s.uniformPoison (groupOf lk)).map (· + 0x100)
  if p.isEmpty then none
  else
    let regs := (form i).shape.flds.flatMap fun x => match x.use with
      | .reg n _ _ true => (List.range (readRegs i x n)).map (x.val + ·)
      | _ => []
    (regs.find? p.contains).map fun r => ⟨Code.poison, BitVec.ofNat 64 r, 0, 0⟩

/-- POISON for the first poisoned one of `n` registers from a field of a lane (R377). -/
def State.poisonedReg (s : State) (lk : Nat) (f : BitVec 9) (n : Nat) : Option Flt :=
  let p := (s.lane lk).poison ++ (s.uniformPoison (groupOf lk)).map (· + 0x100)
  (((List.range n).map (f.toNat + ·)).find? p.contains).map fun r => ⟨Code.poison, BitVec.ofNat 64 r, 0, 0⟩

/-- A lane's outcome with POISON put at the end of the rank (R364). -/
def withPoison (p : Option Flt) (r : LaneRes) : LaneRes :=
  match r, p with
  | .ok _, some f => .error f
  | r, _ => r

/-! ## The frame of an instruction -/

abbrev Res := Host.Outcome State Fault Refusal

/-- ISSUED and LANES counted (R357), and the instructions of the die (R426). -/
def State.counted (s : State) (i : Instr) : State :=
  let c := s.ctxOf s.cur.gkey
  ((s.count c s.cur.core 0 1).count c s.cur.core 1 (s.guardTrue (form i).guard).length).measure (s.cur.core / 256) 3 1

/-- An instruction in its frame: a decode fault on every lane of the set, which changes nothing else (R46), or its body. -/
def instr (i : Instr) (s : State) (body : State → Res) : Res :=
  match s.decodeCheck i with
  | some f => .next (s.decodeFault f)
  | none => body (s.counted i)

/-- A body in which each guard-true lane computes alone from the state before the instruction (R128, R134). -/
def lanesBody (i : Instr) (f : State → Nat → LaneRes) (s : State) : State :=
  let ls := s.guardTrue (form i).guard
  s.commit (ls.map fun lk => (lk, withPoison (s.poisonOf i lk) (f s lk))) ls.head? false

/-- An instruction of independent lanes. -/
def laneInstr (i : Instr) (f : State → Nat → LaneRes) (s : State) : Res :=
  instr i s fun s => .next (lanesBody i f s)

/-- An instruction that acts once per lane set, through the lowest-numbered guard-true lane, and gives its results to every
guard-true lane (R133, R184, R224 and others). `f` gives the state after the effect and the results, or a fault on the
acting lane alone; then nothing else happens. -/
def onceBody (i : Instr) (f : State → Nat → State × LaneRes) (s : State) : State :=
  let ls := s.guardTrue (form i).guard
  match ls with
  | [] => s.commit [] none false
  | l :: _ =>
    let (s1, r) := f s l
    match withPoison (s.poisonOf i l) r with
    | .ok ws => s1.commit (ls.map fun lk => (lk, .ok ws)) (some l) false
    | .error e => s.commit [(l, .error e)] none false

/-- An instruction that acts once. -/
def onceInstr (i : Instr) (f : State → Nat → State × LaneRes) (s : State) : Res :=
  instr i s fun s => .next (onceBody i f s)

/-- Lanes in lane order, each seeing the effects of the lanes before it on everything but registers: `f s0 s lk` reads its
operands from `s0` and changes `s` (R224, R253). -/
def foldLanes (f : State → State → Nat → State × LaneRes) (s0 : State) :
    List Nat → State → State × List (Nat × LaneRes)
  | [], s => (s, [])
  | l :: ls, s =>
    let (s1, r) := f s0 s l
    let (s2, rs) := foldLanes f s0 ls s1
    (s2, (l, r) :: rs)

/-- A body in which lanes act one after another in lane order. -/
def seqBody (i : Instr) (f : State → State → Nat → State × LaneRes) (s : State) : State :=
  let ls := s.guardTrue (form i).guard
  let (s1, rs) := foldLanes (fun s0 s lk =>
    match s0.poisonOf i lk, f s0 s lk with
    | some p, (_, .ok _) => (s, .error p)
    | _, r => r) s ls s
  s1.commit rs ls.head? false

/-- An instruction whose lanes act in lane order. -/
def seqInstr (i : Instr) (f : State → State → Nat → State × LaneRes) (s : State) : Res :=
  instr i s fun s => .next (seqBody i f s)

/-- A register result. -/
def okReg (f : BitVec 9) (v : Word) : LaneRes := .ok [.rw (.reg f 0 v)]

/-- A result of `n` registers. -/
def okRegs (f : BitVec 9) (v n : Nat) : LaneRes := .ok ((regWrites f v n).map .rw)

/-- A quad result with its tag. -/
def okQuad (f : BitVec 9) (v : Quad) (t : Bool) : LaneRes := .ok [.rw (.quad f 0 v t)]

/-- A predicate result; the field holds the index in its low bits (R33). -/
def okPred (f : BitVec 9) (b : Bool) : LaneRes := .ok [.rw (.pred (f.toNat % 8) b)]

/-- The event's meaning does not apply in this state: nothing happens. -/
def skipEvent (s : State) : Res := .next s

end Sys2Proof.Machine
end

