-- ==== Sys2Proof/Machine/Fabric.lean ====
section
/-! DEFINITION. Sending on the fabric: the links and routes of R400 to R404, the message of R415 with its RNUM (R412), PSEQ
and counts (R416, R417), and what a link that leaves UP gives back (R407). -/

namespace Sys2Proof.Machine

def Link.off : Link :=
  ⟨.off, none, none, 0, 0, 0, 0, 0, 0, [], none, 0, [], false, false, false, 0, 0, 0, 0, 0, 0⟩

def State.link (s : State) (p : Nat) : Link := s.links.getD p Link.off
def State.setLink (s : State) (p : Nat) (l : Link) : State := { s with links := s.links.set p l }
def State.modLink (s : State) (p : Nat) (f : Link → Link) : State := s.setLink p (f (s.link p))

/-- A link that carries messages: UP, or replaying, which moves no route (R406; log entry 19). -/
def Link.usable (l : Link) : Bool := l.state = .up || l.state = .replaying

/-- The path label of a peer address (R401). -/
def pathLabel (a : Nat) : Nat := (a >>> 6) % 4 ^^^ (a >>> 8) % 4 ^^^ (a >>> 10) % 4

/-- Hamlet link of member `m` to member `d` (R400). -/
def hamletLink (m d : Nat) : Nat := (d + 31 - m) % 16

/-- The member a detour of label `p` passes through (R402). -/
def viaMember (m d p : Nat) : Nat :=
  let v := (d + 4 * p) % 16
  if v = m then (d + 4 * p + 2) % 16 else v

/-- The link on which the route of label `q` to member `d` leaves member `m` (R402). -/
def legPort (m d q : Nat) : Nat := if q = 0 then hamletLink m d else hamletLink m (viaMember m d q)

/-- The links of the route of label `q` between two members of hamlet `h`, each by device and port (R402). -/
def legLinks (h m d q : Nat) : List (Nat × Nat) :=
  if q = 0 then [(h * 16 + m, hamletLink m d)]
  else
    let v := viaMember m d q
    [(h * 16 + m, hamletLink m v), (h * 16 + v, hamletLink v d)]

/-- The other end of a hamlet link (R400). -/
def farEnd (x : Nat × Nat) : Nat × Nat := (x.1 / 16 * 16 + (x.1 + x.2 + 1) % 16, 14 - x.2)

/-- A link is UP, as far as this device knows: its own state says so, or the fabric manager has not reported it down (log entry 19). -/
def State.linkOk (s : State) (x : Nat × Nat) : Bool :=
  if x.1 = s.parish then (s.link x.2).usable
  else if x.2 < 15 && (farEnd x).1 = s.parish then (s.link (farEnd x).2).usable
  else !s.farDown.contains x

/-- The route that a hamlet leg of label `p` to member `d` takes (R402): the one it has while its links are UP, else the next whose links
are. It is named by the label whose route it is. -/
def State.legRoute (s : State) (d p : Nat) : Option Nat :=
  let cur := s.legs.getD (d * 4 + p) p
  let up := fun q => (legLinks (s.parish / 16) (s.parish % 16) d q).all s.linkOk
  if up cur then some cur else ([p + 1, p + 2, p + 3, p].map (· % 4)).find? up

/-- The link of a hamlet leg, and the table of routes with its choice. -/
def State.hamletLeg (s : State) (d p : Nat) : Option (Nat × Tbl Nat) :=
  (s.legRoute d p).map fun q => (legPort (s.parish % 16) d q, s.legs.set (d * 4 + p) q)

/-- The direct link to a member, or none. -/
def State.directLink (s : State) (d : Nat) : Option (Nat × Tbl Nat) :=
  let l := hamletLink (s.parish % 16) d
  if (s.link l).usable then some (l, s.legs) else none

/-- The triple that serves a hamlet (R403): the first whose parish link is UP. -/
def State.gateway (s : State) (h : Nat) : Option (Nat × Nat × Nat) :=
  (s.routes.getD h []).find? fun x => s.linkOk (s.parish / 16 * 16 + x.1, x.2.1)

/-- The link on which a message leaves this device (R402, R403), for its own messages and for those it forwards; none for one to
itself. -/
def State.nextLink (s : State) (m : FabMsg) : Option (Nat × Tbl Nat) :=
  let me := s.parish % 16
  let own := m.src = s.parish
  if m.dst = s.parish then none
  else if m.dst / 16 = s.parish / 16 then
    if own then s.hamletLeg (m.dst % 16) m.path
    else if m.src / 16 = s.parish / 16 then s.directLink (m.dst % 16)
    else match s.directLink (m.dst % 16) with
      | some x => some x
      | none => s.hamletLeg (m.dst % 16) m.path
  else match s.gateway (m.dst / 16) with
    | none => none
    | some (g, l, _) =>
      if g = me then some (l, s.legs) else if own then s.hamletLeg g m.path else s.directLink g

/-- The links of the route on which a message of this device leaves: those of its leg here, and the parish link behind it. -/
def State.routeOf (s : State) (m : FabMsg) : List (Nat × Nat) :=
  let h := s.parish / 16
  let leg := fun d => match s.legRoute d m.path with | some q => legLinks h (s.parish % 16) d q | none => []
  if m.dst / 16 = h then leg (m.dst % 16)
  else match s.gateway (m.dst / 16) with
    | none => []
    | some (g, l, _) => (if g = s.parish % 16 then [] else leg g) ++ [(h * 16 + g, l)]

/-- Every route to a peer, each by its links (R402, R403): the four of a leg, and for another hamlet each triple with the legs before and
behind it. -/
def State.routesTo (s : State) (peer : Nat) : List (List (Nat × Nat)) :=
  let h := s.parish / 16
  let legs := fun h m d => if m = d then [[]] else (List.range 4).map (legLinks h m d)
  if peer / 16 = h then legs h (s.parish % 16) (peer % 16)
  else (s.routes.getD (peer / 16) []).flatMap fun x =>
    (legs h (s.parish % 16) x.1).flatMap fun a => (legs (peer / 16) x.2.2 (peer % 16)).map fun b =>
      a ++ [(h * 16 + x.1, x.2.1)] ++ b

/-- Some route to a peer has all its links UP. -/
def State.routable (s : State) (peer : Nat) : Bool := (s.routesTo peer).any fun r => r.all s.linkOk

/-- For each peer, the cycle since when it has no route, kept as links of the state `old` change to those of `s` (R408). -/
def State.recut (old s : State) : State :=
  (List.range 640).foldl (fun s p =>
    if s.routable p then { s with cut := s.cut.erase p }
    else if old.routable p then { s with cut := s.cut.set p s.now } else s) s

/-- A message given to a route, or kept until one is usable (R407); one to this device itself is kept until it takes it. -/
def State.sendMsg (s : State) (m : FabMsg) : State :=
  match s.nextLink m with
  | some (l, legs) => ({ s with legs := legs }).modLink l fun x => { x with txq := x.txq ++ [m] }
  | none => { s with unsent := s.unsent ++ [m] }

/-- A message sent on the route that there is now, which a request keeps. -/
def State.reroute (s : State) (m : FabMsg) : State :=
  let asked := s.asked.map fun (z : Asked) => if z.m = m then ⟨s.routeOf m, m⟩ else z
  { s with asked := asked }.sendMsg m

/-- Messages waiting for a route sent again, in order. -/
def State.resendUnsent (s : State) : State := s.unsent.foldl (fun s m => s.reroute m) { s with unsent := [] }

/-- An all-zero message header. -/
def FabMsg.zero : FabMsg := ⟨0, 0, 0, 0, 0, 0, 0, false, [], [], 0, 0, 0, 0, 0, 0, 0, 0, 0, [], 0, [], 0, 0, .none⟩

/-- The next RNUM to a device (R412). -/
def State.nextRnum (s : State) (dst : Nat) : Nat := (s.rnums.getD dst 0 + 1) % 2 ^ 32

/-- OP of a message that carries a body (R401, R415): 7 launch, 8 control. -/
def bodyOp (b : MsgBody) : Nat := match b with | .launch .. | .entry _ => 7 | _ => 8

/-- A launch or control message to a device: it takes label 0 (R401), and waits where no route is up (R453). It is numbered as a request
is, so that one sent again acts once (R407, R412; log entry 95). -/
def State.sendBody (s : State) (peer : Nat) (b : MsgBody) : State :=
  let rn := s.nextRnum peer
  { s with rnums := s.rnums.set peer rn }.sendMsg
    { FabMsg.zero with src := s.parish, dst := peer, op := bodyOp b, rnum := rn, body := b }

/-- A request sent: it takes the next RNUM, and a store, RMW or bulk packet the next PSEQ of its label (R416). An ordered
request carries the four counts (R417). -/
def State.sendRequest (s : State) (m : FabMsg) : State × Nat :=
  let rn := s.nextRnum m.dst
  let pk := m.dst * 4 + m.path
  let counted := m.op = 1 || m.op = 2 || m.op = 3 || m.op = 4
  let ps := if counted then (s.pseqs.getD pk 0 + 1) % 2 ^ 32 else 0
  let counts := if m.ofl then (List.range 4).map fun q => s.pseqs.getD (m.dst * 4 + q) 0 else []
  let s1 := { s with
    rnums := s.rnums.set m.dst rn
    pseqs := if counted then s.pseqs.set pk ps else s.pseqs }
  let m1 := { m with rnum := rn, pseq := ps, counts := counts, src := s.parish }
  let y : Asked := ⟨s1.routeOf m1, m1⟩
  ({ s1 with asked := s1.asked ++ [y] }.sendMsg m1, rn)

/-- A request that is answered is not sent again. -/
def State.unask (s : State) (peer rn : Nat) : State :=
  { s with asked := s.asked.filter fun x => !(x.m.dst = peer && x.m.rnum = rn) }

/-- A request of a device itself, which a peer answers. -/
def isRequest (m : FabMsg) (me : Nat) : Bool := m.src = me && (m.op < 5 || (m.op = 6 && m.sub < 5))

/-- The requests that were sent over a link and are not answered, sent again on the routes that there are now, in order (R407). -/
def State.askAgain (s : State) (x : Nat × Nat) : State :=
  s.asked.foldl (fun s y => if y.route.contains x then s.reroute y.m else s) s

/-- Routes of which a link is gone take the next (R402). -/
def State.moveLegs (s : State) : State :=
  { s with legs := s.legs.filterMap fun e => (s.legRoute (e.1 / 4) (e.1 % 4)).map fun q => (e.1, q) }

/-- The fabric manager reports a link of another device. -/
def State.farLink (s : State) (dev port : Nat) (up : Bool) : State :=
  let x := (dev, port)
  let names := if port < 15 then [x, farEnd x] else [x]
  let s1 := { s with farDown := if up then s.farDown.filter fun y => !names.contains y
                                else s.farDown ++ names.filter fun y => !s.farDown.contains y }
  let s2 := (s.recut s1).moveLegs
  (if up then s2 else names.foldl (fun s y => s.askAgain y) s2).resendUnsent

/-- The answer to a request (R415), by the request's channel. -/
def State.answerTo (s : State) (m : FabMsg) (status : Byte) (seen : Nat) (data : List Byte) (tags poison : List Bool) : FabMsg :=
  { FabMsg.zero with
    src := s.parish
    dst := m.src
    grant := m.grant
    colour := m.colour
    op := if m.op = 6 then 6 else 5
    sub := 5
    path := m.path
    rnum := m.rnum
    addr := m.addr
    status := status
    data := data
    len := data.length
    tags := if m.op = 6 then tags else []
    poison := poison
    seen := seen }

/-! ## What the destination of requests keeps (R412, R416) -/

/-- A completion count that takes in the requests performed just beyond it; the first number bounds them. -/
def Count.close : Nat → Count → Count
  | 0, c => c
  | k + 1, c =>
    let n := (c.upTo + 1) % 2 ^ 32
    if c.beyond.contains n then Count.close k ⟨n, c.beyond.erase n⟩ else c

/-- A completion count after request `p` has been performed. -/
def Count.add (c : Count) (p : Nat) : Count := Count.close (c.beyond.length + 1) ⟨c.upTo, insertNat c.beyond p⟩

/-- The requests that PSEQ counts (R416): stores, RMWs and bulk packets. -/
def countedMsg (m : FabMsg) : Bool := 1 ≤ m.op && m.op ≤ 4

/-- Of a list of kept answers, the newest `n` of one source. -/
def keepNewest (src : Nat) : Nat → List (Nat × Nat × FabMsg) → List (Nat × Nat × FabMsg)
  | _, [] => []
  | n, p :: t =>
    if p.1 ≠ src then p :: keepNewest src n t
    else match n with
      | 0 => keepNewest src 0 t
      | k + 1 => p :: keepNewest src k t

/-- A request answered: it counts as performed (R365, R416), its answer is kept (R412) and sent. -/
def State.answerReq (s : State) (m : FabMsg) (status : Byte) (seen : Nat) (data : List Byte)
    (tags poison : List Bool) : State :=
  let a := s.answerTo m status seen data tags poison
  let k := m.src * 4 + m.path
  let s1 := { s with
    kept := keepNewest m.src 65536 ((m.src, m.rnum, a) :: s.kept)
    counts := if countedMsg m then s.counts.set k ((s.counts.getD k ⟨0, []⟩).add m.pseq) else s.counts }
  s1.sendMsg a

/-- A request that was passed on to the host or a lender has its answer. -/
def State.answerHeld (s : State) (n : Nat) (status : Byte) (seen : Nat) (data : List Byte)
    (tags poison : List Bool) : State :=
  match s.heldReqs.get? n with
  | some h => ({ s with heldReqs := s.heldReqs.erase n }).answerReq h.m status seen data tags poison
  | none => s

end Sys2Proof.Machine
end

