-- ==== Sys2Proof/Machine/Float.lean ====
section
/-! DEFINITION. Floating-point numbers (R64 to R70, R152 to R157) in exact arithmetic: a finite value is an integer times a
power of two, an operation computes the exact result, and one rounding encodes it. -/

namespace Sys2Proof.Machine

/-- A floating format by its exponent and fraction widths (R64). -/
structure FFmt where
  (eb fb : Nat)
  deriving DecidableEq, Repr

abbrev f32 : FFmt := ⟨8, 23⟩
abbrev f16 : FFmt := ⟨5, 10⟩
abbrev bf16 : FFmt := ⟨8, 7⟩

/-- The exponent bias. -/
def FFmt.bias (f : FFmt) : Nat := 2 ^ (f.eb - 1) - 1
/-- The bits of +∞; every pattern from here to the sign bit is not finite. -/
def FFmt.infBits (f : FFmt) : Nat := (2 ^ f.eb - 1) * 2 ^ f.fb
/-- The sign bit. -/
def FFmt.signBit (f : FFmt) : Nat := 2 ^ (f.eb + f.fb)
/-- The canonical NaN (R64, R66). -/
def FFmt.nan (f : FFmt) : Nat := f.infBits + 2 ^ (f.fb - 1)
/-- The exponent of the least significant bit of the subnormals. -/
def FFmt.emin (f : FFmt) : Int := 1 - (f.bias : Int) - f.fb

/-- A value: NaN, an infinity, or (−1)^neg × m × 2^e. -/
inductive FV where
  | nan
  | inf (neg : Bool)
  | fin (neg : Bool) (m : Nat) (e : Int)
  deriving DecidableEq, Repr

/-- The value of a bit pattern (R64, R66). -/
def FFmt.val (f : FFmt) (b : Nat) : FV :=
  let neg := b / f.signBit % 2 = 1
  let x := b % f.signBit
  let ex := x / 2 ^ f.fb
  let fr := x % 2 ^ f.fb
  if f.infBits < x then .nan
  else if x = f.infBits then .inf neg
  else if ex = 0 then .fin neg fr f.emin
  else .fin neg (fr + 2 ^ f.fb) (f.emin + (ex - 1 : Nat))

/-- A sign put on magnitude bits. -/
def FFmt.withSign (f : FFmt) (neg : Bool) (b : Nat) : Nat := if neg then f.signBit + b else b

/-- Whether a magnitude rounds away from zero: modes 0 RNE, 1 RTZ, 2 RDN, 3 RUP (R67). `odd` is the kept last bit, `rem`
against `half` the part cut off, `sticky` that more lies below. -/
def roundsUp (mode : Nat) (neg odd : Bool) (rem half : Nat) (sticky : Bool) : Bool :=
  match mode with
  | 0 => half < rem || (rem = half && (sticky || odd))
  | 1 => false
  | 2 => neg && (0 < rem || sticky)
  | _ => !neg && (0 < rem || sticky)

/-- The result of an overflow (R67), or the largest finite value under NSAT (R69). -/
def FFmt.overflow (f : FFmt) (mode : Nat) (nsat neg : Bool) : Nat :=
  let maxFin := f.infBits - 1
  let toInf := match mode with | 0 => true | 1 => false | 2 => neg | _ => !neg
  f.withSign neg (if toInf && !nsat then f.infBits else maxFin)

/-- Round(x, fmt, mode) of the magnitude m × 2^e, or of one strictly between it and (m + 1) × 2^e when `sticky` (R67). -/
def FFmt.round (f : FFmt) (mode : Nat) (nsat neg : Bool) (m : Nat) (e : Int) (sticky : Bool := false) : Nat :=
  if m = 0 && !sticky then f.withSign neg 0
  else
    let q := max ((Nat.log2 m : Int) + e - f.fb) f.emin
    let mant :=
      if q ≤ e then m <<< (e - q).toNat
      else
        let sh := (q - e).toNat
        let k := m >>> sh
        let rem := m % 2 ^ sh
        if roundsUp mode neg (k % 2 = 1) rem (2 ^ (sh - 1)) sticky then k + 1 else k
    let bits := (q - f.emin).toNat * 2 ^ f.fb + mant
    if f.infBits ≤ bits then f.overflow mode nsat neg else f.withSign neg bits

/-- The sign of an exact zero sum of values of opposite sign (R67). -/
def zeroSign (mode : Nat) : Bool := mode = 2

/-- A signed dyadic: an integer times a power of two. -/
structure Dy where
  m : Int
  e : Int
  deriving DecidableEq, Repr

/-- The exact sum of dyadics. -/
def Dy.add (a b : Dy) : Dy :=
  let e := min a.e b.e
  ⟨a.m * 2 ^ (a.e - e).toNat + b.m * 2 ^ (b.e - e).toNat, e⟩

/-- The exact product of dyadics. -/
def Dy.mul (a b : Dy) : Dy := ⟨a.m * b.m, a.e + b.e⟩

/-- A finite value as a signed dyadic. -/
def FV.dy : FV → Dy
  | .fin neg m e => ⟨if neg then -(m : Int) else m, e⟩
  | _ => ⟨0, 0⟩

/-- Round of a nonzero exact value. -/
def FFmt.roundDy (f : FFmt) (mode : Nat) (nsat : Bool) (d : Dy) : Nat :=
  f.round mode nsat (d.m < 0) d.m.natAbs d.e

/-- Whether a value is a zero. -/
def FV.isZero : FV → Bool
  | .fin _ 0 _ => true
  | _ => false

/-- The sign of a value. -/
def FV.neg : FV → Bool
  | .nan => false
  | .inf n => n
  | .fin n _ _ => n

/-- A value with its sign changed. -/
def FV.flip : FV → FV
  | .nan => .nan
  | .inf n => .inf (!n)
  | .fin n m e => .fin (!n) m e

/-- The exact product as a value; 0 × ∞ is NaN (R153). -/
def FV.mul : FV → FV → FV
  | .nan, _ => .nan
  | _, .nan => .nan
  | .inf a, y => if y.isZero then .nan else .inf (a != y.neg)
  | x, .inf b => if x.isZero then .nan else .inf (x.neg != b)
  | .fin a m e, .fin b n g => .fin (a != b) (m * n) (e + g)

/-- The rounded sum of two values (R153, R67). -/
def FFmt.addV (f : FFmt) (mode : Nat) (nsat : Bool) (x y : FV) : Nat :=
  match x, y with
  | .nan, _ => f.nan
  | _, .nan => f.nan
  | .inf a, .inf b => if a = b then f.withSign a f.infBits else f.nan
  | .inf a, _ => f.withSign a f.infBits
  | _, .inf b => f.withSign b f.infBits
  | .fin a _ _, .fin b _ _ =>
    let d := x.dy.add y.dy
    if d.m = 0 then f.withSign (if x.isZero && y.isZero && a = b then a else zeroSign mode) 0
    else f.roundDy mode nsat d

/-- The rounded product (R153). -/
def FFmt.mulV (f : FFmt) (mode : Nat) (nsat : Bool) (x y : FV) : Nat :=
  match x.mul y with
  | .nan => f.nan
  | .inf n => f.withSign n f.infBits
  | .fin n m e => f.round mode nsat n m e

/-- a × b + c with one rounding (R153). -/
def FFmt.fmaV (f : FFmt) (mode : Nat) (nsat : Bool) (x y z : FV) : Nat := f.addV mode nsat (x.mul y) z

/-- The rounded quotient (R153). -/
def FFmt.divV (f : FFmt) (mode : Nat) (x y : FV) : Nat :=
  match x, y with
  | .nan, _ => f.nan
  | _, .nan => f.nan
  | .inf _, .inf _ => f.nan
  | .inf a, y => f.withSign (a != y.neg) f.infBits
  | x, .inf b => f.withSign (x.neg != b) 0
  | .fin a m e, .fin b n g =>
    if n = 0 then (if m = 0 then f.nan else f.withSign (a != b) f.infBits)
    else
      let k := 64 + Nat.log2 n
      let q := (m <<< k) / n
      f.round mode false (a != b) q (e - g - k) ((m <<< k) % n ≠ 0)

/-- The integer square root by Newton steps on fuel. -/
def isqrtAux : Nat → Nat → Nat → Nat
  | 0, _, x => x
  | k + 1, n, x =>
    let y := (x + n / x) / 2
    if y < x then isqrtAux k n y else x

/-- The integer square root. -/
def isqrt (n : Nat) : Nat := if n = 0 then 0 else isqrtAux (Nat.log2 n + 2) n (2 ^ (Nat.log2 n / 2 + 1))

/-- The rounded square root (R153). -/
def FFmt.sqrtV (f : FFmt) (mode : Nat) (x : FV) : Nat :=
  match x with
  | .nan => f.nan
  | .inf n => if n then f.nan else f.infBits
  | .fin n m e =>
    if m = 0 then f.withSign n 0
    else if n then f.nan
    else
      let sh := if e % 2 = 0 then 80 else 81
      let v := m <<< sh
      let r := isqrt v
      f.round mode false false r ((e - sh) / 2) (r * r ≠ v)

/-- The order of two numbers as −1, 0, 1; none when either is NaN (R155). −0 equals +0. -/
def FV.cmp (x y : FV) : Option Int :=
  match x, y with
  | .nan, _ => none
  | _, .nan => none
  | .inf a, .inf b => some (if a = b then 0 else if a then -1 else 1)
  | .inf a, _ => some (if a then -1 else 1)
  | _, .inf b => some (if b then 1 else -1)
  | .fin .., .fin .. =>
    let d := x.dy.add (y.flip).dy
    some (if d.m < 0 then -1 else if d.m = 0 then 0 else 1)

/-- FMIN and FMAX on bit patterns (R66). -/
def FFmt.minMax (f : FFmt) (isMax : Bool) (a b : Nat) : Nat :=
  match (f.val a).cmp (f.val b) with
  | none =>
    if f.val a = .nan then (if f.val b = .nan then f.nan else b) else a
  | some c =>
    if c = 0 then (if (f.val a).neg = isMax then b else a)
    else if (c < 0) = isMax then b else a

/-- A value rounded to an integer (R157, R70): the magnitude, with its sign apart. -/
def roundInt (mode : Nat) (neg : Bool) (m : Nat) (e : Int) : Nat :=
  if 0 ≤ e then m <<< e.toNat
  else
    let sh := (-e).toNat
    let k := m >>> sh
    if roundsUp mode neg (k % 2 = 1) (m % 2 ^ sh) (2 ^ (sh - 1)) false then k + 1 else k

/-- FRND (R157). -/
def FFmt.rnd (f : FFmt) (mode : Nat) (b : Nat) : Nat :=
  match f.val b with
  | .nan => f.nan
  | .inf n => f.withSign n f.infBits
  | .fin n m e => f.round 0 false n (roundInt mode n m e) 0

/-- FCLASS (R156): the bit number. -/
def FFmt.classBit (f : FFmt) (b : Nat) : Nat :=
  match f.val b with
  | .nan => 8
  | .inf n => if n then 0 else 7
  | .fin n m _ =>
    if m = 0 then (if n then 3 else 4)
    else if m < 2 ^ f.fb then (if n then 2 else 5)
    else if n then 1 else 6

/-- A value converted to a format with one rounding (R70): NaN to the canonical NaN, infinities to themselves. -/
def FFmt.ofV (f : FFmt) (mode : Nat) (nsat : Bool) (x : FV) : Nat :=
  match x with
  | .nan => f.nan
  | .inf n => f.withSign n f.infBits
  | .fin n m e => f.round mode nsat n m e

/-- An integer converted to a format (R70). -/
def FFmt.ofInt (f : FFmt) (mode : Nat) (nsat : Bool) (x : Int) : Nat :=
  f.round mode nsat (x < 0) x.natAbs 0

/-- A value converted to an integer between two limits (R70): NaN gives 0, an infinity its limit. -/
def FV.toInt (mode : Nat) (lo hi : Int) (x : FV) : Int :=
  match x with
  | .nan => 0
  | .inf n => if n then lo else hi
  | .fin n m e =>
    let k : Int := roundInt mode n m e
    max lo (min hi (if n then -k else k))

/-- A sum of products and addends rounded once, with the special values of R77: `terms` are the exact terms. -/
def FFmt.sumV (f : FFmt) (mode : Nat) (nsat : Bool) (terms : List FV) : Nat :=
  if terms.contains .nan then f.nan
  else if terms.contains (.inf true) && terms.contains (.inf false) then f.nan
  else if terms.contains (.inf true) then f.withSign true f.infBits
  else if terms.contains (.inf false) then f.infBits
  else
    let d := terms.foldl (fun a t => a.add t.dy) ⟨0, 0⟩
    if d.m = 0 then f.withSign (!terms.isEmpty && terms.all fun t => t.isZero && t.neg) 0
    else f.roundDy mode nsat d

/-! ## Functions within a bound (R152, R158 to R160) -/

/-- The scale of the fixed-point reals below: an integer x stands for x / 2^340. -/
abbrev fixP : Nat := 340

/-- π/2 × 2^512, rounded down. -/
def halfPi512 : Nat :=
  0x1921fb54442d18469898cc51701b839a252049c1114cf98e804177d4c76273644a29410f31c6809bbdf2a33679a748636605614dbe4be286e9fc26adadaa3848b

/-- ln 2 × 2^340, rounded down. -/
def ln2Fix : Nat :=
  0xb17217f7d1cf79abc9e3b39803f2f6af40f343267298b62d8a0d175b8baafa2be7b876206debac9855955

/-- The product of two fixed-point reals. -/
def fixMul (a b : Int) : Int := a * b / 2 ^ fixP

/-- Σ x^k / k! from the term `t` on, `k` counting up, by `n` terms. -/
def expSeries : Nat → Nat → Int → Int → Int
  | 0, _, _, _ => 0
  | n + 1, k, x, t => t + expSeries n (k + 1) x (fixMul t x / (k + 1 : Nat))

/-- e^x of a fixed-point real, |x| < 32: the series at x / 256, squared eight times. -/
def fixExp (x : Int) : Int :=
  let y := expSeries 60 0 (x / 256) (2 ^ fixP)
  (List.range 8).foldl (fun y _ => fixMul y y) y

/-- Σ ± x^(2k+j) / (2k+j)! from the term `t` of order `j` on, by `n` terms. -/
def trigSeries : Nat → Nat → Int → Int → Int
  | 0, _, _, _ => 0
  | n + 1, j, x2, t => t + trigSeries n (j + 2) x2 (-(fixMul t x2) / ((j + 1) * (j + 2) : Nat))

/-- sin and cos of a fixed-point real, |x| ≤ 1. -/
def fixSin (x : Int) : Int := trigSeries 45 1 (fixMul x x) x
def fixCos (x : Int) : Int := trigSeries 45 0 (fixMul x x) (2 ^ fixP)

/-- Σ z^(2k+1) / (2k+1) from order `j` on. -/
def atanhSeries : Nat → Nat → Int → Int → Int
  | 0, _, _, _ => 0
  | n + 1, j, z2, p => p / (j : Nat) + atanhSeries n (j + 2) z2 (fixMul p z2)

/-- ln of m × 2^−k with 2^k ≤ m < 2^(k+1). -/
def fixLn (m k : Nat) : Int :=
  let z : Int := ((m : Int) - 2 ^ k) * 2 ^ fixP / ((m : Int) + 2 ^ k)
  2 * atanhSeries 110 1 (fixMul z z) z

/-- A finite value as a fixed-point real, exact for every F32 value below 2^100. -/
def Dy.fix (d : Dy) : Int :=
  if 0 ≤ d.e + fixP then d.m * 2 ^ (d.e + fixP).toNat else d.m / 2 ^ (-(d.e + fixP)).toNat

/-- An exact real given as a dyadic approximation, rounded to the nearest F32. -/
def nearF32 (y : Dy) : Nat := if y.m = 0 then 0 else f32.roundDy 0 false y

/-- ulp(y) of R152 as a dyadic. -/
def ulpOf (y : Dy) : Dy :=
  if y.m = 0 then ⟨1, -149⟩ else ⟨1, max ((Nat.log2 y.m.natAbs : Int) + y.e) (-126) - 23⟩

/-- Whether a dyadic is at most another. -/
def Dy.le (a b : Dy) : Bool := (b.add ⟨-a.m, a.e⟩).m ≥ 0

/-- |a − b|. -/
def Dy.dist (a b : Dy) : Dy := let d := a.add ⟨-b.m, b.e⟩; ⟨d.m.natAbs, d.e⟩

/-- The part's own result for an exact real `y`, if it is a finite F32 value within `bound` of it; otherwise the nearest F32
value. So every allowed result can occur, and no other (log entry 6). -/
def approxWithin (cand : Nat) (y bound : Dy) : Nat :=
  match f32.val cand with
  | .fin n m e => if ((FV.fin n m e).dy.dist y).le bound then cand else nearF32 y
  | _ => nearF32 y

/-- A magnitude just below m × 2^e: sin x and tanh x of an operand so small that x − x³ / 3 lies within 2^−120 of x relatively
(R158, R160). -/
def justBelow (m : Nat) (e : Int) : Dy := ⟨m * 2 ^ 200 - 1, e - 200⟩

/-- Whether |x| < 2^−60 for x = m × 2^e. -/
def tiny (m : Nat) (e : Int) : Bool := (Nat.log2 m : Int) + e < -60

/-- A dyadic with a sign. -/
def Dy.signed (n : Bool) (y : Dy) : Dy := if n then ⟨-y.m, y.e⟩ else y

/-- Within `k` ulp of `y`. -/
def approxUlp (cand k : Nat) (y : Dy) : Nat := approxWithin cand y (Dy.mul ⟨k, 0⟩ (ulpOf y))

/-- The result of an approximate function whose exact value is the dyadic `y` (R152: then exact when F32 holds it). -/
def exactOr (y : Dy) (alt : Nat) : Nat :=
  let b := nearF32 y
  match f32.val b with
  | .fin n m e => if ((FV.fin n m e).dy.dist y).m = 0 then b else alt
  | _ => alt

/-- FRCP (R158). -/
def frcp (cand a : Nat) : Nat :=
  match f32.val a with
  | .nan => f32.nan
  | .inf n => f32.withSign n 0
  | .fin n m e =>
    if m = 0 then f32.withSign n f32.infBits
    else
      let lg := Nat.log2 m
      let pow := m = 2 ^ lg
      -- |1/a| ≥ 2^128 exactly when m × 2^e ≤ 2^−128
      if (lg : Int) + e < -128 || (pow && (lg : Int) + e = -128) then f32.withSign n f32.infBits
      else
        let q : Nat := 2 ^ 200 / m
        let y : Dy := ⟨if n then -(q : Int) else q, -e - 200⟩
        if pow then nearF32 ⟨if n then -1 else 1, -e - lg⟩ else approxUlp cand 1 y

/-- FRSQ (R158). -/
def frsq (cand a : Nat) : Nat :=
  match f32.val a with
  | .nan => f32.nan
  | .inf n => if n then f32.nan else 0
  | .fin n m e =>
    if m = 0 then f32.withSign n f32.infBits
    else if n then f32.nan
    else
      let sh : Nat := if e % 2 = 0 then 0 else 1
      let m2 := m <<< sh
      let e2 := (e - sh) / 2
      -- 1/√(m2 × 2^(2·e2)) = 2^−e2 / √m2
      let r := isqrt (2 ^ 400 / m2)
      let s := isqrt m2
      if s * s = m2 && s = 2 ^ Nat.log2 s then nearF32 ⟨1, -e2 - Nat.log2 s⟩ else approxUlp cand 1 ⟨r, -200 - e2⟩

/-- FEX2 (R158). -/
def fex2 (cand a : Nat) : Nat :=
  match f32.val a with
  | .nan => f32.nan
  | .inf n => if n then 0 else f32.infBits
  | .fin n m e =>
    let x := (FV.fin n m e).dy
    if (Dy.le ⟨128, 0⟩ x) then f32.infBits
    else if x.le ⟨-151, 0⟩ then 0
    else
      let fx := x.fix
      let k := fx / 2 ^ fixP
      let fr := fx % 2 ^ fixP
      if fr = 0 && -149 ≤ k then nearF32 ⟨1, k⟩
      else approxUlp cand 2 ⟨fixExp (fixMul fr ln2Fix), k - fixP⟩

/-- FLG2 (R158). In (0.5, 2) the bound is the absolute error 2^−22 (log entry 15). -/
def flg2 (cand a : Nat) : Nat :=
  match f32.val a with
  | .nan => f32.nan
  | .inf n => if n then f32.nan else f32.infBits
  | .fin n m e =>
    if m = 0 then f32.withSign true f32.infBits
    else if n then f32.nan
    else
      let lg := Nat.log2 m
      let k := (lg : Int) + e
      if m = 2 ^ lg then f32.ofInt 0 false k
      else
        let y : Dy := ⟨k * 2 ^ fixP + fixLn m lg * 2 ^ fixP / ln2Fix, -(fixP : Int)⟩
        if k = 0 || k = -1 then approxWithin cand y ⟨1, -22⟩ else approxUlp cand 2 y

/-- FTANH (R158). -/
def ftanh (cand a : Nat) : Nat :=
  match f32.val a with
  | .nan => f32.nan
  | .inf n => f32.withSign n 0x3F800000
  | .fin n m e =>
    let x := (FV.fin false m e).dy
    if m = 0 then f32.withSign n 0
    else if Dy.le ⟨10, 0⟩ x then f32.withSign n 0x3F800000
    else if tiny m e then approxUlp cand 2 ((justBelow m e).signed n)
    else
      let ex := fixExp (2 * x.fix)
      let t := (ex - 2 ^ fixP) * 2 ^ fixP / (ex + 2 ^ fixP)
      approxUlp cand 2 ⟨if n then -t else t, -(fixP : Int)⟩

/-- FRED (R159): r and q. -/
def fred (a : Nat) : Nat × Nat :=
  match f32.val a with
  | .nan => (f32.nan, 0)
  | .inf _ => (f32.nan, 0)
  | .fin n m e =>
    if m = 0 then (f32.withSign n 0, 0)
    else
      -- |a| × 2^512, exact: e ≥ −149
      let x : Nat := m <<< (e + 512).toNat
      let k := (2 * x + halfPi512) / (2 * halfPi512)
      let d : Int := (x : Int) - k * halfPi512
      let q := if n then (4 - k % 4) % 4 else k % 4
      (f32.roundDy 0 false ⟨if n then -d else d, -512⟩, q)

/-- sin(r + q·π/2) of a reduced pair (R160). Beyond π/4 the result is some value of [−1, 1]. -/
def fsinQ (cand r q : Nat) : Nat :=
  match f32.val r with
  | .nan => f32.nan
  | .inf _ => f32.nan
  | .fin n m e =>
    let neg := q % 4 / 2 = 1
    if 0x3F490FDB < r % f32.signBit then
      match (f32.val cand) with
      | .fin _ m' e' => if Dy.le ⟨m', e'⟩ ⟨1, 0⟩ then cand else 0
      | _ => 0
    else if q % 2 = 0 then
      if m = 0 then f32.withSign (n != neg) 0
      else if tiny m e then approxUlp cand 2 ((justBelow m e).signed (n != neg))
      else
        let y := fixSin (FV.fin n m e).dy.fix
        approxUlp cand 2 ⟨if neg then -y else y, -(fixP : Int)⟩
    else if m = 0 then f32.withSign neg 0x3F800000
    else
      let y := fixCos (FV.fin n m e).dy.fix
      approxUlp cand 2 ⟨if neg then -y else y, -(fixP : Int)⟩

/-! ## The residue formats (R71, R72) -/

/-- Whether a TRI8 pattern is NaN. -/
def tri8Nan (b : Nat) : Bool := b % 4 = 3 || b / 32 % 8 = 7
/-- Whether a TRI16 pattern is NaN. -/
def tri16Nan (b : Nat) : Bool := b % 32 = 31 || b / 1024 % 64 = 63

/-- The value of a valid TRI8 pattern (R72). -/
def tri8Val (b : Nat) : Int :=
  let u := (112 * (b % 4) + 105 * (b / 4 % 8) + 120 * (b / 32 % 8)) % 168
  if u < 84 then u else (u : Int) - 168

/-- The value of a valid TRI16 pattern (R72). -/
def tri16Val (b : Nat) : Int :=
  let u := (2016 * (b % 32) + 1953 * (b / 32 % 32) + 58528 * (b / 1024 % 64)) % 62496
  if u < 31248 then u else (u : Int) - 62496

/-- The TRI8 pattern of an integer in range (R71). -/
def tri8Enc (x : Int) : Nat := (x % 7).toNat * 32 + (x % 8).toNat * 4 + (x % 3).toNat
/-- The TRI16 pattern of an integer in range (R71). -/
def tri16Enc (x : Int) : Nat := (x % 63).toNat * 1024 + (x % 32).toNat * 32 + (x % 31).toNat

/-- Sat (R62). -/
def sat (lo hi x : Int) : Int := max lo (min hi x)

end Sys2Proof.Machine
end

