-- ==== Sys2Proof/Machine/Operands.lean ====
section
/-! DEFINITION. Operand forms of the lane instructions: elements of a lane type (R36, R61), immediates (R135, R147), shift
amounts, bit-field positions (R144), and the masks and selectors of the table-driven instructions. -/

namespace Sys2Proof.Machine

/-- Element width of a lane type code (R36). -/
def elemWidth (ty : Nat) : Nat :=
  if ty ≤ 3 then 32 else if ty ≤ 6 then 64 else if ty ≤ 10 then 16 else 8

/-- Whether a lane type code is two's complement (R61). -/
def signedTy (ty : Nat) : Bool := ty = 1 || ty = 5 || ty = 9 || ty = 11

/-- An unsigned `w`-bit number read as two's complement. -/
def toSigned (w x : Nat) : Int := if x < 2 ^ (w - 1) then x else (x : Int) - 2 ^ w

/-- Element `k` of raw bits, unsigned. -/
def elemU (w raw k : Nat) : Nat := raw / 2 ^ (w * k) % 2 ^ w

/-- Element `k` of raw bits, read as its type says (R135). -/
def elemOf (ty raw k : Nat) : Int :=
  let x := elemU (elemWidth ty) raw k
  if signedTy ty then toSigned (elemWidth ty) x else x

/-- Raw bits whose element `k` of width `w` is `f k`, modulo 2^w (R62). -/
def packElems (w n : Nat) (f : Nat → Int) : Nat :=
  (List.range n).foldl (fun a k => a + (f k % 2 ^ w).toNat * 2 ^ (w * k)) 0

/-- Raw bits with element `k` of width `w` replaced. -/
def setElem (w raw k x : Nat) : Nat :=
  raw - elemU w raw k * 2 ^ (w * k) + x % 2 ^ w * 2 ^ (w * k)

/-- The raw bits a register field of a lane type carries: a pair for the 64-bit types (R36). -/
def State.raw (s : State) (lk : Nat) (ty : Nat) (f : BitVec 9) : Nat :=
  if wide64 ty then (s.pair lk f).toNat else (s.reg1 lk f).toNat

/-- The result of a lane type written to its field. -/
def okTy (ty : Nat) (f : BitVec 9) (v : Nat) : LaneRes := okRegs f v (tyRegs ty)

/-- Element `k` of operand B, or the zero-extended immediate (R135). -/
def State.elemB (s : State) (lk : Nat) (f : FmtT) (k : Nat) : Int :=
  if f.mod.getLsbD 11 then f.b.toNat else elemOf f.ty.toNat (s.raw lk f.ty.toNat f.b) k

/-- The whole operand B of a bits type, or the immediate. -/
def State.rawB (s : State) (lk : Nat) (f : FmtT) : Nat :=
  if f.mod.getLsbD 11 then f.b.toNat else s.raw lk f.ty.toNat f.b

/-- Operand B as one register, or the immediate (R187). -/
def State.regB (s : State) (lk : Nat) (f : FmtT) : Nat :=
  if f.mod.getLsbD 11 then f.b.toNat else (s.reg1 lk f.b).toNat

/-- The shift amount of element `k` (R143): for the packed types the element of B, for the others the whole of one
register. -/
def State.amount (s : State) (lk : Nat) (f : FmtT) (k : Nat) : Nat :=
  if f.mod.getLsbD 11 then f.b.toNat
  else
    let r := (s.reg1 lk f.b).toNat
    if tyElems f.ty.toNat = 1 then r else elemU (elemWidth f.ty.toNat) r k

/-- The 32-bit immediate of format I, extended as MI selects, and the width (R147): MI 0 32 bits, 1 sign-extended,
2 zero-extended. -/
def immI (mi : BitVec 2) (imm : Word) : Nat :=
  if mi == 1 then (imm.signExtend 64).toNat else imm.toNat

/-- The 64-bit immediate of ICMPI by type (R148). -/
def immCmp (mi : BitVec 2) (imm : Word) : Int :=
  if mi == 0 || mi == 2 then imm.toInt else imm.toNat

/-- Operand A of format I. -/
def State.rawI (s : State) (lk : Nat) (f : FmtI) : Nat :=
  if f.mi == 0 then (s.reg1 lk f.a).toNat else (s.pair lk f.a).toNat

/-- Position and length of BFX and BFI (R144): from MOD, or from the control register. -/
def fieldSpec (mod : BitVec 12) (control : Word) : Nat × Nat :=
  if mod.getLsbD 10 then ((control.extractLsb' 0 8).toNat, (control.extractLsb' 8 8).toNat)
  else ((mod.extractLsb' 0 5).toNat, (mod.extractLsb' 5 5).toNat + 1)

/-- l of R144. -/
def fieldLen (pos len : Nat) : Nat := if 32 ≤ pos then 0 else min len (32 - pos)

/-- Bits [hi:lo] of MOD. -/
def modBits (m : BitVec 12) (hi lo : Nat) : Nat := m.toNat / 2 ^ lo % 2 ^ (hi + 1 - lo)

/-- The 16-bit floating format of a packed type (R36). -/
def packedFmt (ty : Nat) : FFmt := if ty = 7 then f16 else bf16

end Sys2Proof.Machine
end

