-- ==== Sys2Proof/Machine/Flags.lean ====
section
/-! DEFINITION. Predicate computations: comparison conditions (R140, R155), combination with another predicate, the carry
and borrow of R138, and the predicate tables of R142 and R146. The part keeps no other flags (R62, R65). -/

namespace Sys2Proof.Machine

/-- The integer conditions (R140). -/
def condInt (c : Nat) (a b : Int) : Bool :=
  match c with
  | 0 => a = b
  | 1 => a ≠ b
  | 2 => a < b
  | 3 => a ≤ b
  | 4 => b < a
  | _ => b ≤ a

/-- The floating conditions (R155) on the order of two values, none when either is NaN. -/
def condFloat (c : Nat) (o : Option Int) : Bool :=
  match o with
  | none => c = 1 || c = 7
  | some d =>
    match c with
    | 0 => d = 0
    | 1 => d ≠ 0
    | 2 => d < 0
    | 3 => d ≤ 0
    | 4 => 0 < d
    | 5 => 0 ≤ d
    | 6 => true
    | _ => false

/-- Combination with another predicate (R140): 0 none, 1 and, 2 or, 3 xor. -/
def combinePred (k : Nat) (t p : Bool) : Bool :=
  match k with
  | 0 => t
  | 1 => t && p
  | 2 => t || p
  | _ => t != p

/-- One bit of a three-input table (R142, R146). -/
def table3 (table : Nat) (a b c : Bool) : Bool :=
  Nat.testBit table ((if a then 4 else 0) + (if b then 2 else 0) + (if c then 1 else 0))

/-- The sum and carry out of R138. -/
def addCarry (w a b : Nat) (cin : Bool) : Nat × Bool :=
  let x := a + b + (if cin then 1 else 0)
  (x % 2 ^ w, 2 ^ w ≤ x)

/-- The difference and borrow out of R138. -/
def subBorrow (w a b : Nat) (cin : Bool) : Nat × Bool :=
  let x : Int := (a : Int) - b - (if cin then 1 else 0)
  ((x % 2 ^ w).toNat, x < 0)

/-- The limits of an element type (R137). -/
def tyLo (ty : Nat) : Int := if signedTy ty then -(2 ^ (elemWidth ty - 1)) else 0
def tyHi (ty : Nat) : Int := if signedTy ty then 2 ^ (elemWidth ty - 1) - 1 else 2 ^ elemWidth ty - 1

end Sys2Proof.Machine
end

