-- ==== Sys2Proof/Machine/Fp.lean ====
section
/-! DEFINITION. The floating-point and conversion instructions of the lane (R150 to R166). -/

namespace Sys2Proof.Machine

/-- A register as an F32 value. -/
def State.f32 (s : State) (lk : Nat) (f : BitVec 9) : FV := Sys2Proof.Machine.f32.val (s.reg1 lk f).toNat

/-- The rounding mode of MOD[1:0]. -/
def modeOf (f : FmtT) : Nat := modBits f.mod 1 0

/-- FPMODE.NSAT as it stands when the instruction issues (R69, R150). -/
def State.nsat (s : State) (lk : Nat) : Bool := (s.modeWords (groupOf lk)).1.getLsbD 0

/-- A register result given as a number. -/
def okNat (d : BitVec 9) (v : Nat) : LaneRes := okReg d (BitVec.ofNat 32 v)

def execFadd (f : FmtT) (s : State) : Res :=
  laneInstr (.fadd f) (fun s lk => okNat f.d (f32.addV (modeOf f) false (s.f32 lk f.a) (s.f32 lk f.b))) s
def execFsub (f : FmtT) (s : State) : Res :=
  laneInstr (.fsub f) (fun s lk => okNat f.d (f32.addV (modeOf f) false (s.f32 lk f.a) (s.f32 lk f.b).flip)) s
def execFmul (f : FmtT) (s : State) : Res :=
  laneInstr (.fmul f) (fun s lk => okNat f.d (f32.mulV (modeOf f) false (s.f32 lk f.a) (s.f32 lk f.b))) s
def execFfma (f : FmtT) (s : State) : Res :=
  laneInstr (.ffma f) (fun s lk => okNat f.d (f32.fmaV (modeOf f) false (s.f32 lk f.a) (s.f32 lk f.b) (s.f32 lk f.c))) s
def execFmin (f : FmtT) (s : State) : Res :=
  laneInstr (.fmin f) (fun s lk => okNat f.d (f32.minMax false (s.reg1 lk f.a).toNat (s.reg1 lk f.b).toNat)) s
def execFmax (f : FmtT) (s : State) : Res :=
  laneInstr (.fmax f) (fun s lk => okNat f.d (f32.minMax true (s.reg1 lk f.a).toNat (s.reg1 lk f.b).toNat)) s

/-- FCMP (R155). -/
def fcmpLane (f : FmtT) (s : State) (lk : Nat) : LaneRes :=
  let t := condFloat (modBits f.mod 2 0) ((s.f32 lk f.a).cmp (s.f32 lk f.b))
  okPred f.d (combinePred (modBits f.mod 5 4) t (s.pred lk (f.c.toNat % 8)))

def execFcmp (f : FmtT) (s : State) : Res := laneInstr (.fcmp f) (fcmpLane f) s

def execFclass (f : FmtT) (s : State) : Res :=
  laneInstr (.fclass f) (fun s lk => okNat f.d (2 ^ f32.classBit (s.reg1 lk f.a).toNat)) s
def execFrnd (f : FmtT) (s : State) : Res :=
  laneInstr (.frnd f) (fun s lk => okNat f.d (f32.rnd (modeOf f) (s.reg1 lk f.a).toNat)) s
def execFsqrt (f : FmtT) (s : State) : Res :=
  laneInstr (.fsqrt f) (fun s lk => okNat f.d (f32.sqrtV (modeOf f) (s.f32 lk f.a))) s
def execFdiv (f : FmtT) (s : State) : Res :=
  laneInstr (.fdiv f) (fun s lk => okNat f.d (f32.divV (modeOf f) (s.f32 lk f.a) (s.f32 lk f.b))) s

/-- What this part computes for an approximate function and an operand, before the bound is applied (log entry 6). -/
def cand (fn a : Nat) : Nat := (Config.approx fn (BitVec.ofNat 64 a)).toNat

/-- An approximate function of one register (R158). -/
def approxLane (f : FmtT) (fn : Nat) (g : Nat → Nat → Nat) (s : State) (lk : Nat) : LaneRes :=
  let a := (s.reg1 lk f.a).toNat
  okNat f.d (g (cand fn a) a)

def execFrcp (f : FmtT) (s : State) : Res := laneInstr (.frcp f) (approxLane f 0 frcp) s
def execFrsq (f : FmtT) (s : State) : Res := laneInstr (.frsq f) (approxLane f 1 frsq) s
def execFex2 (f : FmtT) (s : State) : Res := laneInstr (.fex2 f) (approxLane f 2 fex2) s
def execFlg2 (f : FmtT) (s : State) : Res := laneInstr (.flg2 f) (approxLane f 3 flg2) s
def execFtanh (f : FmtT) (s : State) : Res := laneInstr (.ftanh f) (approxLane f 4 ftanh) s

/-- FRED (R159). -/
def fredLane (f : FmtT) (s : State) (lk : Nat) : LaneRes :=
  let (r, q) := fred (s.reg1 lk f.a).toNat
  okRegs f.d (r + q * 2 ^ 32) 2

def execFred (f : FmtT) (s : State) : Res := laneInstr (.fred f) (fredLane f) s

/-- Sine and cosine of a reduced pair (R160); the candidates are functions of r and q mod 4, and FSINCOS takes the same ones as FSIN
and FCOS (log entry 6). -/
def sinOf (s : State) (lk : Nat) (a : BitVec 9) : Nat :=
  let r := (s.reg lk a 0).toNat
  let q := (s.reg lk a 1).toNat % 4
  fsinQ (cand 5 (r + q * 2 ^ 32)) r q
def cosOf (s : State) (lk : Nat) (a : BitVec 9) : Nat :=
  let r := (s.reg lk a 0).toNat
  let q := (s.reg lk a 1).toNat % 4
  fsinQ (cand 6 (r + q * 2 ^ 32)) r (q + 1)

def execFsin (f : FmtT) (s : State) : Res := laneInstr (.fsin f) (fun s lk => okNat f.d (sinOf s lk f.a)) s
def execFcos (f : FmtT) (s : State) : Res := laneInstr (.fcos f) (fun s lk => okNat f.d (cosOf s lk f.a)) s
def execFsincos (f : FmtT) (s : State) : Res :=
  laneInstr (.fsincos f) (fun s lk => okRegs f.d (sinOf s lk f.a + cosOf s lk f.a * 2 ^ 32) 2) s

/-- Two 16-bit elements computed separately (R161). -/
def packedLane (f : FmtT) (op : FFmt → Bool → Nat → Nat → Nat → Nat) (s : State) (lk : Nat) : LaneRes :=
  let a := (s.reg1 lk f.a).toNat
  let b := (s.reg1 lk f.b).toNat
  let c := (s.reg1 lk f.c).toNat
  let fm := packedFmt f.ty.toNat
  let e := fun k => op fm (s.nsat lk) (elemU 16 a k) (elemU 16 b k) (elemU 16 c k)
  okNat f.d (e 0 + e 1 * 2 ^ 16)

def execHadd2 (f : FmtT) (s : State) : Res :=
  laneInstr (.hadd2 f) (packedLane f fun m n a b _ => m.addV (modeOf f) n (m.val a) (m.val b)) s
def execHmul2 (f : FmtT) (s : State) : Res :=
  laneInstr (.hmul2 f) (packedLane f fun m n a b _ => m.mulV (modeOf f) n (m.val a) (m.val b)) s
def execHfma2 (f : FmtT) (s : State) : Res :=
  laneInstr (.hfma2 f) (packedLane f fun m n a b c => m.fmaV (modeOf f) n (m.val a) (m.val b) (m.val c)) s
def execHmnx2 (f : FmtT) (s : State) : Res :=
  laneInstr (.hmnx2 f) (packedLane f fun m _ a b _ => m.minMax (f.mod.getLsbD 2) a b) s

/-- The floating format of a lane type code. -/
def floatFmt (ty : Nat) : FFmt := if ty = 3 then f32 else packedFmt ty

/-- Whether a lane type code is floating. -/
def floatTy (ty : Nat) : Bool := ty = 3 || ty = 7 || ty = 8

/-- One element converted (R70, R163): the destination bits. -/
def cvtElem (dt st mode : Nat) (nsat : Bool) (x : Nat) : Nat :=
  let w := elemWidth dt
  if floatTy st then
    let v := (floatFmt st).val x
    if floatTy dt then (floatFmt dt).ofV mode (nsat && dt ≠ 3) v
    else (v.toInt mode (tyLo dt) (tyHi dt) % 2 ^ w).toNat
  else
    let n : Int := if signedTy st then toSigned (elemWidth st) x else x
    (floatFmt dt).ofInt mode (nsat && dt ≠ 3) n

/-- CVT (R163). -/
def cvtLane (f : FmtT) (s : State) (lk : Nat) : LaneRes :=
  let dt := f.ty.toNat
  let st := modBits f.mod 6 3
  let x := elemU (elemWidth st) (s.raw lk st f.a) (modBits f.mod 7 7)
  let y := cvtElem dt st (modeOf f) (s.nsat lk) x
  okTy dt f.d (if 1 < tyElems dt then setElem 16 (s.reg1 lk f.d).toNat (modBits f.mod 8 8) y else y)

def execCvt (f : FmtT) (s : State) : Res := laneInstr (.cvt f) (cvtLane f) s

/-- PACK2 (R164). -/
def pack2Lane (f : FmtT) (s : State) (lk : Nat) : LaneRes :=
  let fm := packedFmt f.ty.toNat
  okNat f.d (fm.ofV (modeOf f) (s.nsat lk) (s.f32 lk f.a) + fm.ofV (modeOf f) (s.nsat lk) (s.f32 lk f.b) * 2 ^ 16)

def execPack2 (f : FmtT) (s : State) : Res := laneInstr (.pack2 f) (pack2Lane f) s

/-- UNPACK2 (R164). -/
def unpack2Lane (f : FmtT) (s : State) (lk : Nat) : LaneRes :=
  let fm := packedFmt f.ty.toNat
  let a := (s.reg1 lk f.a).toNat
  okRegs f.d (f32.ofV 0 false (fm.val (elemU 16 a 0)) + f32.ofV 0 false (fm.val (elemU 16 a 1)) * 2 ^ 32) 2

def execUnpack2 (f : FmtT) (s : State) : Res := laneInstr (.unpack2 f) (unpack2Lane f) s

def execFaddi (f : FmtI) (s : State) : Res :=
  laneInstr (.faddi f) (fun s lk => okNat f.d (f32.addV 0 false (s.f32 lk f.a) (f32.val f.imm.toNat))) s
def execFmuli (f : FmtI) (s : State) : Res :=
  laneInstr (.fmuli f) (fun s lk => okNat f.d (f32.mulV 0 false (s.f32 lk f.a) (f32.val f.imm.toNat))) s

/-- Element width, range and canonical NaN of a residue format: TRI16 or TRI8 (R71). -/
def triWidth (t16 : Bool) : Nat := if t16 then 16 else 8
def triLo (t16 : Bool) : Int := if t16 then -31248 else -84
def triHi (t16 : Bool) : Int := if t16 then 31247 else 83
def triNan (t16 : Bool) : Nat := if t16 then 0xFFFF else 0xFF
def triEnc (t16 : Bool) (x : Int) : Nat := if t16 then tri16Enc x else tri8Enc x
/-- The value of a residue pattern, none for NaN (R71, R72). -/
def triVal (t16 : Bool) (b : Nat) : Option Int :=
  if t16 then (if tri16Nan b then none else some (tri16Val b)) else if tri8Nan b then none else some (tri8Val b)

/-- A value divided by 2^k. -/
def FV.scale (x : FV) (k : Int) : FV :=
  match x with
  | .fin n m e => .fin n m (e - k)
  | x => x

/-- F32 to a residue format with an E8 exponent (R165); e = 127 is the scale 1. -/
def triOfF32 (t16 : Bool) (mode e : Nat) (x : FV) : Nat :=
  match x with
  | .fin .. => if e = 255 then triNan t16 else triEnc t16 ((x.scale ((e : Int) - 127)).toInt mode (triLo t16) (triHi t16))
  | _ => triNan t16

/-- A residue format to F32 with an E8 exponent (R165). -/
def triToF32 (t16 : Bool) (mode e b : Nat) : Nat :=
  match triVal t16 b with
  | none => f32.nan
  | some x => if e = 255 then f32.nan else f32.round mode false (x < 0) x.natAbs ((e : Int) - 127)

/-- Between the residue formats (R70). -/
def triToTri (from16 : Bool) (b : Nat) : Nat :=
  match triVal from16 b with
  | none => triNan (!from16)
  | some x => triEnc (!from16) (sat (triLo (!from16)) (triHi (!from16)) x)

/-- TRICV (R165). -/
def tricvLane (f : FmtT) (s : State) (lk : Nat) : LaneRes :=
  let dir := modBits f.mod 4 2
  let se := modBits f.mod 7 6
  let de := modBits f.mod 9 8
  let e := if f.mod.getLsbD 5 then (s.reg1 lk f.b).toNat % 256 else 127
  let a := (s.reg1 lk f.a).toNat
  let d := (s.reg1 lk f.d).toNat
  match dir with
  | 0 => okNat f.d (setElem 8 d de (triOfF32 false (modeOf f) e (f32.val a)))
  | 1 => okNat f.d (setElem 16 d de (triOfF32 true (modeOf f) e (f32.val a)))
  | 2 => okNat f.d (triToF32 false (modeOf f) e (elemU 8 a se))
  | 3 => okNat f.d (triToF32 true (modeOf f) e (elemU 16 a se))
  | 4 => okNat f.d (setElem 16 d de (triToTri false (elemU 8 a se)))
  | _ => okNat f.d (setElem 8 d de (triToTri true (elemU 16 a se)))

def execTricv (f : FmtT) (s : State) : Res := laneInstr (.tricv f) (tricvLane f) s

/-- FDOT2 (R162). -/
def fdot2Lane (f : FmtT) (s : State) (lk : Nat) : LaneRes :=
  let fm := packedFmt f.ty.toNat
  let a := (s.reg1 lk f.a).toNat
  let b := (s.reg1 lk f.b).toNat
  let c := (s.reg1 lk f.c).toNat
  let p := fun k => (fm.val (elemU 16 a k)).mul (fm.val (elemU 16 b k))
  if f.mod.getLsbD 2 then okNat f.d (fm.sumV (modeOf f) (s.nsat lk) [fm.val (elemU 16 c 0), p 0, p 1])
  else okNat f.d (f32.sumV (modeOf f) false [f32.val c, p 0, p 1])

def execFdot2 (f : FmtT) (s : State) : Res := laneInstr (.fdot2 f) (fdot2Lane f) s

end Sys2Proof.Machine
end

