-- ==== Sys2Proof/Machine/Due.lean ====
section
/-! DEFINITION. The steps that fall due inside the device: event rows that no outside party brings about. Each is named as its
constructor of Instr is; Machine/Issue.lean runs each by the same meaning that exec gives that constructor. -/

namespace Sys2Proof.Machine

/-- A step that is due. -/
inductive Due where
  | waitaTimeout (lane : Nat)
  | waitaHostPoll (lane : Nat)
  | laneWake (lane : Nat)
  | loadReturn (acc : Nat)
  | fenceComplete (fence : Nat)
  | mmaRoundComplete (team cv : Nat)
  | mmaComplete (core : Nat)
  | wloadComplete (load : Nat)
  | treeldComplete (team : Nat)
  | engineCommandStart (core : Nat)
  | cmdCopy (cmd : Nat)
  | cmdTcopy (cmd : Nat)
  | cmdTcopyp (cmd : Nat)
  | cmdFill (cmd : Nat)
  | cmdAllreduce (cmd : Nat)
  | cmdReducescatter (cmd : Nat)
  | cmdAllgather (cmd : Nat)
  | cmdBroadcast (cmd : Nat)
  | xpullRecordRead (cmd : Nat)
  | engineCommandEnd (cmd : Nat)
  | regacqGrant (ctx core : Nat)
  | clauseVote (core islot : Nat)
  | groupPromotion (core gslot : Nat)
  | regroupShuffleStart (team : Nat)
  | regroupPass (team : Nat)
  | teamPlacement (ctx : Nat)
  | launchLevelAge (launch : Nat)
  | teamRetire (team : Nat)
  | multiArmedTimeout (launch : Nat)
  | contextResetDone (ctx : Nat)
  | drainDeadline (ctx core : Nat)
  | tokenRefill
  | portRequestSend (core ctx : Nat)
  | sharedCounterUpdate
  | governorStep (die : Nat)
  | syncNotice
  | homeSliceAtomic (acc : Nat)
  | promotionAck (granule : Nat)
  | oflRelease (held : Nat)
  | hostAccessTimeout (acc : Nat)
  | sweepAck (core : Nat)
  | coreSweep (core : Nat)
  | sweepPassComplete
  | scrubSubframe (frame : Nat)
  | leaseAcceptTimeout (record : Nat)
  | leaseTerm (record : Nat)
  | leaseDrainDone (record : Nat)
  | leaseCopyDone (record : Nat)
  | leaseDeadline (record : Nat)
  | ackTimeout (port : Nat)
  | replayLimit (port : Nat)
  | linkRekey (port : Nat)
  | peerUnreachable (peer : Nat)
  | sealingKeyAgree (peer : Nat)
  | chairliftProbe (queue : Nat)
  | modulePowerDown
  | flitSlot (port : Nat)
  | reeveAnswer (job : Nat)
  deriving DecidableEq, Repr

end Sys2Proof.Machine
end

