-- ==== Sys2Proof/Machine/Cache.lean ====
section
/-! DEFINITION. Memory behind the gate and the L1 before it: granules with tag and poison (R107, R108, R377), the lines and
sectors of L1 (R260 to R264), release notices, records and promotion (R240 to R242), the sweep filters (R119, R121), the
memory-side cache (R8, R385, R386, R395), and the requests and tokens of the network port (R265, R352). -/

namespace Sys2Proof.Machine

/-! ## The memory-side cache as a table (R8, R386) -/

/-- The set of the memory-side cache that a line belongs to: its slice holds 16,384 sets of 16 ways, and an address takes them
in turn (log entry 82). -/
def mscSet (a : Nat) : Nat := stackOf a * 16384 + stackAddr a / 128 % 16384

def MGran.empty : MGran := ⟨false, false, 0, false, none⟩

/-- A line of the memory-side cache, by the address where it lies. -/
def mscGet (t : Tbl (List MLine)) (a : Nat) : Option MLine := (t.getD (mscSet a) []).find? fun l => l.line = a / 128

/-- A line that is held changed. -/
def mscMod (t : Tbl (List MLine)) (a : Nat) (f : MLine → MLine) : Tbl (List MLine) :=
  match t.get? (mscSet a) with
  | some ls => t.set (mscSet a) (ls.map fun l => if l.line = a / 128 then f l else l)
  | none => t

/-- Bytes of a granule of this device's memory have been written: where its line is held, they are dirty there (R386). -/
def mscMark (t : Tbl (List MLine)) (a : Nat) (m : BitVec 16) (tag : Bool) : Tbl (List MLine) :=
  mscMod t a fun l => { l with
    grans := l.grans.set (a / 16 % 8) ⟨true, tag, (l.grans.getD (a / 16 % 8) MGran.empty).dirty ||| m, false, none⟩ }

/-! ## Granules -/

/-- The bytes `o` to `o + n − 1` of a granule as a mask. -/
def byteMask (o n : Nat) : BitVec 16 := BitVec.ofNat 16 ((2 ^ n - 1) * 2 ^ o)

/-- The bytes of a mask taken from `new`, the others from `old`. -/
def mergeQuad (m : BitVec 16) (new old : Quad) : Quad :=
  BitVec.ofNat 128 (bytesNat ((List.range 16).map fun i =>
    if m.getLsbD i then new.extractLsb' (8 * i) 8 else old.extractLsb' (8 * i) 8))

/-- Bytes `o` to `o + n − 1` of a granule, moved down to byte 0. -/
def quadBytes (q : Quad) (o n : Nat) : Quad := BitVec.ofNat 128 (q.toNat / 2 ^ (8 * o) % 2 ^ (8 * n))

/-- A value moved up to byte `o` of a granule. -/
def quadAt (v : Quad) (o : Nat) : Quad := v <<< (8 * o)

/-- STATE of the frame of an address (0 where it has none). -/
def State.stateAt (s : State) (a : Nat) : Nat :=
  match frameOf a with | some g => Fst.state (frameEntry s.frames (liveFrame s.frames g)) | none => 0

def State.granData (s : State) (p : Nat) : Quad := BitVec.ofNat 128 (s.mem.nat (p / 16 * 16) 16)
def State.granTag (s : State) (p : Nat) : Bool := s.tags.contains (p / 16)
def State.granPoison (s : State) (p : Nat) : Bool := s.poison.contains (p / 16)

/-- TAGSUM set on the first tagged write into a frame (R107). -/
def State.markTag (s : State) (p : Nat) (tag : Bool) : State :=
  match (if tag then frameOf p else none) with
  | some g =>
    let e := frameEntry s.frames g
    if Fst.tagsum e then s else { s with frames := s.frames.set g (e ||| 0x10000) }
  | none => s

/-- Bytes of a granule stored where it lies: its tag becomes `tag`, which only a whole store may set; a whole store decides
its poison, a partial one keeps it (R108, R377). -/
def State.granStore (s : State) (p : Nat) (q : Quad) (m : BitVec 16) (tag poison : Bool) : State :=
  if m = 0 then s
  else
    let whole := m == 0xFFFF
    let base := p / 16 * 16
    let data := mergeQuad m q (s.granData p)
    let s1 := { s with
      mem := s.mem.setBytes base (natBytes 16 data.toNat)
      msc := mscMark s.msc base m (whole && tag)
      tags := putNat s.tags (p / 16) (whole && tag)
      poison := putNat s.poison (p / 16) (poison || (!whole && s.granPoison p)) }
    s1.markTag base (whole && tag)

/-- A range split where granules of 16 bytes end; the first number bounds the pieces. -/
def splitRange : Nat → Nat → Nat → List (Nat × Nat)
  | 0, _, _ => []
  | k + 1, a, n =>
    if n = 0 then []
    else
      let m := min n (16 - a % 16)
      (a, m) :: splitRange k (a + m) (n - m)

/-- The pieces of a range: address and length. -/
def granRange (a n : Nat) : List (Nat × Nat) := splitRange (n / 16 + 2) a n

/-- Bytes stored piece by piece. -/
def State.storePieces (s : State) : List (Nat × Nat) → List Byte → State
  | [], _ => s
  | (p, n) :: ps, bs =>
    State.storePieces
      (s.granStore p (quadAt (BitVec.ofNat 128 (bytesNat (bs.take n))) (p % 16)) (byteMask (p % 16) n) false false) ps
      (bs.drop n)

/-- A data store of bytes to memory or a pad, granule by granule: tags are cleared (R108). -/
def State.storeBytes (s : State) (p : Nat) (bs : List Byte) : State := s.storePieces (granRange p bs.length) bs

/-! ## Sweep filters (R119, R121) -/

/-- Whether a tagged capability is revoked by the pass in progress. -/
def State.revoked (s : State) (q : Quad) : Bool :=
  match s.pass with
  | none => false
  | some p =>
    let c := Cap.ofQuad q
    c.kind ≠ Kind.remote && c.colour ≠ 0 && 0 ≤ c.base &&
      (match frameOf c.base.toNat with | some g => p.set.contains g | none => false)

/-- A tag after a filter. -/
def State.filtered (s : State) (q : Quad) (tag : Bool) : Bool := tag && !s.revoked q

/-! ## The memory-side cache (R8, R261, R385, R386) -/

def State.mscLine (s : State) (a : Nat) : Option MLine := mscGet s.msc a

/-- A line's address where it lies now is held in the memory-side cache. -/
def State.mscHas (s : State) (a : Nat) : Bool := (s.mscLine a).isSome

/-- A granule that a line of the borrowed window holds. -/
def State.sliceGran (s : State) (a : Nat) : MGran :=
  match s.mscLine a with | some l => l.grans.getD (a / 16 % 8) MGran.empty | none => MGran.empty

/-- Bytes of a granule are there. -/
def MGran.covers (g : MGran) (m : BitVec 16) : Bool := g.valid || (m &&& ~~~g.dirty) == 0

/-- A line of the borrowed window. -/
def MLine.borrowed (l : MLine) : Bool := regionOf (128 * l.line) = .borrowed

/-- A line holds a dirty byte. -/
def MLine.dirty (l : MLine) : Bool := l.grans.any fun p => p.2.dirty ≠ 0

/-- A line after its write-back. -/
def MLine.cleaned (l : MLine) : MLine :=
  let gs : Tbl MGran := l.grans.map fun p => (p.1, { p.2 with valid := p.2.valid || p.2.full, dirty := 0, full := false })
  { l with grans := gs.filter fun p => p.2.valid && p.2.own.isSome }

/-- A request for a line of the borrowed window is on its way to the lender. -/
def State.sliceBusy (s : State) (a : Nat) : Bool :=
  s.outst.any fun p => p.2.peer.isNone && p.2.addr / 128 = a / 128 &&
    (match p.2.place with | .remote _ _ => true | _ => false)

/-- The request of this device's slice to a lender for bytes of a BORROWED or DRAINING frame (R385, R415): GRANT carries the lease ID
(log entry 21). -/
def sliceMsg (a : Nat) (e : DWord) : FabMsg :=
  { FabMsg.zero with
    dst := Fst.arg e / 2 ^ 22
    grant := Fst.lease e
    colour := Fst.colour e
    op := 6
    path := pathLabel a
    addr := BitVec.ofNat 54 (Fst.arg e % 2 ^ 19 * 0x200000 + a % 0x200000) }

/-- An access that only the part itself has made: it belongs to no thread, and nothing waits for what it reads. -/
def Acc.posted (a n num now : Nat) (peer : Nat × Nat) (lender : Nat) : Acc :=
  { kind := .store, place := .remote peer.1 peer.2, team := 0, tid := 0, core := 2048, ctx := 1024, colour := 0, addr := a, size := n,
    ty := 6, aop := 0, ord := 0, scope := 0, cl := 3, val := 0, cmp := 0, tag := false, poison := false, d := none, dk := 0,
    caps := false, ldc := false, cache := false, ofl := false, peer := none, since := now, batch := num, req := 0, fenced := false,
    passed := some (.lender peer.1 lender), site := none }

/-- The runs of set bits of a mask: first bit and length; the first number bounds them. -/
def maskRuns : Nat → Nat → BitVec 16 → List (Nat × Nat)
  | 0, _, _ => []
  | k + 1, i, m =>
    if 16 ≤ i then []
    else if !m.getLsbD i then maskRuns k (i + 1) m
    else
      let n := ((List.range (16 - i)).takeWhile fun j => m.getLsbD (i + j)).length
      (i, n) :: maskRuns k (i + n) m

/-- What a dirty granule sends to the lender: a whole store in one piece with its tag, else the runs of its dirty bytes, of which
none covers the granule. -/
def MGran.runs (g : MGran) : List (Nat × Nat) :=
  if g.full && g.dirty == 0xFFFF then [(0, 16)]
  else if g.dirty == 0xFFFF then [(0, 8), (8, 8)]
  else maskRuns 16 0 g.dirty

/-- Dirty bytes of a granule of the borrowed window sent to the lender; the answer is awaited by what comes after (R385, R398). -/
def State.writeBackGran (s : State) (a : Nat) (g : MGran) : State :=
  match frameOf a, g.own with
  | some f, some (q, bad) =>
    let e := frameEntry s.frames f
    if Fst.state e ≠ Fst.borrowed && Fst.state e ≠ Fst.draining then s
    else
      g.runs.foldl (fun s r =>
        let m := { sliceMsg (a + r.1) e with
          sub := 1, data := natBytes r.2 (quadBytes q r.1 r.2).toNat, len := r.2, ty := 6,
          tags := [r.2 = 16 && g.tag], poison := [bad] }
        let (n, s1) := s.takeNum
        let (s2, rn) := s1.sendRequest m
        { s2 with outst := s2.outst.set n (Acc.posted (a + r.1) r.2 n s.now (m.dst, rn) m.addr.toNat) }) s
  | _, _ => s

/-- The dirty bytes of a line written back: to the lender, or, for a line of this device's memory, to the stack beneath its slice,
which changes nothing that memory reads as. -/
def State.writeBackLine (s : State) (l : MLine) : State :=
  l.grans.foldl (fun s p => if p.2.dirty = 0 then s else s.writeBackGran (128 * l.line + 16 * p.1) p.2) s

/-- A line written back and dropped. -/
def State.mscFlush (s : State) (a : Nat) : State :=
  match s.mscLine a with
  | some l =>
    let s1 := s.writeBackLine l
    { s1 with msc := s1.msc.modify (mscSet a) fun ls => ls.filter fun l => l.line ≠ a / 128 }
  | none => s

/-- The lines of a set that may leave it: those for which no request is on its way. -/
def State.mscVictims (s : State) (a : Nat) : List MLine := (s.msc.getD (mscSet a) []).filter fun l => !s.sliceBusy (128 * l.line)

/-- A line can be put into its set. -/
def State.mscRoom (s : State) (a : Nat) : Bool := (s.msc.getD (mscSet a) []).length < 16 || !(s.mscVictims a).isEmpty

/-- A line brought into the memory-side cache; which of sixteen then leaves its set, after its write-back, is free (log entry 82). -/
def State.mscFill (s : State) (a : Nat) : State :=
  if s.mscHas a || !s.mscRoom a then s
  else
    let vs := s.mscVictims a
    let s1 :=
      if (s.msc.getD (mscSet a) []).length < 16 then s
      else match vs[Config.pick s.tick % vs.length]? with | some l => s.mscFlush (128 * l.line) | none => s
    { s1 with msc := s1.msc.set (mscSet a) (s1.msc.getD (mscSet a) [] ++ [⟨a / 128, 0, []⟩]) }

/-- The lines of a range of addresses dropped from the memory-side cache (R382). -/
def State.mscDrop (s : State) (lo hi : Nat) : State :=
  { s with msc := (s.msc.map fun p => (p.1, p.2.filter fun l => l.line * 128 < lo || hi ≤ l.line * 128)).filter fun p => !p.2.isEmpty }

/-- Dirty lines of the borrowed window in the slice of an address. -/
def State.dirtyBorrowed (s : State) (a : Nat) : List MLine :=
  (s.msc.filter fun p => p.1 / 16384 = stackOf a).flatMap fun p => p.2.filter fun l => l.borrowed && l.dirty

/-- Room for one more dirty line of the borrowed window: of 4,096 in a slice the oldest is written back first (R395). -/
def State.mscLimit (s : State) (a : Nat) : State :=
  let ls := s.dirtyBorrowed a
  if ls.length < 4096 || ls.any (fun l => l.line = a / 128) then s
  else match minBy (fun l => l.since) ls with
    | some l => let s1 := s.writeBackLine l; { s1 with msc := mscMod s1.msc (128 * l.line) MLine.cleaned }
    | none => s

/-- Bytes of a granule written into a line of the borrowed window that is held. -/
def State.sliceStore (s : State) (a n : Nat) (val : Quad) (tag poison : Bool) : State :=
  let s1 := s.mscLimit a
  let m := byteMask (a % 16) n
  let whole := m == 0xFFFF
  let put := fun (l : MLine) =>
    let g := l.grans.getD (a / 16 % 8) MGran.empty
    let (old, bad) := g.own.getD (0, false)
    let y : MGran :=
      { valid := g.valid
        tag := whole && tag
        dirty := g.dirty ||| m
        full := g.full || whole
        own := some (mergeQuad m (quadAt val (a % 16)) old, poison || (!whole && bad)) }
    { l with grans := l.grans.set (a / 16 % 8) y, since := if l.dirty then l.since else s.tick }
  let s2 := { s1 with msc := mscMod s1.msc a put }
  s2.markTag a (whole && tag)

/-- The granules of a line of the borrowed window as the lender has sent them, put under the dirty bytes of the line that waits for
them; their tags pass the filter (R121, R385). -/
def State.sliceFill (s : State) (a : Nat) (data : List Byte) (tags poison : List Bool) : State :=
  let put := fun (l : MLine) =>
    { l with grans := (List.range 8).foldl (fun t k =>
        let g := t.getD k MGran.empty
        let q : Quad := BitVec.ofNat 128 (bytesNat ((data.drop (16 * k)).take 16))
        if g.valid then t
        else
          let (old, bad) := g.own.getD (0, false)
          t.set k { g with
            valid := true
            tag := if g.dirty = 0 then s.filtered q (tags.getD k false) else g.tag
            own := some (mergeQuad g.dirty old q, if g.full then bad else bad || poison.getD k false) }) l.grans }
  { s with msc := mscMod s.msc a put }

/-- A granule that the slice holds of the borrowed window is poisoned, with its tag clear (R377). -/
def State.sliceSpoil (s : State) (a : Nat) : State :=
  let put := fun (l : MLine) =>
    { l with grans := l.grans.modify (a / 16 % 8) fun g => { g with tag := false, own := g.own.map fun q => (q.1, true) } }
  { s with msc := mscMod s.msc a put }

/-- What bytes of a granule of the borrowed window read as in the slice, where it holds them. -/
def State.sliceRead (s : State) (a n : Nat) : Option AccVal :=
  let g := s.sliceGran a
  if g.covers (byteMask (a % 16) n) then g.own.map fun q => ⟨quadBytes q.1 (a % 16) n, g.tag, q.2⟩ else none

/-- Dirty bytes that the slice holds laid over what a lender has answered. -/
def State.sliceOver (s : State) (a n : Nat) (v : AccVal) : AccVal :=
  let g := s.sliceGran a
  match g.own with
  | some (q, bad) =>
    if regionOf a = .borrowed && g.dirty ≠ 0 then
      ⟨quadBytes (mergeQuad g.dirty q (quadAt v.val (a % 16))) (a % 16) n, g.tag, bad || (!g.full && v.poison)⟩
    else v
  | none => v

/-! ## The network port (R265, R352) -/

/-- A bucket with nothing in it. -/
def Bucket.empty : Bucket := ⟨0, none, 0, 0, 0, false⟩

def State.bucket (s : State) (c core : Nat) : Bucket := (s.ctx c).buckets.getD core Bucket.empty
def State.modBucket (s : State) (c core : Nat) (f : Bucket → Bucket) : State :=
  s.modCtx c fun x => { x with buckets := x.buckets.set core (f (x.buckets.getD core Bucket.empty)) }

/-- Tokens that a request costs (R352). -/
def Req.cost (r : Req) : Nat := (r.bytes + 63) / 64

/-- A request of a context waits at a core's port. -/
def State.portWaits (s : State) (c core : Nat) : Bool :=
  s.reqs.any fun p => p.2.ctx = c && p.2.core = core && p.2.sent.isNone

/-- The bucket holds a request's cost. -/
def State.canPay (s : State) (r : Req) : Bool :=
  let b := s.bucket r.ctx r.core
  r.cost ≤ b.own + b.bonus

/-- Tokens taken: BONUS before OWN (R352). -/
def Bucket.pay (b : Bucket) (cost : Nat) : Bucket :=
  { b with bonus := b.bonus - cost, own := b.own - (cost - b.bonus), used := b.used + (cost - b.bonus) }

/-- A hit in the memory-side cache is measured for the die of its slice (R426), whoever asks. -/
def State.mscHit (s : State) (a : Nat) : State := if s.mscHas a then s.measure (stackOf a / 2) 5 1 else s

/-- The line of an instruction brought into a core's instruction cache; where the memory-side cache holds it, that is a hit there
(R426). -/
def State.fetchFill (s : State) (core pc : Nat) : State :=
  if (s.icacheWord core pc).isSome then s else (s.icacheFill core pc).mscHit (s.homeAddr pc)

/-- A request meets the memory-side cache: a hit or a miss of its context, and a line of this device's memory brought in where it may
be (R261, R357, R385, R386, R426). Peers and the host have no line there; a line of the borrowed window comes from its lender. -/
def State.mscMeet (s : State) (r : Req) : State :=
  let a := s.homeAddr r.addr
  let cached := !r.peer && (regionOf a = .local || regionOf a = .borrowed)
  let nocache := match frameOf a with | some g => Fst.nocache (frameEntry s.frames g) | none => true
  if !cached then s
  else if s.mscHas a then (s.count r.ctx r.core 0x12 1).mscHit a
  else
    let s1 := s.count r.ctx r.core 0x13 1
    if r.alloc && !nocache && regionOf a = .local then s1.mscFill a else s1

/-- A request leaves the port: it pays, and is counted (R352, R357, R426). -/
def State.sendReq (s : State) (n : Nat) (r : Req) : State :=
  let b := s.bucket r.ctx r.core
  let own := r.cost - b.bonus
  let s1 := (((s.count r.ctx r.core 2 1).count r.ctx r.core 3 r.bytes).count r.ctx r.core 4 own).count r.ctx r.core 0x10 (r.cost - own)
  let s2 := (s1.modBucket r.ctx r.core fun b => b.pay r.cost).measure (r.core / 256) 4 1
  ({ s2 with reqs := s2.reqs.set n { r with sent := some s2.now } }).mscMeet r

/-- A request admitted (R352): it leaves at once, or waits for tokens behind those admitted before it, and its context is then
throttled (R353). -/
def State.enter (s : State) (r : Req) : State × Nat :=
  let (n, s1) := s.takeNum
  let s2 := { s1 with reqs := s1.reqs.set n r }
  if !s.portWaits r.ctx r.core && s.canPay r then (s2.sendReq n r, n)
  else (s2.modBucket r.ctx r.core fun b => { b with throttled := true }, n)

/-- A request that nothing waits for: a write-back, or the poll of a WAITA. -/
def State.post1 (s : State) (c core a bytes : Nat) (alloc : Bool) : State :=
  (s.enter ⟨core, c, false, a, bytes, alloc, .posted, none⟩).1

/-- A request has left the port; an access without one, numbered 0, has nothing to wait for. -/
def State.reqSent (s : State) (n : Nat) : Bool :=
  n = 0 || (match s.reqs.get? n with | some r => r.sent.isSome | none => true)

/-- A request whose answer has come: its entry is freed and its time counted (R265, R357). -/
def State.freeReq (s : State) (n : Nat) (r : Req) : State :=
  ({ s with reqs := s.reqs.erase n }).count r.ctx r.core 0x14 (s.now - r.sent.getD s.now)

/-- A request of the coalescer's. -/
def Req.ofLanes (r : Req) : Bool := match r.user with | .lanes | .fill _ _ _ => true | _ => false

/-- Requests of a core in its table of 1,536 (R265). -/
def State.tableUsed (s : State) (core : Nat) : Nat :=
  (s.reqs.filter fun p => p.2.core = core && p.2.ofLanes).length

/-- The smallest aligned block of 16 to 128 bytes that covers a range of one line (R265). -/
def blockSize (lo hi : Nat) : Nat :=
  if lo / 16 = hi / 16 then 16 else if lo / 32 = hi / 32 then 32 else if lo / 64 = hi / 64 then 64 else 128

/-- Ranges (line, first byte, last byte) joined by line. -/
def joinRange (x : Nat × Nat × Nat) : List (Nat × Nat × Nat) → List (Nat × Nat × Nat)
  | [] => [x]
  | y :: ys => if y.1 = x.1 then (y.1, min y.2.1 x.2.1, max y.2.2 x.2.2) :: ys else y :: joinRange x ys

/-- The blocks of some ranges, by line (R265): line and bytes. -/
def coalesce (rs : List (Nat × Nat × Nat)) : List (Nat × Nat) :=
  (rs.foldl (fun l x => joinRange x l) []).map fun y => (y.1, blockSize y.2.1 y.2.2)

/-! ## L1 lines -/

/-- The L1 a core uses for a context: its own, or its cluster's when fused (R264). -/
def State.unitOf (s : State) (c core : Nat) : Nat :=
  if (s.ctx c).fused.contains (core / 8) then 2048 + core / 8 else core

/-- The core whose slice holds a line (R264). -/
def sliceCore (unit line : Nat) : Nat :=
  if unit < 2048 then unit else (unit - 2048) * 8 + (line % 8 ^^^ line / 8 % 8)

/-- The set of a line (R260, R264). -/
def lineSet (unit line : Nat) : Nat := if unit < 2048 then line % 64 else line / 8 % 64

def Sector.empty : Sector := ⟨0, false, false, false, 0, false⟩

def Line.is (l : Line) (u c line : Nat) : Bool := l.unit = u && l.ctx = c && l.line = line

def State.lineAt (s : State) (u c line : Nat) : Option Line := s.l1.find? fun l => l.is u c line

/-- The sector of a granule in an L1; empty where it is not held. -/
def State.sectorAt (s : State) (u c g : Nat) : Sector :=
  match s.lineAt u c (g / 8) with | some l => l.sectors.getD (g % 8) Sector.empty | none => Sector.empty

/-- A held line changed. -/
def State.modLine (s : State) (u c line : Nat) (f : Line → Line) : State :=
  { s with l1 := s.l1.map fun l => if l.is u c line then f l else l }

/-- A sector put into its line, or taken out when it holds nothing. -/
def Line.put (l : Line) (k : Nat) (x : Sector) : Line :=
  { l with sectors := if x.valid || x.dirty ≠ 0 then l.sectors.set k x else l.sectors.erase k }

def State.putSector (s : State) (u c g : Nat) (x : Sector) : State := s.modLine u c (g / 8) fun l => l.put (g % 8) x

/-- A line taken out of an L1. -/
def State.dropLine (s : State) (u c line : Nat) : State := { s with l1 := s.l1.filter fun l => !l.is u c line }

/-- The dirty bytes of a sector merged at home (R260). The granule there stays poisoned unless a store of all of it is among them
(R377). -/
def State.flushSector (s : State) (g : Nat) (x : Sector) : State :=
  let p := s.homeAddr (16 * g)
  s.granStore p x.data x.dirty x.tag (x.poison || (!x.full && s.granPoison p))

/-- A sector after its write-back: clean, and kept only where its other bytes were valid or a store of all of it was among the dirty
ones. -/
def Sector.cleaned (x : Sector) : Sector := { x with valid := x.valid || x.full, dirty := 0, full := false }

/-- A sector whose clean bytes are dropped. -/
def Sector.onlyDirty (x : Sector) : Sector := { x with valid := false }

/-- The block that covers the dirty bytes of a line, or 0 where none is dirty. -/
def Line.dirtyBlock (l : Line) : Nat :=
  let ks := (l.sectors.filter fun p => p.2.dirty ≠ 0).map Prod.fst
  match ks with
  | [] => 0
  | k :: _ => blockSize (16 * ks.foldl min k) (16 * ks.foldl max k)

/-- The dirty bytes of a line written back. The request that carries them takes its tokens at the port (R352); the bytes stand at
home at once (log entry 82). -/
def State.flushLine (s : State) (l : Line) : State :=
  let n := l.dirtyBlock
  let s1 := if n = 0 then s else s.post1 l.ctx (sliceCore l.unit l.line) (128 * l.line) n true
  l.sectors.foldl (fun s p => s.flushSector (l.line * 8 + p.1) p.2) s1

/-- The sectors of a line changed, those with nothing left taken out. -/
def Line.mapSectors (l : Line) (f : Sector → Sector) : Line :=
  { l with sectors := (l.sectors.map fun p => (p.1, f p.2)).filter fun p => p.2.valid || p.2.dirty ≠ 0 }

/-- Lines without sectors taken out. -/
def tidyLines (ls : List Line) : List Line := ls.filter fun l => !l.sectors.isEmpty

/-- Every dirty sector of a context in an L1 written back (R240, R242, R263). -/
def State.flushAll (s : State) (u c : Nat) : State :=
  let mine := s.l1.filter fun l => l.unit = u && l.ctx = c
  let s1 := mine.foldl (fun s l => s.flushLine l) s
  { s1 with l1 := tidyLines (s1.l1.map fun l => if l.unit = u && l.ctx = c then l.mapSectors Sector.cleaned else l) }

/-- The clean lines of a context in an L1 dropped by an acquire (R242). A line with dirty bytes keeps those bytes; its clean
bytes go too, so that later loads read what happens before them (log entry 20). -/
def State.discardClean (s : State) (u c : Nat) : State :=
  { s with l1 := tidyLines (s.l1.map fun l =>
      if l.unit = u && l.ctx = c then l.mapSectors Sector.onlyDirty else l) }

/-- The clean copy of a granule in an L1 dropped (R242, R246; log entry 20). -/
def State.dropClean (s : State) (u c g : Nat) : State :=
  let s1 := s.putSector u c g (s.sectorAt u c g).onlyDirty
  { s1 with l1 := tidyLines s1.l1 }

/-- A line holds a dirty byte. -/
def Line.dirty (l : Line) : Bool := l.sectors.any fun p => p.2.dirty ≠ 0

/-- A line is dirty in an L1 (R261). -/
def State.lineDirty (s : State) (u c line : Nat) : Bool :=
  match s.lineAt u c line with | some l => l.dirty | none => false

/-- The clean bytes of lines that an L1 has held for as long as it may are dropped, so that a store elsewhere is seen in finite
time (R244; log entry 81). -/
def State.expireLines (s : State) : State :=
  if s.l1.any fun l => l.born + Config.cleanLife < s.now then
    { s with l1 := tidyLines (s.l1.map fun l =>
        if l.born + Config.cleanLife < s.now then l.mapSectors Sector.onlyDirty else l) }
  else s

/-! ## Records and promotion (R241, R242) -/

/-- The owner of a record promoted: its dirty sectors are written back and the record removed. -/
def State.promote (s : State) (r : SyncRec) : State :=
  let s1 := s.flushAll r.unit r.ctx
  { s1 with sync := s1.sync.filter fun (x : SyncRec) => x.granule ≠ r.granule }

/-- The record of a granule. -/
def State.recordOf (s : State) (g : Nat) : Option SyncRec := s.sync.find? fun (r : SyncRec) => r.granule = g

/-- A granule's owner promoted at once, for a unit that waits for it within one step (R242). -/
def State.promoteNow (s : State) (g : Nat) : State :=
  let own := s.notices.filter fun (r : SyncRec) => r.granule = g
  let s1 := match s.recordOf g with | some r => s.promote r | none => s
  own.foldl (fun s (r : SyncRec) => s.flushAll r.unit r.ctx) s1

/-- A notice recorded as the newest (R241). Records stand oldest first. -/
def State.recordNotice (s : State) (r : SyncRec) : State :=
  let s1 := match s.recordOf r.granule with
    | some o => if o = r then { s with sync := s.sync.erase o } else s.promote o
    | none =>
      let slice := s.sync.filter fun (x : SyncRec) => stackOf (x.granule * 16) = stackOf (r.granule * 16)
      if slice.length < 4096 then s else match slice with | o :: _ => s.promote o | [] => s
  { s1 with sync := s1.sync ++ [r] }

/-- Every record and notice of a context promoted or flushed (R243, R361). -/
def State.promoteCtx (s : State) (c : Nat) : State :=
  let units := ((s.sync ++ s.notices).filter fun r => r.ctx = c).map (·.unit)
  let s1 := units.foldl (fun s u => s.flushAll u c) s
  { s1 with sync := s1.sync.filter fun r => r.ctx ≠ c, notices := s1.notices.filter fun r => r.ctx ≠ c }

/-- The notices of a line's granules reach their home slices before the line's own write-back does, so that what a narrow release
wrote is never seen at home without its record (R233, R241). -/
def State.noteLine (s : State) (u c line : Nat) : State :=
  let mine := fun (r : SyncRec) => r.unit = u && r.ctx = c && r.granule / 8 = s.homeAddr (128 * line) / 128
  (s.notices.filter mine).foldl (fun s r => s.recordNotice r) { s with notices := s.notices.filter fun r => !mine r }

/-- A line of an L1 written back and dropped. -/
def State.flushDrop (s : State) (u c line : Nat) : State :=
  let s1 := s.noteLine u c line
  match s1.lineAt u c line with
  | some l => (s1.flushLine l).dropLine u c line
  | none => s1

/-- The dirty bytes of a line of an L1 written back; the line stays. -/
def State.flushKeep (s : State) (u c line : Nat) : State :=
  let s1 := s.noteLine u c line
  match s1.lineAt u c line with
  | some l => let s2 := (s1.flushLine l).modLine u c line fun l => l.mapSectors Sector.cleaned
              { s2 with l1 := tidyLines s2.l1 }
  | none => s1

/-! ## Allocation (R260 to R262) -/

/-- Ways of a context in the set of a line (R260). -/
def State.waysOf (s : State) (u c line : Nat) : Nat :=
  match (s.ctx c).alloc.get? (sliceCore u line) with | some a => a.waysM1 + 1 | none => 1

/-- Span `i` of a context on a core (R262). -/
def State.span (s : State) (c core i : Nat) : Span := (s.ctx c).spans.getD (core * 4 + i) ⟨0, 0, 0, 0, 0⟩

/-- Lines that a class of ways may hold in a set: the reserved ways of a span, or those that no span reserves. -/
def State.waysFor (s : State) (u c line sp : Nat) : Nat :=
  let core := sliceCore u line
  if sp = 0 then s.waysOf u c line - sumBy (fun i => (s.span c core i).ways) (List.range 4)
  else (s.span c core (sp - 1)).ways

/-- Lines of one class in the set of a line. -/
def State.classLines (s : State) (u c line sp : Nat) : List Line :=
  s.l1.filter fun l => l.unit = u && l.ctx = c && sliceCore u l.line = sliceCore u line &&
    lineSet u l.line = lineSet u line && l.span = sp

/-- One line of a class leaves: the next victim, or one that the part chooses (log entry 14). -/
def State.evictOne (s : State) (u c line sp : Nat) : State :=
  let ls := s.classLines u c line sp
  let pick := match ls.find? (·.victim) with
    | some l => some l
    | none => ls[Config.pick s.tick % ls.length]?
  match pick with
  | some l => s.flushDrop u c l.line
  | none => s

/-- A line allocated in a class of ways, or found; `victim` makes it the next victim of its set (R261). -/
def State.allocLine (s : State) (u c line sp : Nat) (victim : Bool) : State :=
  match s.lineAt u c line with
  | some _ => if victim then s.modLine u c line fun l => { l with victim := true } else s
  | none =>
    let n := (s.classLines u c line sp).length + 1 - max 1 (s.waysFor u c line sp)
    let s1 := (List.range n).foldl (fun s _ => s.evictOne u c line sp) s
    { s1 with l1 := ⟨u, c, line, sp, s1.now, victim, []⟩ :: s1.l1 }

/-- The class of ways for a load of an address whose line is not held (R261, R262): for .retain, every 2^k-th miss of the
lowest-numbered span that covers the address takes its reserved ways, and the rest allocate as .stream. -/
def State.loadClass (s : State) (u c a cl : Nat) : State × Nat × Bool :=
  let core := sliceCore u (a / 128)
  match (if cl = 1 then (List.range 4).find? fun i => let x := s.span c core i; x.lo ≤ a && a < x.hi else none) with
  | some i =>
    let x := s.span c core i
    let s1 := s.modCtx c fun y => { y with spans := y.spans.set (core * 4 + i) { x with misses := x.misses + 1 } }
    if 0 < x.ways && (x.misses + 1) % 2 ^ x.ratio = 0 then (s1, i + 1, false) else (s1, 0, true)
  | none => (s, 0, cl = 2)

/-- A line of an L1 for a load of an address: the one held, or one allocated in its class. -/
def State.lineFor (s : State) (u c a cl : Nat) : State :=
  match s.lineAt u c (a / 128) with
  | some _ => s
  | none => let (s1, sp, vic) := s.loadClass u c a cl; s1.allocLine u c (a / 128) sp vic

/-- Whether bytes of a granule are held in an L1. -/
def Sector.covers (x : Sector) (m : BitVec 16) : Bool := x.valid || (m &&& ~~~x.dirty) == 0

/-- A sector filled from home under its dirty bytes; its tag passes the filter of the core (R121). -/
def State.filledSector (s : State) (g : Nat) (x : Sector) : Sector :=
  let p := s.homeAddr (16 * g)
  { x with
    data := mergeQuad x.dirty x.data (s.granData p)
    tag := if x.dirty = 0 then s.filtered (s.granData p) (s.granTag p) else x.tag
    poison := if x.full then x.poison else x.poison || s.granPoison p
    valid := true }

/-- A granule of an L1 reads as poisoned: it is, or bytes of it that stand at home are and no store of all of it has cleared them
(R377). -/
def State.sectorBad (s : State) (u c g : Nat) : Bool :=
  let x := s.sectorAt u c g
  x.poison || (!x.valid && !x.full && s.granPoison (s.homeAddr (16 * g)))

/-- The granule of an address brought into an L1 (R261). -/
def State.fillL1 (s : State) (u c a cl : Nat) : State :=
  let x := s.sectorAt u c (a / 16)
  if x.valid then s else (s.lineFor u c a cl).putSector u c (a / 16) (s.filledSector (a / 16) x)

/-- A store performed in L1 (R240, R260): bytes written and marked dirty with no read of the line, and a release notice
sent. -/
def State.storeL1 (s : State) (u c a n cl : Nat) (val : Quad) (tag poison : Bool) : State :=
  let g := a / 16
  let m := byteMask (a % 16) n
  let whole := m == 0xFFFF
  let x := s.sectorAt u c g
  let y : Sector :=
    { data := mergeQuad m (quadAt val (a % 16)) x.data
      tag := whole && tag
      poison := poison || (!whole && x.poison)
      valid := x.valid
      dirty := x.dirty ||| m
      full := x.full || whole }
  let s1 := (s.allocLine u c (g / 8) 0 (cl = 2)).putSector u c g y
  let s2 := s1.markTag (s1.homeAddr (16 * g)) (whole && tag)
  { s2 with notices := s2.notices ++ [⟨s2.homeAddr (16 * g) / 16, u, c⟩] }

/-- A range of local memory cleared with its tags and poison; the lines that hold it are dropped, in the instruction caches too, so that
a frame used again is fetched anew (R332). -/
def State.zeroRange (s : State) (lo n : Nat) : State :=
  let inR := fun k => lo ≤ 16 * k && 16 * k < lo + n
  { s.mscDrop lo (lo + n) with
    mem := s.mem.clear lo (lo + n)
    tags := s.tags.filter fun k => !inR k
    poison := s.poison.filter fun k => !inR k
    l1 := s.l1.filter fun l => !inR (s.homeAddr (128 * l.line) / 16)
    icache := s.icache.filter fun l => !inR (s.homeAddr (128 * l.line) / 16)
    sync := s.sync.filter fun (r : SyncRec) => !inR r.granule
    notices := s.notices.filter fun (r : SyncRec) => !inR r.granule }

end Sys2Proof.Machine
end

