-- ==== Sys2Proof/Machine/Sync.lean ====
section
/-! DEFINITION. Barrier registers and cluster barriers (R215 to R220, R224), and convergence registers (R221, R222, R225):
their updates, the wakes they make, and the instructions on them. -/

namespace Sys2Proof.Machine

/-! ## The barrier register -/

/-- The fields of a barrier register (R216). -/
structure Bar where
  (byteCnt byteExp arrCnt arrExp : Nat)
  (err phase : Bool)
  deriving DecidableEq, Repr

/-- The fields of the 128 bits (R216). -/
def Bar.ofQuad (q : Quad) : Bar :=
  ⟨(q.extractLsb' 80 40).toNat, (q.extractLsb' 40 40).toNat, (q.extractLsb' 21 13).toNat, (q.extractLsb' 8 13).toNat,
    q.getLsbD 1, q.getLsbD 0⟩

/-- The 128 bits of the fields; reserved bits are zero (R216). -/
def Bar.toQuad (b : Bar) : Quad :=
  0#8 ++ BitVec.ofNat 40 b.byteCnt ++ BitVec.ofNat 40 b.byteExp ++ 0#6 ++ BitVec.ofNat 13 b.arrCnt ++
    BitVec.ofNat 13 b.arrExp ++ 0#6 ++ BitVec.ofBool b.err ++ BitVec.ofBool b.phase

/-- The result of an update: the register, whether it overflowed, and whether the phase flipped (R217). -/
structure BarRes where
  bar : Bar
  (ovf flip : Bool)
  deriving DecidableEq, Repr

/-- The completion test that follows every update (R217). -/
def Bar.test (b : Bar) (ovf : Bool) : BarRes :=
  if b.arrCnt = b.arrExp && b.byteExp ≤ b.byteCnt && (0 < b.arrExp || 0 < b.byteExp) then
    let excess := decide (b.byteExp < b.byteCnt)
    ⟨⟨0, 0, 0, b.arrExp, b.err || ovf || excess, !b.phase⟩, ovf || excess, true⟩
  else ⟨{ b with err := b.err || ovf }, ovf, false⟩

/-- The largest byte count (R217). -/
abbrev byteMax : Nat := 2 ^ 40 - 1

/-- A thread's arrival (R217, R218). -/
def Bar.threadArrive (b : Bar) : BarRes :=
  if b.arrExp = 0 then ⟨{ b with err := true }, true, false⟩
  else { b with arrCnt := (b.arrCnt + 1) % 2 ^ 13 }.test false

/-- A thread's departure, BARV.drop (R218, R224). -/
def Bar.drop (b : Bar) : BarRes :=
  if b.arrExp = 0 then ⟨{ b with err := true }, true, false⟩
  else { b with arrExp := b.arrExp - 1 }.test false

/-- Bytes credited, with no arrival (R218). -/
def Bar.credit (b : Bar) (n : Nat) : BarRes :=
  let sum := b.byteCnt + n
  { b with byteCnt := min sum byteMax }.test (byteMax < sum)

/-- An engine command's arrival with its bytes (R218): no arrival is counted where ARR_EXP is 0. -/
def Bar.engineArrive (b : Bar) (n : Nat) : BarRes :=
  let sum := b.byteCnt + n
  { b with byteCnt := min sum byteMax, arrCnt := if b.arrExp = 0 then b.arrCnt else (b.arrCnt + 1) % 2 ^ 13 }.test
    (byteMax < sum)

/-- BEXPB (R224). -/
def Bar.expect (b : Bar) (n : Nat) : BarRes :=
  let sum := b.byteExp + n
  { b with byteExp := min sum byteMax }.test (byteMax < sum)

/-- Where a barrier register stands: a team's pad, or a cluster of a context (R215, R220). -/
inductive BarLoc where
  | team (t i : Nat)
  | cluster (c cl i : Nat)
  deriving DecidableEq, Repr

/-- The 128 bits of a barrier. -/
def State.barGet (s : State) : BarLoc → Quad
  | .team t i => s.barrier t i
  | .cluster c cl i => (s.ctx c).cbs.getD (cl * 4 + i) 0

/-- The 128 bits of a barrier replaced. -/
def State.barSet (s : State) (l : BarLoc) (q : Quad) : State :=
  match l with
  | .team t i => { s with mem := s.mem.setBytes ((s.team t).padAddr (16 * i)) (natBytes 16 q.toNat) }
  | .cluster c cl i => s.modCtx c fun x => { x with cbs := x.cbs.set (cl * 4 + i) q }

/-- Teams whose threads may wait on a barrier. -/
def State.barTeams (s : State) : BarLoc → List Nat
  | .team t _ => [t]
  | .cluster c cl _ => (s.teams.filter fun p => p.2.ctx = c && p.2.core / 8 = cl).map Prod.fst

/-- Whether a lane sleeps on a barrier with a parity that a phase satisfies (R224). -/
def sleepsOn (l : Lane) (loc : BarLoc) (phase : Bool) : Bool :=
  match loc, l.sleep with
  | .team _ i, some (.bwait b p) => b = i && p != phase
  | .cluster _ _ i, some (.bclust b p) => b = i && p != phase
  | _, _ => false

/-- The lanes that a flip wakes become due together (R224). -/
def State.wakeBar (s : State) (loc : BarLoc) (phase : Bool) : State :=
  let (b, s) := s.takeNum
  ((s.barTeams loc).flatMap s.teamLanes).foldl (fun s lk =>
    if sleepsOn (s.lane lk) loc phase then s.modLane lk fun l => { l with sleep := some (.due b []) } else s) s

/-- The payload of a BARRIER_OVERFLOW event (R315). -/
def overflowPayload (i team core : Nat) : BitVec 176 :=
  BitVec.ofNat 4 i ++ BitVec.ofNat 48 team ++ BitVec.ofNat 11 core ++ 0#113

/-- The acquire of a cluster barrier's phase, at scope .clus, by a team that waits on it (R219, R242). -/
def State.barAcquire (s : State) (loc : BarLoc) (t : Nat) : State :=
  match loc with
  | .team _ _ => s
  | .cluster c _ _ => s.discardClean (s.unitOf c (s.team t).core) c

/-- The result of an update put in its place: the overflow event of R217 and the wakes of a flip. `t` is the team that the
event names. -/
def State.barApply (s : State) (loc : BarLoc) (t : Nat) (r : BarRes) : State :=
  let s1 := s.barSet loc r.bar.toQuad
  let m := s.team t
  let (i, flags) : Nat × Byte := match loc with | .team _ i => (i, 0) | .cluster _ _ i => (i, 2)
  let s2 := if r.ovf then s1.post m.ctx Ev.barrierOverflow flags (overflowPayload i m.index m.core) (srcCore m.core) else s1
  if r.flip then (s.barTeams loc).foldl (fun s t => s.barAcquire loc t) (s2.wakeBar loc r.bar.phase) else s2

/-- What another core's work has written becomes visible to a team before an arrival on its barrier counts that work: clean
lines of the team's L1 may be older (R246, R304). -/
def State.seenBy (s : State) (loc : BarLoc) (core : Nat) : State :=
  match loc with
  | .cluster _ _ _ => s
  | .team t _ =>
    let m := s.team t
    let u := s.unitOf m.ctx m.core
    if u = s.unitOf m.ctx core then s else s.discardClean u m.ctx

/-- An update of a barrier. -/
def State.barUpdate (s : State) (loc : BarLoc) (t : Nat) (f : Bar → BarRes) : State :=
  s.barApply loc t (f (Bar.ofQuad (s.barGet loc)))

/-- The barrier that an instruction of the issuing team names. -/
def State.barHere (s : State) (bar : BitVec 4) : BarLoc := .team (s.teamOf s.cur.gkey) bar.toNat

/-- The cluster barrier that an instruction names. -/
def State.cbHere (s : State) (bar : BitVec 4) : BarLoc := .cluster (s.ctxOf s.cur.gkey) (s.cur.core / 8) bar.toNat

/-- BINIT (R224). -/
def binitAt (loc : BarLoc) (f : FmtX) (s : State) (l : Nat) : State × LaneRes :=
  let n := (s.reg1 l f.a).toNat
  let b := Bar.ofQuad (s.barGet loc)
  if 8191 < n then (s, okReg f.d 2)
  else if b.arrCnt ≠ 0 || b.byteCnt ≠ 0 || b.byteExp ≠ 0 then (s, okReg f.d 1)
  else (s.barSet loc ({ b with arrExp := n, err := false } : Bar).toQuad, okReg f.d 0)

/-- BEXPB (R224). -/
def bexpbAt (loc : BarLoc) (f : FmtX) (s : State) (l : Nat) : State × LaneRes :=
  (s.barUpdate loc (s.laneTeam l) fun b => b.expect (s.pair l f.a).toNat, .ok [])

/-- BWAIT for one lane (R224). -/
def bwaitAt (loc : BarLoc) (sl : Bool → Sleep) (f : FmtX) (s : State) (lk : Nat) : LaneRes :=
  let p := (s.reg1 lk f.a).getLsbD 0
  if barPhase (s.barGet loc) != p then .ok [] else .ok [.sleep (sl p)]

/-- BTEST for one lane (R224). -/
def btestAt (loc : BarLoc) (f : FmtX) (s : State) (lk : Nat) : LaneRes :=
  okPred f.d (barPhase (s.barGet loc) != (s.reg1 lk f.a).getLsbD 0)

/-- The phase as BARV returns it. -/
def phaseWord (q : Quad) : Word := if barPhase q then 1 else 0

def execBinit (f : FmtX) (s : State) : Res := onceInstr (.binit f) (fun s l => binitAt (s.barHere f.bar) f s l) s

/-- BARV: each guard-true lane in lane order; the phase is that before its own update (R224). -/
def barvLane (f : FmtX) (_s0 s : State) (lk : Nat) : State × LaneRes :=
  let loc := s.barHere f.bar
  let q := s.barGet loc
  (s.barUpdate loc (s.laneTeam lk) (if f.xo == 1 then Bar.drop else Bar.threadArrive), okReg f.d (phaseWord q))

def execBarv (f : FmtX) (s : State) : Res := seqInstr (.barv f) (barvLane f) s
def execBwait (f : FmtX) (s : State) : Res :=
  laneInstr (.bwait f) (fun s lk => bwaitAt (s.barHere f.bar) (.bwait f.bar.toNat) f s lk) s
def execBexpb (f : FmtX) (s : State) : Res := onceInstr (.bexpb f) (fun s l => bexpbAt (s.barHere f.bar) f s l) s
def execBtest (f : FmtX) (s : State) : Res := laneInstr (.btest f) (fun s lk => btestAt (s.barHere f.bar) f s lk) s
def execBread (f : FmtX) (s : State) : Res :=
  laneInstr (.bread f) (fun s _ => okQuad f.d (s.barGet (s.barHere f.bar)) false) s

def execBclustInit (f : FmtX) (s : State) : Res :=
  onceInstr (.bclustInit f) (fun s l => binitAt (s.cbHere f.bar) f s l) s
/-- BCLUST.arv counts one arrival for the lane set (R220), a release at .clus: eager unless the L1s are fused (R219,
R240). -/
def bclustArvOnce (f : FmtX) (s : State) (l : Nat) : State × LaneRes :=
  let loc := s.cbHere f.bar
  let c := s.laneCtx l
  let u := s.unitOf c s.cur.core
  let s1 := if u = s.cur.core then s.flushAll u c else s
  (s1.barUpdate loc (s.laneTeam l) Bar.threadArrive, okReg f.d (phaseWord (s.barGet loc)))

/-- An instruction of independent lanes that acquires at .clus where the phase differs from the parity (R219). -/
def clustWaiter (i : Instr) (f : FmtX) (body : State → Nat → LaneRes) (s : State) : Res :=
  instr i s fun s =>
    let loc := s.cbHere f.bar
    let passed := (s.guardTrue f.g).any fun lk => barPhase (s.barGet loc) != (s.reg1 lk f.a).getLsbD 0
    let s1 := lanesBody i body s
    .next (if passed then s1.barAcquire loc (s.teamOf s.cur.gkey) else s1)

def execBclustArv (f : FmtX) (s : State) : Res := onceInstr (.bclustArv f) (bclustArvOnce f) s
def execBclustWait (f : FmtX) (s : State) : Res :=
  clustWaiter (.bclustWait f) f (fun s lk => bwaitAt (s.cbHere f.bar) (.bclust f.bar.toNat) f s lk) s
def execBclustTest (f : FmtX) (s : State) : Res :=
  clustWaiter (.bclustTest f) f (fun s lk => btestAt (s.cbHere f.bar) f s lk) s
def execBclustRead (f : FmtX) (s : State) : Res :=
  laneInstr (.bclustRead f) (fun s _ => okQuad f.d (s.barGet (s.cbHere f.bar)) false) s
def execBclustExp (f : FmtX) (s : State) : Res :=
  onceInstr (.bclustExp f) (fun s l => bexpbAt (s.cbHere f.bar) f s l) s

/-! ## Convergence registers -/

/-- A FREE convergence register, as at launch (R221). -/
def CvReg.free : CvReg := ⟨.free, 0, 0, 0, 0, 0, none, false, 0, none⟩

def State.cv (s : State) (t n : Nat) : CvReg := (s.team t).cvs.getD n CvReg.free
def State.setCv (s : State) (t n : Nat) (r : CvReg) : State := s.modTeam t fun m => { m with cvs := m.cvs.set n r }

/-- Lane `lk` tries to sign (R221, R222): the register after it, or a mismatch. `addr` is the address of the signing word;
`mma` holds a matrix instruction's fields. -/
def CvReg.sign (r : CvReg) (gslot p ver : Nat) (addr : DWord) (mma : Option (FmtX × Bool)) : Option CvReg :=
  if r.state = .free || r.owner ≠ gslot || !r.set.getLsbD p then none
  else if r.state = .signing && (r.addr ≠ addr || r.ver ≠ ver || r.full) then none
  else
    let signed := (if r.state = .signing then r.signed else 0) ||| (1#64 <<< p)
    some { r with state := .signing, signed := signed, addr := addr, ver := ver, mma := mma, full := signed = r.set }

/-- A completed CVSIGN round (R222): the sleeping signers become due together and the register is ARMED again, or FREE when
nothing is left in SET. -/
def State.cvComplete (s : State) (t n : Nat) : State :=
  let r := s.cv t n
  let m := s.team t
  let gk := m.core * 64 + r.owner
  let sleepers := (groupLanes gk).filter fun lk => (s.lane lk).sleep = some (.cv n)
  let s1 := s.wakeMask gk (lanesMask (sleepers.map posOf)) fun _ => []
  s1.setCv t n { r with state := if r.set = 0 then .free else .armed, signed := 0, full := false, mma := none, args := none }

/-- An entry of a team's tensor identifier table; zero and invalid at launch (R269). -/
def TnEntry.zero : TnEntry := ⟨0, false, false⟩

/-- Row and column predicates (R285); all ones at the context's creation. -/
def rowOf (t : Tbl DWord) (core p : Nat) : DWord := t.getD (core * 4 + p) (BitVec.allOnes 64)
def colOf (t : Tbl (BitVec 16)) (core p : Nat) : BitVec 16 := t.getD (core * 4 + p) (BitVec.allOnes 16)

/-- What a round that completes now reads of tensor identifiers and predicates: what stood before the cycle, when the second
instruction of a pair completes it (R272, R285). -/
def State.roundTables (s : State) (t gk : Nat) : Tbl TnEntry × Tbl DWord × Tbl (BitVec 16) :=
  let m := s.team t
  let x := s.ctx m.ctx
  match s.cur.port, (s.islot (coreOf gk * 4 + gk % 4)).snap with
  | 1, some p => (p.tns, p.mrow, p.mcol)
  | _, _ => (m.tns, x.mrow, x.mcol)

/-- The tree table that such a round takes, and the TREELD before it in matrix order whose replacement it waits for: one that issues
in its own cycle is none (R286, R287). -/
def State.roundTree (s : State) (t gk : Nat) : List Nat × Option Nat :=
  let m := s.team t
  match s.cur.port, (s.islot (coreOf gk * 4 + gk % 4)).snap with
  | 1, some p => (p.tree, p.treeBy)
  | _, _ => (m.tree, m.treePend.map (·.num))

/-- What a round reads beside its rows, as it completes (R280, R284, R285); `order` is its place in matrix order (R275). -/
def State.mmaArgs (s : State) (t : Nat) (r : CvReg) (f : FmtX) (tree : Bool) (order : Nat) : MmaArgs :=
  let m := s.team t
  let gk := m.core * 64 + r.owner
  let (tns, rows, cols) := s.roundTables t gk
  let w := fun k => if f.c.toNat < 0x140 then ((s.uniform gk).1.getD (f.c.toNat - 0x100 + k) 0).toNat else 0
  let words := if tree then 4 else 1
  let w0 := w 0
  let (nodes, by_) := s.roundTree t gk
  { order := order
    slot := (f.b.toNat % 256 + w0 % 256) % 256
    kcnt := w0 / 256 % 256
    pfx := if tree then w 1 else 0
    kbase := if tree then w 2 else 0
    qbase := if tree then w 3 % 256 else 0
    bad := f.c.toNat < 0x140 && (List.range words).any fun k => (s.uniformPoison gk).contains (f.c.toNat - 0x100 + k)
    mrow := rowOf rows m.core f.msel.toNat
    mcol := colOf cols m.core f.msel.toNat
    entry := tns.getD f.tid.toNat TnEntry.zero
    tree := nodes
    treeBy := if tree then by_ else none }

/-- A team's TREELD has ended, and the rounds that come after it in matrix order take the table as it stands now (R286). -/
def Team.treeDone (m : Team) : Team :=
  let settle := fun (a : MmaArgs) => if a.treeBy.isSome then { a with tree := m.tree, treeBy := none } else a
  { m with
    treePend := none
    cvs := m.cvs.map fun p => (p.1, { p.2 with args := p.2.args.map settle }) }

/-- A round that is full (R221, R222): a CVSIGN round completes at once; a matrix round reads its operands and takes its place
in matrix order (R275, R284), and its signers sleep on until the engine takes it (R281). -/
def State.cvSettle (s : State) (t n : Nat) : State :=
  let r := s.cv t n
  if !(r.state = .signing && r.full) then s
  else match r.mma with
    | none => s.cvComplete t n
    | some (f, tree) =>
      if r.args.isSome then s
      else
        let (k, s1) := s.takeNum
        s1.setCv t n { r with args := some (s.mmaArgs t r f tree k) }

/-- A member leaves SET by exit or CVDROP.lane (R221). -/
def State.cvLeave (s : State) (t gslot p n : Nat) : State :=
  let r := s.cv t n
  if r.state = .free || r.owner ≠ gslot || !r.set.getLsbD p then s
  else
    let bit : DWord := 1#64 <<< p
    let set := r.set &&& ~~~bit
    let signed := r.signed &&& ~~~bit
    let r1 := { r with set := set, signed := signed }
    if set = 0 then (s.setCv t n { r1 with full := false, mma := none, args := none }).cvComplete t n
    else if r.state = .signing && signed = set then (s.setCv t n { r1 with full := true }).cvSettle t n
    else s.setCv t n r1

/-- A lane leaves every convergence register of its team. -/
def State.cvLeaveAll (s : State) (lk : Nat) : State :=
  let t := s.laneTeam lk
  (List.range 16).foldl (fun s n => s.cvLeave t (groupOf lk % 64) (posOf lk) n) s

/-- CVINIT (R225). -/
def cvinitOnce (f : FmtX) (s : State) (l : Nat) : State × LaneRes :=
  let t := s.laneTeam l
  let n := f.bar.toNat
  let r := s.cv t n
  let g := s.cur.gslot
  if r.state = .signing || (r.state ≠ .free && r.owner ≠ g) then (s, okReg f.d 1)
  else
    let present := (groupLanes (groupOf l)).filter fun lk => (s.lane lk).state ≠ .exited && (s.lane lk).state ≠ .empty
    let set := s.pair l f.a &&& lanesMask (present.map posOf)
    (s.setCv t n (if set = 0 then CvReg.free else ⟨.armed, g, set, 0, 0, 0, none, false, 0, none⟩), okReg f.d 0)

def execCvinit (f : FmtX) (s : State) : Res := onceInstr (.cvinit f) (cvinitOnce f) s

/-- CVSIGN for one lane (R222). -/
def cvsignLane (f : FmtX) (_s0 s : State) (lk : Nat) : State × LaneRes :=
  let t := s.laneTeam lk
  let n := f.bar.toNat
  match (s.cv t n).sign s.cur.gslot (posOf lk) (s.team t).ver s.cur.pc none with
  | some r => (s.setCv t n r, .ok [.sleep (.cv n)])
  | none => (s, .error ⟨Code.convMismatch, 0, 0, 0⟩)

def execCvsign (f : FmtX) (s : State) : Res :=
  instr (.cvsign f) s fun s => .next ((seqBody (.cvsign f) (cvsignLane f) s).cvSettle (s.teamOf s.cur.gkey) f.bar.toNat)

/-- CVDROP.lane for one lane (R225). -/
def cvdropLane (f : FmtX) (_s0 s : State) (lk : Nat) : State × LaneRes :=
  let t := s.laneTeam lk
  let r := s.cv t f.bar.toNat
  if r.state ≠ .free && r.owner = s.cur.gslot && r.set.getLsbD (posOf lk) then
    (s.cvLeave t s.cur.gslot (posOf lk) f.bar.toNat, okReg f.d 0)
  else (s, okReg f.d 1)

def execCvdropLane (f : FmtX) (s : State) : Res := seqInstr (.cvdropLane f) (cvdropLane f) s

/-- CVDROP.free (R225): 1 when SIGNING or owned by another group. A FREE register has no owner, and stays FREE with status 0
(log entry 16). -/
def cvdropFreeOnce (f : FmtX) (s : State) (l : Nat) : State × LaneRes :=
  let t := s.laneTeam l
  let r := s.cv t f.bar.toNat
  if r.state = .signing || (r.state ≠ .free && r.owner ≠ s.cur.gslot) then (s, okReg f.d 1)
  else (s.setCv t f.bar.toNat CvReg.free, okReg f.d 0)

def execCvdropFree (f : FmtX) (s : State) : Res := onceInstr (.cvdropFree f) (cvdropFreeOnce f) s

end Sys2Proof.Machine
end

