-- ==== Sys2Proof/Machine/Regroup.lean ====
section
/-! DEFINITION. REGROUP and RGQUERY (R192 to R202): arrival, the checks, placement and the shuffle; and what follows when a
lane becomes EXITED (R179, R207, R221, R365). -/

namespace Sys2Proof.Machine

/-! ## Arrival and the checks -/

/-- A lane that has arrived at its team's regroup. -/
def Lane.arrived (l : Lane) : Bool := l.sleep = some .regroup

/-- The lanes of a team whose threads are not EXITED. -/
def State.threads (s : State) (t : Nat) : List Nat :=
  (s.teamLanes t).filter fun lk => (s.lane lk).state ≠ .empty && (s.lane lk).state ≠ .exited

/-- Every thread that is not EXITED has arrived (R193). -/
def State.allArrived (s : State) (t : Nat) : Bool :=
  let ls := s.threads t
  !ls.isEmpty && ls.all fun lk => (s.lane lk).arrived

/-- A group whose lease storage or extended block is in use, or whose core lends it a bank (R194). A lender's bank is named
by the borrowing group. -/
def State.blocksBusy (s : State) (t : Nat) : Bool :=
  let m := s.team t
  m.slots.any fun g => let x := s.group (m.core * 64 + g); x.ext || x.leaseOn || x.bank.isSome

/-- The check of R194: the fault every arrived thread takes, or none. -/
def State.regroupFault (s : State) (t : Nat) : Option Byte :=
  let ls := s.threads t
  let ver := fun lk => match (s.lane lk).arrival with | some a => a.ver | none => 0
  let pc := fun lk => match (s.lane lk).site with | some a => a.pc | none => 0
  let same := match ls with | [] => true | l :: _ => ls.all fun lk => pc lk = pc l && ver lk = ver l
  if !same then some Code.convMismatch
  else if (s.team t).cvs.any fun p => p.2.state ≠ .free then some Code.regroupBusy
  else if s.blocksBusy t then some Code.regroupBusy
  else if ls.any fun lk => (s.lane lk).state = .asleep true then some Code.regroupBusy
  else none

/-- The last thread has arrived: the checks are made once, and each arrived thread takes the fault at its own REGROUP word,
or the regroup waits for its shuffle (R194, R195). -/
def State.regroupSettle (s : State) (t : Nat) : State :=
  if !s.allArrived t || (s.team t).rg.isSome then s
  else match s.regroupFault t with
    | some code =>
      (sortBy (fun a b => a ≤ b) (s.threads t)).foldl (fun s lk =>
        let site := (s.lane lk).site.getD (s.site 0)
        s.takeFault lk ⟨code, 0, 0, 0⟩ site) s
    | none => s.modTeam t fun m => { m with rg := some ⟨false, [], 0, 0⟩ }

/-- REGROUP: the thread records its key and code version and sleeps (R193). -/
def regroupLane (f : FmtT) (_s0 s : State) (lk : Nat) : State × LaneRes :=
  let key := (s.reg1 lk f.a).toNat % 2 ^ 16
  (s.modLane lk fun l => { l with arrival := some ⟨(s.team (s.laneTeam lk)).ver, key⟩ }, .ok [.sleep .regroup])

def execRegroup (f : FmtT) (s : State) : Res :=
  instr (.regroup f) s fun s => .next ((seqBody (.regroup f) (regroupLane f) s).regroupSettle (s.teamOf s.cur.gkey))

/-! ## A lane that exits -/

/-- A group whose threads have all exited is DONE (R173). -/
def State.groupDone (s : State) (gk : Nat) : Bool :=
  (groupLanes gk).all fun lk => (s.lane lk).state = .exited || (s.lane lk).state = .empty

/-- A group that reaches DONE releases its extended block and spill lease (R207). -/
def State.settleGroup (s : State) (gk : Nat) : State :=
  if s.groupDone gk then
    s.modGroup gk fun g =>
      { g with ext := false, leaseOn := false, lease := [], leaseTags := [], leasePoison := [], bank := none }
  else s

/-- A refusal that finds its lane EXITED posts a FAULT event and enters no handler (R365, R451). -/
def State.lateFault (s : State) (lk : Nat) (f : Late) : State :=
  let site : Site := ⟨(s.lane lk).pc, 0, Flag.deferred, 0, ⟨0, (s.lane lk).pc, 0, 0, 0, 0⟩⟩
  let r := s.faultRec lk ⟨f.code, f.info, f.aux, 0⟩ site false
  let c := s.laneCtx lk
  ((s.modCtx c fun x => { x with faultSeq := x.faultSeq + 1 }).modLane lk fun l => { l with fault := r }).postFault c r

/-- What follows when lanes of a team have become EXITED together: each leaves every convergence register, their groups may be
DONE, and their team's regroup may proceed (R179, R193, R207, R221). -/
def State.lanesExited (s : State) (t : Nat) (ls : List Nat) : State :=
  let s1 := ls.foldl (fun s lk => s.cvLeaveAll lk) s
  (ls.foldl (fun s lk => s.settleGroup (groupOf lk)) s1).regroupSettle t

/-- Lanes of a team made EXITED together by firmware, with an event for each refusal pending (R193, R342, R370, R451). -/
def State.endLanes (s : State) (t : Nat) (ls : List Nat) : State :=
  let s1 := ls.foldl (fun s lk => (s.lane lk).late.foldl (fun s f => s.lateFault lk f) s) s
  (ls.foldl (fun s lk => s.modLane lk fun l =>
    { l with state := .exited, sleep := none, late := [], resume := none, ret := none, susp := none }) s1).lanesExited t ls

def State.endLane (s : State) (lk : Nat) : State := s.endLanes (s.laneTeam lk) [lk]

/-- EXIT (R179): each guard-true lane becomes EXITED; a lane with refusals pending posts an event for each (R451). -/
def execExit (f : FmtT) (s : State) : Res :=
  instr (.exit f) s fun s =>
    let ls := s.guardTrue f.g
    let s1 := ls.foldl (fun s lk => (s.lane lk).late.foldl (fun s r => s.lateFault lk r) s) s
    let s2 := s1.commit (ls.map fun lk => (lk, .ok [.exit])) none false
    .next (s2.lanesExited (s.teamOf s.cur.gkey) ls)

/-! ## Placement (R196) -/

/-- One step of the cut of R196: the group and lane of the next thread. `st` holds group, lane, threads left, groups left
and the previous key. -/
def placeStep (st : Nat × Nat × Nat × Nat × Nat) (key : Nat) : Nat × Nat × Nat × Nat × Nat :=
  let (grp, lane, left, free, prev) := st
  if lane = 64 then (grp + 1, 0, left, free - 1, prev)
  else if 0 < lane && key ≠ prev && (left + 63) / 64 ≤ free then (grp + 1, 0, left, free - 1, prev)
  else (grp, lane, left, free, prev)

/-- The cut over the threads of a role in order. -/
def placeAll : Nat × Nat × Nat × Nat × Nat → List Placed → List Placed
  | _, [] => []
  | st, p :: ps =>
    let (grp, lane, left, free, _) := placeStep st p.key
    { p with grp := grp, lane := lane } :: placeAll (grp, lane + 1, left - 1, free, p.key) ps

/-- First group number and group count of a role (R11). -/
def Team.roleGroups (m : Team) (r : Nat) : Nat × Nat :=
  (sumBy Prod.fst (m.roles.take r), match m.roles[r]? with | some x => x.1 | none => 0)

/-- The threads of a role sorted by key and then TID. -/
def State.roleThreads (s : State) (t r : Nat) : List Placed :=
  let all := (s.threads t).filterMap fun lk =>
    let g := s.group (groupOf lk)
    let l := s.lane lk
    match l.arrival with
    | some a => if g.role = r then some (⟨g.number * 64 + posOf lk, r, a.key, l.tid, 0, 0⟩ : Placed) else none
    | none => none
  sortBy (fun a b => a.key < b.key || (a.key = b.key && a.tid ≤ b.tid)) all

/-- The placement of R196 for every role. -/
def State.placement (s : State) (t : Nat) : List Placed :=
  let m := s.team t
  (List.range m.roles.length).flatMap fun r =>
    let (g0, g) := m.roleGroups r
    let ps := s.roleThreads t r
    placeAll (g0, 0, ps.length, g - 1, 0) ps

/-! ## The shuffle (R197 to R201) -/

/-- The group key of a team's group number. -/
def Team.gkeyOf (m : Team) (n : Nat) : Nat := m.core * 64 + m.slots.getD n 0

/-- Lane key of a position given as group number × 64 + lane. -/
def Team.laneAt (m : Team) (p : Nat) : Nat := m.gkeyOf (p / 64) * 64 + p % 64

/-- The carry set of a team's kernel (R328), rising. -/
def State.carryOf (s : State) (m : Team) : List Nat :=
  match s.vers.get? m.ver with
  | some v => (List.range 256).filter fun i => v.desc.carry.getLsbD i
  | none => []
def State.carrySet (s : State) (t : Nat) : List Nat := s.carryOf (s.team t)

/-- Whether all four registers of a quad are carried (R197). -/
def quadCarried (carry : List Nat) (q : Nat) : Bool := (List.range 4).all fun k => carry.contains (4 * q + k)

/-- A pass that moves register `n` of every thread, with its poison; the pass of a carried quad's last register moves the
quad's tag (R197, R199). -/
def movePass (m : Team) (carry : List Nat) (n : Nat) (place : List Placed) (s : State) : State :=
  place.foldl (fun s' p =>
    let old := s.lane (m.laneAt p.old)
    s'.modLane (m.laneAt (p.grp * 64 + p.lane)) fun l =>
      { l with
        regs := putWord l.regs n (old.regs.getD n 0)
        poison := putNat l.poison n (old.poison.contains n)
        tags := if n % 4 = 3 && quadCarried carry (n / 4) then putNat l.tags (n / 4) (old.tags.contains (n / 4))
                else l.tags }) s

/-- Where register `n` stands of a quad whose tag stands at a lane position. While a shuffle moves a carried quad register by
register, its tag still stands where the thread was, and the registers moved so far where it will be (R199, R201). -/
def Team.standsAt (m : Team) (carry : List Nat) (lk n : Nat) : Nat :=
  match m.rg with
  | some r =>
    let moved := if r.started then carry.take (r.done - 1) else []
    let mid := moved.contains n && !moved.contains (n / 4 * 4 + 3) && quadCarried carry (n / 4)
    match (if mid then r.place.find? fun (p : Placed) => m.laneAt p.old = lk else none) with
    | some p => m.laneAt (p.grp * 64 + p.lane)
    | none => lk
  | none => lk

/-- The tag of a quad at a lane position still belongs to words that stand together: before a shuffle has moved one of them, and of a
carried quad whose thread the shuffle moves. That of a thread that has exited, or of a quad not wholly carried, does not (R197). -/
def Team.tagStands (m : Team) (carry : List Nat) (lk q : Nat) : Bool :=
  match m.rg with
  | some r =>
    let moved := if r.started then carry.take (r.done - 1) else []
    if !(List.range 4).any fun k => moved.contains (4 * q + k) then true
    else quadCarried carry q && (moved.contains (4 * q + 3) || r.place.any fun (p : Placed) => m.laneAt p.old = lk)
  | none => true

/-- The value to which the tag of quad `q` of a lane position belongs. -/
def Team.taggedQuad (m : Team) (carry : List Nat) (lane : Nat → Lane) (lk q : Nat) : Quad :=
  let w := fun k => (lane (m.standsAt carry lk (4 * q + k))).regs.getD (4 * q + k) (0 : Word)
  w 3 ++ w 2 ++ w 1 ++ w 0
def State.taggedQuad (s : State) (lk q : Nat) : Quad :=
  let m := s.team (s.laneTeam lk)
  m.taggedQuad (s.carryOf m) s.lane lk q

/-- A register of the model's own filling where R197 leaves it undefined (log entry 5). -/
def freeReg (s : State) (lk n : Nat) : Word := Config.freeWord ((s.tick * 2 ^ 24 + lk % 2 ^ 24) * 512 + n)

/-- The registers of a thread after the shuffle: carried ones as moved, the others of the allocation undefined. -/
def finalRegs (s : State) (lk alloc : Nat) (carry : List Nat) : Tbl Word :=
  (List.range alloc).foldl (fun t n =>
    putWord t n (if carry.contains n then (s.lane lk).regs.getD n 0 else freeReg s lk n)) []

/-- What RGQUERY will read (R201, R202). -/
def rgRecord (place : List Placed) (p : Placed) : RgRec :=
  let mine := place.filter fun q => q.role = p.role && q.key = p.key
  { run := mine.length
    rank := (mine.filter fun q => q.tid < p.tid).length
    first := (mine.map (·.grp)).foldl min p.grp
    mixed := if place.any fun q => q.grp = p.grp && q.key ≠ p.key then 1 else 0 }

/-- The thread of a placement in its new lane (R197). `s` is the state before the last pass. -/
def finalLane (s : State) (m : Team) (carry : List Nat) (place : List Placed) (p : Placed) : Lane :=
  let old := s.lane (m.laneAt p.old)
  let nk := m.laneAt (p.grp * 64 + p.lane)
  let new := s.lane nk
  { old with
    state := .active
    regs := finalRegs s nk (s.allocation (m.gkeyOf p.grp)) carry
    tags := new.tags.filter (quadCarried carry)
    poison := new.poison.filter carry.contains
    key := p.key
    rg := rgRecord place p
    sleep := none
    arrival := none
    site := none
    resume := none
    lastIssue := s.now }

/-- The uniform registers of a group that receives threads: s0 to s15 from the role's first group, with their tags and poison, the
rest undefined. -/
def finalGroup (s : State) (m : Team) (n : Nat) : Group :=
  let gk := m.gkeyOf n
  let g := s.group gk
  let f := s.group (m.gkeyOf (m.roleGroups g.role).1)
  { g with
    sregs := (List.range 64).foldl (fun t k =>
      putWord t k (if k < 16 then f.sregs.getD k 0 else freeReg s (gk * 64) (256 + k))) []
    stags := f.stags.filter (· < 4)
    spoison := f.spoison.filter (· < 16)
    vote := 0
    lastIssue := s.now }

/-- The last pass: threads, groups, RGEN and RGP (R197 to R200). Of a thread that has exited, what a FAULT event would name is kept
(R365, R451). -/
def lastPass (s : State) (t : Nat) (place : List Placed) : State :=
  let m := s.team t
  let carry := s.carrySet t
  let s1 := (s.teamLanes t).foldl (fun s lk => s.setLane lk Lane.empty) s
  let s2 := place.foldl (fun s' p => s'.setLane (m.laneAt (p.grp * 64 + p.lane)) (finalLane s m carry place p)) s1
  let s3 := (List.range m.slots.length).foldl (fun s' n =>
    if place.any fun p => p.grp = n then s'.setGroup (m.gkeyOf n) (finalGroup s m n) else s') s2
  let note := fun (g : Tbl (DWord × Nat × Nat)) lk =>
    let l := s.lane lk
    if l.state = .exited then g.set l.tid (l.pc, (s.group (groupOf lk)).number, (s.group (groupOf lk)).role) else g
  s3.modTeam t fun m => { m with rgen := m.rgen + 1, rg := none, gone := (s.teamLanes t).foldl note m.gone }

/-- A register write is owed to a thread of the team (R195): a load, a matrix result, or a TREELD. -/
def State.owed (s : State) (t : Nat) : Bool :=
  let keys := s.teamLanes t
  (s.outst.any fun p => p.2.team = t && p.2.d.isSome) ||
    (s.mma.any fun p => p.2.writes.any fun w => keys.contains w.1) ||
    (s.team t).treePend.isSome

/-- The shuffle of a team may begin. -/
def State.shuffleDue (s : State) (t : Nat) : Bool :=
  match (s.team t).rg with | some r => !r.started && !s.owed t && !s.teamHeld t | none => false

/-- A pass of a team's shuffle may complete. -/
def State.passDue (s : State) (t : Nat) : Bool :=
  match (s.team t).rg with | some r => r.started && !s.teamHeld t | none => false

/-- REGROUP_SHUFFLE_START (R195, R200). -/
def execRegroupShuffleStart (team : Nat) (s : State) : Res :=
  if s.shuffleDue team then
    .next (s.modTeam team fun m => { m with rg := some ⟨true, [], (s.carrySet team).length + 2, 0⟩ })
  else skipEvent s

/-- REGROUP_PASS (R199): pass DONE + 1 runs to its end. -/
def execRegroupPass (team : Nat) (s : State) : Res :=
  match (s.team team).rg with
  | some r =>
    if !s.passDue team then skipEvent s
    else
      let carry := s.carrySet team
      let step := fun (s : State) (r : RgRun) => s.modTeam team fun m => { m with rg := some { r with done := r.done + 1 } }
      if r.done = 0 then .next (step s { r with place := s.placement team })
      else if r.done + 1 < r.total then
        .next (step (movePass (s.team team) carry (carry.getD (r.done - 1) 0) r.place s) r)
      else .next (lastPass s team r.place)
  | none => skipEvent s

/-- RGQUERY (R202). -/
def rgqueryLane (f : FmtT) (s : State) (lk : Nat) : LaneRes :=
  let r := (s.lane lk).rg
  okReg f.d (BitVec.ofNat 32 (match f.mod.toNat % 4 with
    | 0 => r.run
    | 1 => r.rank
    | 2 => r.first
    | _ => r.mixed))

def execRgquery (f : FmtT) (s : State) : Res := laneInstr (.rgquery f) (rgqueryLane f) s

/-- Regroup events that are due. -/
def State.regroupDue (s : State) : List Due :=
  s.teams.flatMap fun p =>
    if s.shuffleDue p.1 then [.regroupShuffleStart p.1] else if s.passDue p.1 then [.regroupPass p.1] else []

end Sys2Proof.Machine
end

