-- ==== Sys2Proof/Machine/Access.lean ====
section
/-! DEFINITION. One access of a lane (R252, R253): its checks, where it is performed (R228, R240, R261, R266), what it reads
and writes, and how an access that waits goes on, completes, or is refused (R365). -/

namespace Sys2Proof.Machine

/-! ## Checks -/

/-- Whether a range overlaps the barrier registers of a team's pad (R215). -/
def State.hitsBarriers (s : State) (x n : Nat) : Bool :=
  s.teams.any fun t => 0 < t.2.padLen && x < t.2.padAddr 256 && t.2.padAddr 0 < x + n

/-- A range touches the control window (R14). -/
def touchesControl (x n : Nat) : Bool := x < 0x40100000000 && controlBase < x + max 1 n

/-- The capability checks of an access, then R14's control-window test, then the barrier bytes of R215, then ALIGN; the
address as a number. -/
def State.accPre (s : State) (colour : Nat) (q : Quad × Bool) (acc : List Nat) (perm : BitVec 12) (a : Int) (n al : Nat)
    (isStore : Bool) : Except Flt Nat :=
  match checkAccess q colour acc perm a n with
  | some f => .error f
  | none =>
    let c := Cap.ofQuad q.1
    let x := a.toNat
    if c.kind = Kind.remote then (if x % al = 0 then .ok x else .error ⟨Code.align, addrInfo a, 0, 0⟩)
    else if touchesControl x n && !c.has Perm.sys then .error (capFlt Code.capPerm a c)
    else if isStore && s.hitsBarriers x n then .error (capFlt Code.capPerm a c)
    else if x % al ≠ 0 then .error ⟨Code.align, addrInfo a, 0, 0⟩
    else .ok x

/-- Whether a context holds the pad bank of an offset on a core (R266). -/
def State.holdsPad (s : State) (c core off : Nat) : Bool :=
  match (s.ctx c).alloc.get? core with | some a => a.pbanks.getLsbD (off / 0x10000) | none => false

/-- ADDRESS_HOLE and then the gate (R14, R252, R258, R266, R380) for bytes of one granule. `far` lets a load reach another
pad of the cluster. -/
def State.accPlace (s : State) (c core colour a n : Nat) (isStore rmw far : Bool) : Except Flt GateRes :=
  let hole := Except.error ⟨Code.addressHole, BitVec.ofNat 64 a, 0, 0⟩
  if regionOf a ≠ regionOf (a + n - 1) then hole
  else match regionOf a with
  | .hole => hole
  | .control => .ok (.go a false)
  | .pad =>
    let k := (a - padBase) / 0x100000
    if k / 8 ≠ core / 8 then hole
    else if k ≠ core && (isStore || !far) then hole
    else if !s.holdsPad c k ((a - padBase) % 0x100000) then hole
    else .ok (.go a false)
  | r =>
    if r = .host && rmw then hole
    else match gate s.frames s.spares colour a isStore with
      | .refuse code st => .error ⟨code, BitVec.ofNat 64 a, BitVec.ofNat 32 st, 0⟩
      | g => .ok g

/-- Whether an address lies in the pad of a team (R110). -/
def Team.ownsPad (m : Team) (a : Nat) : Bool := m.padAddr 0 ≤ a && a < m.padAddr m.padLen

/-- CAP_LOCAL (R110): a tagged quad without GLOBAL goes only to the storing team's pad. -/
def State.capLocal (s : State) (t : Nat) (q : Quad) (tag : Bool) (a : Nat) : Option Flt :=
  if tag && !(Cap.ofQuad q).has Perm.glob && !(s.team t).ownsPad a then
    some (capFlt Code.capLocal a (Cap.ofQuad q))
  else none

/-! ## What an access does to its bytes -/

/-- The ATOM operations (R256) on `w`-bit values. -/
def atomOp (aop w old b : Nat) : Nat :=
  let so := toSigned w old
  let sb := toSigned w b
  match aop with
  | 0 => (old + b) % 2 ^ w
  | 1 => if so ≤ sb then old else b
  | 2 => min old b
  | 3 => if so ≤ sb then b else old
  | 4 => max old b
  | 5 => old &&& b
  | 6 => old ||| b
  | 7 => old ^^^ b
  | 8 => b
  | _ => f32.addV 0 false (f32.val old) (f32.val b)

/-- The value an access writes, given what it read (R254, R256, R257). -/
def Acc.newValue (x : Acc) (old : Quad) : Option Quad :=
  match x.kind with
  | .load => none
  | .store => some x.val
  | .atom => some (BitVec.ofNat 128 (atomOp x.aop (8 * x.size) old.toNat x.val.toNat))
  | .acas => if old = x.cmp then some x.val else none

def Acc.acquires (x : Acc) : Bool := x.kind ≠ .store && (x.ord = 2 || x.ord = 4 || x.ord = 5)
def Acc.releases (x : Acc) : Bool := x.kind ≠ .load && (x.ord = 3 || x.ord = 4 || x.ord = 5)

/-- An access that reads and writes. -/
def Acc.rmw (x : Acc) : Bool := x.kind = .atom || x.kind = .acas

/-- A store or RMW that carries a release: its own, or that of a release fence before it which wrote nothing back (R233). -/
def Acc.carries (x : Acc) : Bool := x.releases || (x.kind ≠ .load && x.ord ≠ 0 && x.fenced)

/-- The scope with which an access counts: .par through a REMOTE capability (R232, R254). -/
def Acc.reach (x : Acc) : Nat := if x.peer.isSome then 4 else x.scope

/-- An acquire of a poisoned granule raises POISON, and its instruction then writes nothing (R363, R377). -/
def Acc.spoiled (x : Acc) (v : AccVal) : Bool := x.acquires && v.poison

/-- What an access writes, given what it read. -/
def Acc.writeOf (x : Acc) (v : AccVal) : Option Quad := if x.spoiled v then none else x.newValue v.val

/-- An access performed where its bytes lie: in memory or a pad. -/
def State.performAt (s : State) (p : Nat) (x : Acc) : State × AccVal :=
  let old := quadBytes (s.granData p) (p % 16) x.size
  let v : AccVal := ⟨old, s.granTag p, s.granPoison p⟩
  match x.writeOf v with
  | none => (s, v)
  | some w => (s.granStore p (quadAt w (p % 16)) (byteMask (p % 16) x.size) x.tag x.poison, v)

/-- An access performed in an L1, which is filled first where it reads bytes not held (R240, R260). -/
def State.performL1 (s : State) (u : Nat) (x : Acc) : State × AccVal :=
  let g := x.addr / 16
  let o := x.addr % 16
  if x.kind = .store then (s.storeL1 u x.ctx x.addr x.size x.cl x.val x.tag x.poison, ⟨0, false, false⟩)
  else
    let s1 := if (s.sectorAt u x.ctx g).covers (byteMask o x.size) then s else s.fillL1 u x.ctx x.addr x.cl
    let sec := s1.sectorAt u x.ctx g
    let v : AccVal := ⟨quadBytes sec.data o x.size, sec.tag, s1.sectorBad u x.ctx g⟩
    match x.writeOf v with
    | none => (s1, v)
    | some w => (s1.storeL1 u x.ctx x.addr x.size x.cl w x.tag (x.poison || (sec.poison && x.size < 16)), v)

/-- An access to a granule of the borrowed window performed in the slice, whose line is held and covers what it reads (R385). -/
def State.performSlice (s : State) (x : Acc) : State × AccVal :=
  let v := (s.sliceRead x.addr x.size).getD ⟨0, false, false⟩
  match x.writeOf v with
  | none => (s, v)
  | some w => (s.sliceStore x.addr x.size w x.tag (x.poison || (x.rmw && v.poison)), v)

/-- A host window access performed in host memory, which holds no tags (R109, R385). -/
def State.performHost (s : State) (h : Nat) (x : Acc) : State × AccVal :=
  let old := BitVec.ofNat 128 (s.hostMem.nat h x.size)
  match x.newValue old with
  | none => (s, ⟨old, false, false⟩)
  | some w => ({ s with hostMem := s.hostMem.setBytes h (natBytes x.size w.toNat) }, ⟨old, false, false⟩)

/-! ## The control window (R425, R426) -/

/-- The version word (R425). -/
def State.versionWord (s : State) : DWord :=
  0#16 ++ s.bootstat ++ BitVec.ofNat 8 s.secver ++ (1#8 : BitVec 8) ++ Config.fwVersion.extractLsb' 8 8 ++ Config.revision

def State.monitor (s : State) (k : Nat) : Monitor := s.monitors.getD k ⟨0, 0, none, none⟩

/-- A write to a monitor's control word, which takes effect at the next cycle boundary (R426): a reserved SRC leaves it
unchanged. -/
def Monitor.setCtl (m : Monitor) (w : DWord) : Monitor :=
  if 9 < (w.extractLsb' 16 16).toNat then m else { m with newCtl := some (w &&& 0xFFFF0003) }

/-- Monitor key, and whether it is the control word, of a control window address (R426). -/
def monitorAt (a : Nat) : Option (Nat × Bool) :=
  let o := a - controlBase
  let d := (o - 0x10000) / 0x1000
  let r := (o - 0x10000) % 0x1000
  if 0x10000 ≤ o && d < 8 && r < 256 && r % 8 = 0 then some (d * 16 + r / 16, r % 16 = 8) else none

/-- An access of at most 8 bytes to the control window: the version word is only read; monitors are read and written as 8 bytes. Of
its other words the manual gives neither layout nor effect: a load of one gives a free value, and a store to one changes nothing
here (log entry 76). -/
def State.controlWord (s : State) (x : Acc) : State × AccVal :=
  let read := fun (w : DWord) => (⟨w.setWidth 128, false, false⟩ : AccVal)
  if x.addr / 8 * 8 = controlBase && x.size ≤ 8 then
    (s, read (BitVec.ofNat 64 (s.versionWord.toNat / 2 ^ (8 * (x.addr % 8)) % 2 ^ (8 * x.size))))
  else match (if x.size = 8 then monitorAt x.addr else none) with
    | some (k, ctl) =>
      let m := s.monitor k
      let old := if ctl then m.ctl else m.value
      match x.newValue (old.setWidth 128) with
      | none => (s, read old)
      | some w =>
        let v := w.setWidth 64
        ({ s with monitors := s.monitors.set k (if ctl then m.setCtl v else { m with newValue := some v }) }, read old)
    | none => (s, read (Config.freeDWord (s.tick * 2 ^ 32 + x.addr % 2 ^ 32)))

/-- An access to the control window; one of 16 bytes is two of 8. -/
def State.performControl (s : State) (x : Acc) : State × AccVal :=
  if x.size = 16 then
    let (s1, v1) := s.controlWord { x with size := 8, val := quadBytes x.val 0 8 }
    let (s2, v2) := s1.controlWord { x with addr := x.addr + 8, size := 8, val := quadBytes x.val 8 8 }
    (s2, ⟨v2.val <<< 64 ||| v1.val, false, false⟩)
  else s.controlWord x

/-! ## Starting an access -/

/-- The bytes a request carries (R413). -/
def Acc.payload (x : Acc) : List Byte :=
  match x.kind with
  | .load => []
  | .store | .atom => natBytes x.size x.val.toNat
  | .acas => natBytes x.size x.cmp.toNat ++ natBytes x.size x.val.toNat

/-- OP of an access (R415). -/
def Acc.opCode (x : Acc) : Nat := match x.kind with | .load => 0 | .store => 1 | .atom => 2 | .acas => 3

/-- The request of an access to a peer (R413, R415). -/
def Acc.message (x : Acc) (peer grant : Nat) : FabMsg :=
  { FabMsg.zero with
    dst := peer
    grant := grant
    colour := x.colour
    op := x.opCode
    path := pathLabel x.addr
    ofl := x.ofl
    data := x.payload
    len := if x.kind = .acas then 2 * x.size else x.size
    ty := x.ty
    ord := x.ord
    scope := x.scope
    aop := x.aop
    addr := BitVec.ofNat 54 x.addr
    poison := [x.poison] }

/-- The lease message of an access to a lender (R385, R415); GRANT carries the lease ID (log entry 21), and an access of at most 16
bytes that stores its tag. -/
def State.leaseMessage (s : State) (x : Acc) (peer addr : Nat) : FabMsg :=
  let id := match frameOf x.addr with | some g => Fst.lease (frameEntry s.frames (liveFrame s.frames g)) | none => 0
  { x.message peer id with
    op := 6
    sub := x.opCode
    ofl := false
    tags := if x.kind = .load then [] else [x.tag]
    addr := BitVec.ofNat 54 addr }

/-- Whether an atomic access to local memory is performed at its home slice (R228, R240, R242). -/
def State.atHome (s : State) (x : Acc) : Bool :=
  x.ord ≠ 0 && (3 ≤ x.scope || (x.scope = 2 && s.unitOf x.ctx x.core = x.core))

/-- A .bypass access (R83, R261). -/
def Acc.bypass (x : Acc) : Bool := x.cl = 3 || !x.cache

/-- What becomes of an access that has passed its checks. -/
inductive AccOut where
  | done (v : AccVal)
  | wait (p : AccPlace)
  deriving DecidableEq, Repr

/-- A .bypass write (R261): the line's dirty bytes written back and its copy dropped, then the bytes written through. -/
def State.bypassStore (s : State) (u p : Nat) (x : Acc) : State × AccVal :=
  (s.flushDrop u x.ctx (x.addr / 128)).performAt p x

/-- An access to local memory (R240, R261). An atomic store below .dev that is .bypass is written through too, as R261 has it,
where R240 has it performed in L1 (log entry 84); an RMW below .dev is performed in L1 (R258). -/
def State.goLocal (s : State) (u p : Nat) (x : Acc) : State × AccOut :=
  let s1 := if x.carries then s.flushAll u x.ctx else s
  if s.atHome x then (s1, .wait .home)
  else
    let held := (s.sectorAt u x.ctx (x.addr / 16)).covers (byteMask (x.addr % 16) x.size)
    let served := held && (!x.bypass || s.lineDirty u x.ctx (x.addr / 128))
    if x.kind = .load && !served then (s, .wait .home)
    else
      let (s2, v) := if x.kind = .store && x.bypass then s1.bypassStore u p x else s.performL1 u x
      (s2, .done v)

/-- An access whose line is on its way from the lender, in one request for all of it (R385, R387). -/
def State.askLine (s : State) (x : Acc) (p a : Nat) : State × AccOut :=
  let m := s.leaseMessage { x with kind := .load, addr := x.addr / 128 * 128 } p (a - x.addr % 128)
  let (s1, rn) := s.sendRequest { m with data := [], len := 128, ord := 0, tags := [] }
  (s1, .wait (.remote p rn))

/-- An access to a BORROWED frame at the home slice of its line (R385): performed there where the line is held and covers what it
reads; else a line that may be held comes from the lender first, and any other access goes to the lender. One request for a line is
on its way at a time. -/
def State.goLender (s : State) (x : Acc) (p a : Nat) : State × AccOut :=
  let nocache := match frameOf x.addr with | some g => Fst.nocache (frameEntry s.frames g) | none => true
  let covered := x.kind = .store || (s.sliceGran x.addr).covers (byteMask (x.addr % 16) x.size)
  let here := fun (s : State) => let (s1, v) := s.performSlice x; (s1, AccOut.done v)
  if s.mscHas x.addr && covered then here s
  else if s.sliceBusy x.addr then (s, .wait .slice)
  else if s.mscHas x.addr then s.askLine x p a
  else if !x.bypass && !nocache && s.mscRoom x.addr then
    let s1 := s.mscFill x.addr
    if x.kind = .store then here s1 else s1.askLine x p a
  else
    let (s1, rn) := (s.markTag x.addr (x.kind ≠ .load && x.tag)).sendRequest (s.leaseMessage x p a)
    (s1, .wait (.remote p rn))

/-- An access that has passed its checks and the gate: performed, or put where it waits. -/
def State.goAcc (s : State) (x : Acc) (g : GateRes) : State × AccOut :=
  let u := s.unitOf x.ctx x.core
  let s1 := if x.carries then s.flushAll u x.ctx else s
  match x.peer with
  | some (p, gr) => let (s2, rn) := s1.sendRequest (x.message p gr); (s2, .wait (.remote p rn))
  | none =>
    match g with
    | .stall | .refuse _ _ => (s, .wait .gate)
    | .zero => (s, .done ⟨0, false, false⟩)
    | .lender p a => s1.goLender x p a
    | .host h =>
      (s1.send (.host 0 h x.size (if x.kind = .load then none else some x.payload)), .wait .host)
    | .go p _ =>
      match regionOf x.addr with
      | .pad => let (s2, v) := s1.performAt p x; (s2, .done v)
      | .control => let (s2, v) := s.performControl x; (s2, .done v)
      | .local => s.goLocal u p x
      | _ =>
        if x.kind = .store && x.ord = 0 then let (s2, v) := s1.performAt p x; (s2, .done v) else (s1, .wait .home)

/-- Two accesses of one instruction of which R253 says the order: RMWs in ascending lane number, and stores that share a byte,
unless the lower one is already on its way to their peer. -/
def laneOrder (y x : Acc) : Bool :=
  let sent := match y.place with | .remote _ _ => true | _ => false
  x.team ≠ 0 && y.batch = x.batch &&
    ((x.rmw && y.rmw) || (x.kind = .store && y.kind = .store && !sent && y.peer.map Prod.fst = x.peer.map Prod.fst &&
      x.addr < y.addr + y.size && y.addr < x.addr + x.size))

/-- Whether an access must wait for an earlier one: of its thread and to its granule (R235, R248), or of a lower-numbered lane of
its instruction (R253). -/
def State.orderedAfter (s : State) (n : Nat) (x : Acc) : Bool :=
  s.outst.any fun y =>
    y.1 < n && y.2.team = x.team && (laneOrder y.2 x ||
      (y.2.tid = x.tid && y.2.addr / 16 = x.addr / 16 && y.2.peer.map Prod.fst = x.peer.map Prod.fst))

/-- Where an access that passes the gate to an address is performed, but for a spare: in the fallback of a DEMOTED frame (R380). -/
def State.passAddr (s : State) (a : Nat) : Nat :=
  match frameOf a with
  | some g =>
    let e := frameEntry s.frames g
    if Fst.state e = Fst.demoted then frameAddr (Fst.arg e % 2 ^ 20) + a % 0x200000 else a
  | none => a

/-- An access with what the gate has made of it, and where it is performed, which stand whatever is written to the frame's entry later
(R381). -/
def State.passed (s : State) (x : Acc) (g : GateRes) : Acc :=
  { x with passed := if g = .stall then none else some g, home := if x.passed.isSome then x.home else s.passAddr x.addr }

/-- The address of a frame's data now: in the spare of a RETIRED frame (R384). -/
def State.spareAddr (s : State) (a : Nat) : Nat :=
  match frameOf a with | some g => frameAddr (liveFrame s.frames g) + a % 0x200000 | none => a

/-- An access started under a number: what it read, or nothing when it waits in the table of outstanding ones, behind others or
with its request at the port. -/
def State.startAcc (s : State) (x : Acc) (g : GateRes) : State × Option AccVal :=
  let (n, s1) := s.takeNum
  let y := s1.passed x g
  if s1.orderedAfter n x then ({ s1 with outst := s1.outst.set n { y with place := .order } }, none)
  else if !s1.reqSent x.req then ({ s1 with outst := s1.outst.set n { y with place := .port } }, none)
  else match s1.goAcc x g with
    | (s2, .done v) => (s2, some v)
    | (s2, .wait p) => ({ s2 with outst := s2.outst.set n { y with place := p, since := s.now } }, none)

/-! ## Completing an access -/

/-- Sub-word loads extend to 32 bits (R254). -/
def extendLoad (ty : Nat) (v : Quad) : Quad :=
  match ty with
  | 1 => ((v.extractLsb' 0 8).signExtend 32).setWidth 128
  | 3 => ((v.extractLsb' 0 16).signExtend 32).setWidth 128
  | _ => v

/-- The registers an access writes with what it read (R109, R254 to R257), poisoned where the granule was (R377). -/
def Acc.writes (s : State) (x : Acc) (v : AccVal) : List RegWrite :=
  match x.d with
  | none => []
  | some d =>
    let n := max 1 (x.size / 4)
    let bad := if v.poison then (List.range n).map fun k => RegWrite.bad d (x.dk + k) else []
    if x.caps then .quad d (x.dk / 4) v.val (x.ldc && s.filtered v.val v.tag) :: bad
    else
      let w := if x.kind = .load then extendLoad x.ty v.val else v.val
      (List.range n).map (fun k => .reg d (x.dk + k) (quadWord w k)) ++ bad

/-- A lane taken out of the clauses of its issue slot. -/
def State.pullLane (s : State) (lk : Nat) : State :=
  let gk := groupOf lk
  let k := gk / 64 * 4 + gk % 4
  let off := fun (c : Clause) => if c.gslot = gk % 64 then { c with mask := c.mask &&& ~~~(1#64 <<< posOf lk) } else c
  let s1 := s.modISlot k fun i =>
    { i with
      c0 := i.c0.map off
      c1 := i.c1.map off
      parked := i.parked.map fun p => { p with c0 := p.c0.map off, c1 := p.c1.map off } }
  let i := s1.islot k
  let s2 := match i.c0 with | some c => if c.mask = 0 then s1.endClause k 0 else s1 | none => s1
  match i.c1 with | some c => if c.mask = 0 then s2.endClause k 1 else s2 | none => s2

/-- The fault of an acquire that reads a poisoned granule: INFO holds its destination register (R377; log entry 22). -/
def Acc.poisonFlt (x : Acc) : Flt := ⟨Code.poison, match x.d with | some d => d.setWidth 64 | none => 0x140, 0, 0⟩

/-- An acquire completed: the clean lines of its core's L1 are dropped at .clus or wider (R242). -/
def State.acquired (s : State) (x : Acc) : State :=
  if x.acquires && 2 ≤ x.reach then s.discardClean (s.unitOf x.ctx x.core) x.ctx else s

/-- The bytes of an answer: what was read. -/
def Acc.answerBytes (x : Acc) (v : AccVal) : List Byte := if x.kind = .store then [] else natBytes x.size v.val.toNat

/-- Answered accesses of one instruction of a lane, an acquire among them or not: their registers are written, unless the lane has
exited (R179, R253); an acquire that has read a poisoned granule faults at its own instruction, and then nothing is written (R363,
R377). -/
def State.landAccs (s : State) (x : Acc) (vs : List (Acc × AccVal)) : State :=
  let s1 := s.acquired x
  match s1.findThread x.team x.tid with
  | none => s1
  | some lk =>
    if (s1.lane lk).state = .exited then s1
    else if vs.any fun y => y.1.spoiled y.2 then
      (s1.takeFault lk x.poisonFlt (x.site.getD (s1.site 0))).pullLane lk
    else s1.writes lk (vs.flatMap fun y => y.1.writes s1 y.2)

/-- The other half of a 32-byte load. -/
def State.mateOf (s : State) (n : Nat) (x : Acc) : Option (Nat × Acc) :=
  s.outst.find? fun p => p.1 ≠ n && p.2.mate && p.2.batch = x.batch && p.2.team = x.team && p.2.tid = x.tid

/-- One half of a 32-byte load has its data: it waits for the other, and both complete together (R32, R363); one whose other half has
been refused changes nothing (R365). -/
def State.finishHalf (s : State) (n : Nat) (x : Acc) (v : AccVal) : State :=
  match s.mateOf n x with
  | none => { s with outst := s.outst.erase n }
  | some (m, y) => match y.got with
    | some w =>
      { s with outst := (s.outst.erase n).erase m }.landAccs x (if x.dk < y.dk then [(x, v), (y, w)] else [(y, w), (x, v)])
    | none => { s with outst := s.outst.set n { x with place := .mate, got := some v } }

/-- An access is one of the loads of its team's TREELD. -/
def State.ofTree (s : State) (x : Acc) : Bool :=
  match (s.team x.team).treePend with | some p => p.num = x.batch | none => false

/-- What a load of a TREELD has read, kept until all have (R286). -/
def State.treeLand (s : State) (x : Acc) (v : AccVal) : State :=
  s.modTeam x.team fun m => { m with treePend := m.treePend.map fun p => { p with buf := p.buf.set x.dk v } }

/-- An outstanding access has its answer. One made for another device's request is answered to it. -/
def State.finishAcc (s : State) (n : Nat) (x : Acc) (v : AccVal) : State :=
  if x.team = 0 then ({ s with outst := s.outst.erase n }).answerHeld x.batch 0 0 (x.answerBytes v) [v.tag] [v.poison]
  else if s.ofTree x then { s with outst := s.outst.erase n }.treeLand x v
  else if x.mate then s.finishHalf n x v
  else ({ s with outst := s.outst.erase n }).landAccs x [(x, v)]

/-- The address that a refused access names in INFO (R365). -/
def Acc.info (x : Acc) : DWord :=
  match x.peer with
  | some (p, _) => BitVec.ofNat 64 (p * 2 ^ 54 + x.addr)
  | none => BitVec.ofNat 64 x.addr

/-- AUX of a refusal (R366): the peer and grant, or the frame STATE seen. -/
def Acc.aux (x : Acc) (code : Byte) (st : Nat) : Word :=
  match x.peer with
  | some (p, g) => if code = Code.remoteGrant then BitVec.ofNat 32 (p * 2 ^ 22 + g) else BitVec.ofNat 32 st
  | none => BitVec.ofNat 32 st

/-- A refusal that reaches a thread which has exited and whose position a regroup has emptied: its FAULT event (R365, R451). -/
def State.goneFault (s : State) (t tid : Nat) (f : Late) : State :=
  let m := s.team t
  match m.gone.get? tid with
  | none => s
  | some (pc, grp, role) =>
    let x := s.ctx m.ctx
    let r : FaultRec :=
      { FaultRec.zero with
        pc := pc, info := f.info, seq := x.faultSeq + 1, codever := BitVec.ofNat 32 m.ver, aux := f.aux, tid := tid, group := grp,
        core := m.core, role := role, flags := Flag.deferred, code := f.code }
    (s.modCtx m.ctx fun x => { x with faultSeq := x.faultSeq + 1 }).postFault m.ctx r

/-- A refusal delivered to a thread: pending in its lane, or a FAULT event when it has exited (R365, R451). -/
def State.deliverLate (s : State) (t tid : Nat) (f : Late) : State :=
  match s.findThread t tid with
  | none => s.goneFault t tid f
  | some lk =>
    if (s.lane lk).state = .exited then s.lateFault lk f
    else s.modLane lk fun l => { l with late := l.late ++ [f] }

/-- An outstanding access refused after its lane moved on (R365): its destination is unchanged. Of a 32-byte load the first refusal
counts, and its other half changes nothing; so it is with the loads of a TREELD (R286). -/
def State.refuseAcc (s : State) (n : Nat) (x : Acc) (code : Byte) (st : Nat) : State :=
  let s1 := { s with outst := s.outst.erase n }
  let late := fun (s : State) => s.deliverLate x.team x.tid ⟨code, x.info, x.aux code st⟩
  if x.team = 0 then s1.answerHeld x.batch code st [] [] []
  else if s.ofTree x then
    late ({ s1 with outst := s1.outst.filter fun p => !(p.2.team = x.team && p.2.batch = x.batch) }.modTeam x.team Team.treeDone)
  else if x.mate then
    match s.mateOf n x with
    | none => s1
    | some (m, y) => late (if y.got.isSome then { s1 with outst := s1.outst.erase m } else s1)
  else late s1

/-- The gate for an access that waits: pads and peers have none. -/
def State.gateOf (s : State) (x : Acc) : GateRes :=
  if x.peer.isSome then .go x.addr false
  else match regionOf x.addr with
    | .local | .borrowed | .host => gate s.frames s.spares x.colour x.addr (x.kind ≠ .load)
    | _ => .go x.addr false

/-- An earlier access stands at the gate to the same frame and may go on: it does so first (R382, R398). -/
def State.gateBefore (s : State) (n : Nat) (x : Acc) : Bool :=
  s.outst.any fun p => p.1 < n && p.2.place = .gate && frameOf p.2.addr = frameOf x.addr && s.gateOf p.2 ≠ .stall

/-- Whether an access that waits at the gate, behind another, or for its request to leave the port may go on. -/
def State.retryDue (s : State) (n : Nat) (x : Acc) : Bool :=
  match x.place with
  | .gate => s.gateOf x ≠ .stall && !s.gateBefore n x
  | .order | .port => !s.orderedAfter n x && s.reqSent x.req
  | .slice => !s.sliceBusy x.addr
  | _ => false

/-- What the gate makes of an access that waited: what it made of it when it passed, at the place where those data lie now, or, if it
has not passed yet, what it makes of it anew (R381, R383). One that has not reached the lender when its window frame becomes ABSENT
is refused (R398). -/
def State.gateAgain (s : State) (x : Acc) : GateRes :=
  match x.passed with
  | none => s.gateOf x
  | some (.go a nc) => .go (if x.peer.isSome then a else s.spareAddr x.home) nc
  | some (.lender p a) => if s.stateAt x.addr = Fst.absent then .refuse Code.dataLost Fst.absent else .lender p a
  | some g => g

/-- An access that waited goes on. -/
def State.retryAcc (s : State) (n : Nat) (x : Acc) : State :=
  match s.gateAgain x with
  | .refuse c st => s.refuseAcc n x c st
  | g => match s.goAcc x g with
    | (s1, .done v) => s1.finishAcc n x v
    | (s1, .wait p) => { s1 with outst := s1.outst.set n { s.passed x g with place := p, since := s1.now } }

/-- An access performed at its home slice: a load allocates as its class says; a .bypass load is served from a line that is dirty
in L1, and otherwise leaves no copy there; an atomic access bypasses L1 and leaves no clean copy (R242, R261). -/
def State.homeNow (s : State) (x : Acc) : State × AccVal :=
  let u := s.unitOf x.ctx x.core
  let p := s.spareAddr x.home
  if regionOf x.addr ≠ .local then s.performAt p x
  else if s.atHome x then let (s1, v) := s.performAt p x; (s1.dropClean u x.ctx (x.addr / 16), v)
  else if x.bypass && !s.lineDirty u x.ctx (x.addr / 128) then (s.dropLine u x.ctx (x.addr / 128)).performAt p x
  else s.performL1 u x

/-- A load whose data may return: at home when it is no atomic of R242, or at the host. -/
def State.loadDue (s : State) (x : Acc) : Bool :=
  match x.place with
  | .home => x.kind = .load && !(s.atHome x && regionOf x.addr = .local)
  | .host => true
  | _ => false

/-! ## Home-slice atomics, notices and promotions (R241, R242) -/

/-- An atomic at its home slice must still wait for a promotion: a record of its granule, or a notice of its own unit on the
way (log entry 23). -/
def State.promotionOwed (s : State) (x : Acc) : Bool :=
  let g := s.homeAddr x.addr / 16
  let u := s.unitOf x.ctx x.core
  (s.recordOf g).isSome || s.notices.any fun (r : SyncRec) => r.granule = g && r.unit = u

/-- An access performed at its home slice as R242 orders it. -/
def State.homeDue (s : State) (x : Acc) : Bool :=
  x.place = .home && !s.loadDue x && !s.promotionOwed x

/-- HOME_SLICE_ATOMIC (R242). -/
def execHomeSliceAtomic (acc : Nat) (s : State) : Res :=
  match s.outst.get? acc with
  | some x =>
    if s.homeDue x then let (s1, v) := s.homeNow x; .next (s1.finishAcc acc x v) else skipEvent s
  | none => skipEvent s

/-- A record whose granule an access waits for. -/
def State.ackDue (s : State) (g : Nat) : Bool :=
  (s.recordOf g).isSome && s.outst.any fun y => y.2.place = .home && s.homeAddr y.2.addr / 16 = g

/-- PROMOTION_ACK (R242): the owner has written back its dirty sectors; the record is removed. -/
def execPromotionAck (granule : Nat) (s : State) : Res :=
  match s.recordOf granule with
  | some r => if s.ackDue granule then .next (s.promote r) else skipEvent s
  | none => skipEvent s

/-- SYNC_NOTICE (R241): the oldest notice reaches its home slice. -/
def execSyncNotice (s : State) : Res :=
  match s.notices with
  | r :: rest => .next (({ s with notices := rest }).recordNotice r)
  | [] => skipEvent s

/-- Memory events that are due. -/
def State.memoryDue (s : State) : List Due :=
  s.outst.flatMap (fun p =>
    (if s.loadDue p.2 then [.loadReturn p.1] else []) ++
    (if s.homeDue p.2 then [.homeSliceAtomic p.1] else []) ++
    (if p.2.place = .host && p.2.since + 12500000 ≤ s.now then [.hostAccessTimeout p.1] else [])) ++
  ((s.sync.filter fun r => s.ackDue r.granule).map fun (r : SyncRec) => .promotionAck r.granule) ++
  (if s.notices.isEmpty then [] else [.syncNotice])

end Sys2Proof.Machine
end

