-- ==== Sys2Proof/Machine/MemOps.lean ====
section
/-! DEFINITION. The memory instructions (R251 to R263, R267): LD to RETAIN, and SPILL and FILL in their memory form (R211).
Every lane is checked first, then its accesses are started in lane order. -/

namespace Sys2Proof.Machine

/-! ## Planning -/

/-- The signed value of `w` low bits of a field. -/
def signedField (w x : Nat) : Int := toSigned w (x % 2 ^ w)

/-- The address of R38 or R51: cursor, index register, and offset in units of the size. -/
def State.memAddr (s : State) (lk : Nat) (f : FmtM) (size : Nat) : Int :=
  (Cap.ofQuad (s.quadBits lk f.q 0)).cur + (if f.x == 0x140 then 0 else (s.reg1 lk f.x).toInt) +
    signedField 9 f.off.toNat * size

/-- The address of ATOM and ACAS (R256, R257). -/
def State.atomAddr (s : State) (lk : Nat) (f : FmtM) (size : Nat) : Int :=
  (Cap.ofQuad (s.quadBits lk f.q 0)).cur + signedField 5 f.off.toNat * size

/-- An access of a lane through a capability, before its own fields are filled in. -/
def State.newAcc (s : State) (lk : Nat) (f : FmtM) (kind : AccKind) : Acc :=
  let c := Cap.ofQuad (s.quadBits lk f.q 0)
  let remote := decide (c.kind = Kind.remote)
  { kind := kind
    place := .gate
    team := s.laneTeam lk
    tid := (s.lane lk).tid
    core := s.cur.core
    ctx := s.laneCtx lk
    colour := s.laneColour lk
    addr := 0
    size := 0
    ty := f.ty.toNat
    aop := 0
    ord := f.ord.toNat
    scope := f.scope.toNat
    cl := f.cl.toNat
    val := 0
    cmp := 0
    tag := false
    poison := false
    d := none
    dk := 0
    caps := false
    ldc := c.has Perm.ldc
    cache := c.has Perm.cache
    ofl := remote && f.ofl == 1
    peer := if remote then some (c.cur / 2 ^ 54, c.colour) else none
    since := s.now
    batch := 0
    req := 0
    fenced := (s.lane lk).fenced
    passed := none
    site := some (s.site 0) }

/-- The access at an address of the device, or of the peer that its capability names. -/
def Acc.at (x : Acc) (a n : Nat) : Acc :=
  { x with
    addr := if x.peer.isSome then a % 2 ^ 54 else a
    size := n
    peer := match x.peer with | some (_, g) => some (a / 2 ^ 54, g) | none => none }

/-- Whether any of `n` registers from a field is poisoned for a lane. -/
def State.regsBad (s : State) (lk : Nat) (f : BitVec 9) (k n : Nat) : Bool :=
  let p := (s.lane lk).poison ++ (s.uniformPoison (groupOf lk)).map (· + 0x100)
  (List.range n).any fun j => p.contains (f.toNat + k + j)

/-- What a lane will do: its accesses with what the gate made of them, and the fault it takes after them. -/
structure Plan where
  accs : List (Acc × GateRes)
  fault : Option Flt
  deriving DecidableEq, Repr

def Plan.fail (e : Flt) : Plan := ⟨[], some e⟩

/-- The hole test and the gate for one access; a peer has its own. -/
def State.placeOf (s : State) (x : Acc) (far : Bool) : Except Flt GateRes :=
  if x.peer.isSome then .ok (.go x.addr false)
  else s.accPlace x.ctx x.core x.colour x.addr x.size (x.kind ≠ .load) (x.kind = .atom || x.kind = .acas) far

/-- How the faults of an access's place rank (R364): the hole, the frame, CAP_LOCAL, and then the frame's DATA_LOST. -/
def placeRank (code : Byte) : Nat :=
  if code = Code.addressHole then 0 else if code = Code.frameState then 1 else if code = Code.capLocal then 2 else 3

/-- The first in rank of the faults that some accesses of a lane give at their places; `extra` gives CAP_LOCAL. -/
def State.placeFault (s : State) (far : Bool) (extra : Acc → Option Flt) (xs : List Acc) : Option Flt :=
  minBy (fun e => placeRank e.code) (xs.flatMap fun x =>
    (match s.placeOf x far with | .error e => [e] | .ok _ => []) ++ (extra x).toList)

/-- An access with what the gate makes of it, where its place gives no fault. -/
def State.placed1 (s : State) (far : Bool) (x : Acc) : List (Acc × GateRes) :=
  match s.placeOf x far with | .ok r => [(x, r)] | .error _ => []

/-- Accesses granule by granule, up to the first that fails a check (R211, R255). -/
def State.placeAll (s : State) (far : Bool) (extra : Acc → Option Flt) : List (Nat × Acc) → Plan
  | [] => ⟨[], none⟩
  | (g, x) :: xs =>
    match s.placeFault far extra [x] with
    | some e => .fail { e with prog := 4 * g }
    | none => let p := s.placeAll far extra xs; ⟨s.placed1 far x ++ p.accs, p.fault⟩

/-- The accesses of an instruction that moves nothing when it fails: of LD, ST, LDC, STC, ATOM, ACAS and CDLG. Each test is made of all
of its bytes before the next (R14, R252, R364). -/
def State.placeWhole (s : State) (far : Bool) (extra : Acc → Option Flt) (a : Int) (xs : List Acc) : Plan :=
  match s.placeFault far extra xs with
  | some e => .fail (if e.code = Code.capLocal then e else { e with info := addrInfo a })
  | none => ⟨xs.flatMap (s.placed1 far), none⟩

/-- The registers that the lane's return point lets a transfer skip (R213). -/
def State.resumed (s : State) (lk : Nat) : Nat := match (s.lane lk).resume with | some r => r.prog / 4 | none => 0

/-! ## Running the plans -/

/-- An access that is performed in the core's L1, once the line is there (R240, R261). -/
def State.inL1 (s : State) (x : Acc) : Bool :=
  x.peer.isNone && regionOf x.addr = .local && !s.atHome x && !(x.bypass && x.kind = .store)

/-- An access that takes a request: it misses in L1, or is sent past it (R265). -/
def State.pastL1 (s : State) (x : Acc) : Bool :=
  if s.inL1 x then
    let u := s.unitOf x.ctx x.core
    let held := (s.sectorAt u x.ctx (x.addr / 16)).covers (byteMask (x.addr % 16) x.size)
    x.kind ≠ .store && !(held && (x.rmw || !x.bypass || s.lineDirty u x.ctx (x.addr / 128)))
  else x.peer.isSome || (regionOf x.addr ≠ .pad && regionOf x.addr ≠ .control)

/-- An atomic access at a home slice, which has a request of its own (R265). -/
def State.alone (s : State) (x : Acc) : Bool := (x.ord ≠ 0 || x.rmw) && !s.inL1 x

/-- The line of an access, of this device or of a peer. -/
def Acc.lineKey (x : Acc) : Nat := (match x.peer with | some (p, _) => (p + 1) * 2 ^ 64 | none => 0) + x.addr / 128

/-- A request for a block of an access's line. -/
def Acc.request (x : Acc) (bytes : Nat) : Req :=
  ⟨x.core, x.ctx, x.peer.isSome, x.addr / 128 * 128, bytes, !x.bypass, .lanes, none⟩

/-- The range of its line that an access touches. -/
def Acc.inLine (x : Acc) : Nat × Nat × Nat := (x.lineKey, x.addr % 128, x.addr % 128 + x.size - 1)

/-- Requests that some accesses form (R265). -/
def State.requestCount (s : State) (xs : List Acc) : Nat :=
  let far := xs.filter s.pastL1
  (far.filter s.alone).length + (coalesce ((far.filter fun x => !s.alone x).map Acc.inLine)).length

/-- The joined requests of some accesses admitted, one for a line: their numbers by line (R265). -/
def State.admitJoined (s : State) (xs : List Acc) : State × Tbl Nat :=
  (coalesce (xs.map Acc.inLine)).foldl (fun p b =>
    match xs.find? fun x => x.lineKey = b.1 with
    | some x => let (s1, n) := p.1.enter (x.request b.2); (s1, p.2.set b.1 n)
    | none => p) (s, [])

/-- The accesses of one lane with their requests: that of their line, or one of their own, admitted here. `s0` is the state
before the instruction. -/
def giveReqs (s0 : State) (lines : Tbl Nat) : List (Acc × GateRes) → State → State × List (Acc × GateRes)
  | [], s => (s, [])
  | (x, g) :: xs, s =>
    let (s1, n) :=
      if !s0.pastL1 x then (s, 0)
      else if s0.alone x then s.enter (x.request (blockSize (x.addr % 128) (x.addr % 128 + x.size - 1)))
      else (s, lines.getD x.lineKey 0)
    let (s2, ys) := giveReqs s0 lines xs s1
    (s2, ({ x with req := n }, g) :: ys)

/-- The plans of the lanes with their requests. -/
def planReqs (s0 : State) (lines : Tbl Nat) : List (Nat × Plan) → State → State × List (Nat × Plan)
  | [], s => (s, [])
  | (lk, p) :: ps, s =>
    let (s1, xs) := giveReqs s0 lines p.accs s
    let (s2, qs) := planReqs s0 lines ps s1
    (s2, (lk, { p with accs := xs }) :: qs)

/-- The requests of an instruction admitted together (R265, R352), and its loads and RMWs that hit and that missed in L1 counted, by
lane (R357); a .bypass load counts only where a dirty line serves it. -/
def State.admitPlans (s : State) (plans : List (Nat × Plan)) : State × List (Nat × Plan) :=
  let xs := plans.flatMap fun p => p.2.accs.map Prod.fst
  let (s1, lines) := s.admitJoined (xs.filter fun x => s.pastL1 x && !s.alone x)
  let (s2, plans) := planReqs s lines plans s1
  match xs with
  | [] => (s2, plans)
  | x :: _ =>
    let reads := xs.filter fun x => x.kind ≠ .store && s.inL1 x && (x.rmw || !x.bypass || !s.pastL1 x)
    let miss := (reads.filter s.pastL1).length
    ((s2.count x.ctx x.core 6 (reads.length - miss)).count x.ctx x.core 7 miss, plans)

/-- One half of a 32-byte load has been read at once; it waits for the other. -/
def State.keepHalf (s : State) (x : Acc) (v : AccVal) : State :=
  let (n, s1) := s.takeNum
  { s1 with outst := s1.outst.set n { x with place := .mate, got := some v } }

/-- The two halves of a 32-byte load started; they complete together (R32, R363). -/
def startPair (s : State) (x : Acc) (g : GateRes) (y : Acc) (h : GateRes) : State × Except Flt (List RegWrite) :=
  let (s1, v) := s.startAcc x g
  let (s2, w) := s1.startAcc y h
  match v, w with
  | some v, some w =>
    let s3 := s2.acquired x
    if x.spoiled v || y.spoiled w then (s3, .error x.poisonFlt) else (s3, .ok (x.writes s2 v ++ y.writes s2 w))
  | some v, none => (s2.keepHalf x v, .ok [])
  | none, some w => (s2.keepHalf y w, .ok [])
  | none, none => (s2, .ok [])

/-- The accesses of a lane started one after another; the writes of those that complete at once, or the POISON of an
acquire. -/
def startAll (s : State) : List (Acc × GateRes) → State × Except Flt (List RegWrite)
  | [] => (s, .ok [])
  | (x, g) :: xs =>
    let (s1, v) := s.startAcc x g
    let (s2, r) := startAll s1 xs
    match v, r with
    | none, r => (s2, r)
    | some v, .ok ws =>
      let s3 := s2.acquired x
      if x.spoiled v then (s3, .error x.poisonFlt) else (s3, .ok (x.writes s1 v ++ ws))
    | some _, .error e => (s2, .error e)

/-- The accesses of a lane's plan started. -/
def startPlan (s : State) (xs : List (Acc × GateRes)) : State × Except Flt (List RegWrite) :=
  match xs with
  | [(x, g), (y, h)] => if x.mate then startPair s x g y h else startAll s xs
  | _ => startAll s xs

/-- The plans of the lanes run in lane order. A lane that faults after some granules keeps what they moved (R213). -/
def runPlans : List (Nat × Plan) → State → State × List (Nat × LaneRes)
  | [], s => (s, [])
  | (lk, p) :: ps, s =>
    let (s1, r) := startPlan s p.accs
    let (s2, out) : State × LaneRes := match p.fault, r with
      | some e, .ok ws => (s1.writes lk ws, .error e)
      | some e, .error _ => (s1, .error e)
      | none, .ok ws => (s1, .ok (ws.map .rw))
      | none, .error e => (s1, .error e)
    let (s3, rs) := runPlans ps s2
    (s3, (lk, out) :: rs)

/-- The plans of the guard-true lanes, each from the state before the instruction. Only the lowest of them writes a uniform
destination (R32). `b` numbers the instruction. -/
def State.memPlans (s : State) (i : Instr) (plan : State → Nat → Plan) (b : Nat) : List (Nat × Plan) :=
  let ls := s.guardTrue (form i).guard
  ls.map fun lk =>
    let p := plan s lk
    let p := match p.fault, s.poisonOf i lk with | none, some e => Plan.fail e | _, _ => p
    let keep := fun (x : Acc) =>
      match x.d with
      | some d => if 0x140 ≤ d.toNat || (0x100 ≤ d.toNat && ls.head? ≠ some lk) then none else some d
      | none => none
    (lk, { p with accs := p.accs.map fun y => ({ y.1 with batch := b, d := keep y.1 }, y.2) })

/-- A memory instruction: its requests are admitted together and the plans of its lanes are run. -/
def memBody (i : Instr) (plan : State → Nat → Plan) (s : State) : State :=
  let (b, s1) := s.takeNum
  let (s2, plans) := s1.admitPlans (s.memPlans i plan b)
  let (s3, rs) := runPlans plans s2
  s3.commit rs (s.guardTrue (form i).guard).head? false

/-- A memory instruction in its frame. -/
def memInstr (i : Instr) (plan : State → Nat → Plan) (s : State) : Res := instr i s fun s => .next (memBody i plan s)

/-- No further check. -/
def noExtra (_ : Acc) : Option Flt := none

/-! ## LD, ST, LDC, STC -/

/-- LD (R254): a .b256 access is two granules, which complete together. -/
def ldPlan (f : FmtM) (s : State) (lk : Nat) : Plan :=
  let n := tySize f.ty.toNat
  let a := s.memAddr lk f n
  match s.accPre (s.laneColour lk) (s.quad lk f.q) accData Perm.ld a n (min n 16) false with
  | .error e => .fail e
  | .ok x =>
    let t := { s.newAcc lk f .load with d := some f.d }
    s.placeWhole true noExtra a
      (if n = 32 then [{ t.at x 16 with mate := true }, { t.at (x + 16) 16 with dk := 4, mate := true }] else [t.at x n])

def execLd (f : FmtM) (s : State) : Res := memInstr (.ld f) (ldPlan f) s

/-- The value of `n` bytes from register `k` of a field on. -/
def State.storeVal (s : State) (lk : Nat) (f : BitVec 9) (k n : Nat) : Quad :=
  quadBytes (s.reg lk f (k + 3) ++ s.reg lk f (k + 2) ++ s.reg lk f (k + 1) ++ s.reg lk f k) 0 n

/-- A store access of `n` bytes from register `k` of a field on. -/
def State.storeAcc (s : State) (lk : Nat) (f : FmtM) (a k n : Nat) : Acc :=
  { (s.newAcc lk f .store).at a n with
    val := s.storeVal lk f.d k n
    poison := s.regsBad lk f.d k (max 1 (n / 4)) }

/-- ST (R254). -/
def stPlan (f : FmtM) (s : State) (lk : Nat) : Plan :=
  let n := tySize f.ty.toNat
  let a := s.memAddr lk f n
  match s.accPre (s.laneColour lk) (s.quad lk f.q) accData Perm.st a n (min n 16) true with
  | .error e => .fail e
  | .ok x =>
    s.placeWhole false noExtra a
      (if n = 32 then [s.storeAcc lk f x 0 16, s.storeAcc lk f (x + 16) 4 16] else [s.storeAcc lk f x 0 n])

def execSt (f : FmtM) (s : State) : Res := memInstr (.st f) (stPlan f) s

/-- LDC (R109, R254). -/
def ldcPlan (f : FmtM) (s : State) (lk : Nat) : Plan :=
  let a := s.memAddr lk f 16
  match s.accPre (s.laneColour lk) (s.quad lk f.q) accLocal Perm.ld a 16 16 false with
  | .error e => .fail e
  | .ok x => s.placeWhole false noExtra a [{ (s.newAcc lk f .load).at x 16 with d := some f.d, caps := true }]

def execLdc (f : FmtM) (s : State) : Res := memInstr (.ldc f) (ldcPlan f) s

/-- STC (R109, R110, R254). -/
def stcPlan (f : FmtM) (s : State) (lk : Nat) : Plan :=
  let a := s.memAddr lk f 16
  let (q, t) := s.quad lk f.d
  match s.accPre (s.laneColour lk) (s.quad lk f.q) accLocal (Perm.st ||| Perm.stc) a 16 16 true with
  | .error e => .fail e
  | .ok x =>
    s.placeWhole false (fun y => s.capLocal y.team q t y.addr) a [{ s.storeAcc lk f x 0 16 with tag := s.filtered q t }]

def execStc (f : FmtM) (s : State) : Res := memInstr (.stc f) (stcPlan f) s

/-! ## LDM, STM, SPILL and FILL -/

/-- The granules that a transfer of `n` registers still has to move. -/
def granulesLeft (first n : Nat) : List Nat := (List.range (n / 4)).filter (first ≤ ·)

/-- LDM (R255): plain accesses; ORD and SCOPE hold the count. -/
def ldmPlan (f : FmtM) (s : State) (lk : Nat) : Plan :=
  let n := 4 * (countBits f + 1)
  let a := s.memAddr lk f 16
  match s.accPre (s.laneColour lk) (s.quad lk f.q) accData Perm.ld a (4 * n) 16 false with
  | .error e => .fail { e with prog := 4 * s.resumed lk }
  | .ok x =>
    let t := { s.newAcc lk f .load with d := some f.d, ord := 0, scope := 0 }
    s.placeAll true noExtra ((granulesLeft (s.resumed lk) n).map fun g => (g, { t.at (x + 16 * g) 16 with dk := 4 * g }))

def execLdm (f : FmtM) (s : State) : Res := memInstr (.ldm f) (ldmPlan f) s

/-- STM (R255). -/
def stmPlan (f : FmtM) (s : State) (lk : Nat) : Plan :=
  let n := 4 * (countBits f + 1)
  let a := s.memAddr lk f 16
  match s.accPre (s.laneColour lk) (s.quad lk f.q) accData Perm.st a (4 * n) 16 true with
  | .error e => .fail { e with prog := 4 * s.resumed lk }
  | .ok x =>
    s.placeAll false noExtra ((granulesLeft (s.resumed lk) n).map fun g =>
      (g, { s.storeAcc lk f (x + 16 * g) (4 * g) 16 with ord := 0, scope := 0 }))

def execStm (f : FmtM) (s : State) : Res := memInstr (.stm f) (stmPlan f) s

/-- SPILL in memory form (R211). -/
def spillPlan (f : FmtM) (s : State) (lk : Nat) : Plan :=
  let n := 8 * (countBits f + 1)
  let a := s.memAddr lk f 16
  let stc := (Cap.ofQuad (s.quadBits lk f.q 0)).has Perm.stc
  match s.accPre (s.laneColour lk) (s.quad lk f.q) accLocal Perm.st a (4 * n) 16 true with
  | .error e => .fail { e with prog := 4 * s.resumed lk }
  | .ok x =>
    s.placeAll false (fun y => s.capLocal y.team y.val y.caps y.addr)
      ((granulesLeft (s.resumed lk) n).map fun g =>
        let q := s.quadBits lk f.d g
        let t := stc && s.quadTag lk f.d g
        (g, { s.storeAcc lk f (x + 16 * g) (4 * g) 16 with ord := 0, scope := 0, caps := t, tag := s.filtered q t }))

def execSpillMemory (f : FmtM) (s : State) : Res := memInstr (.spillMemory f) (spillPlan f) s

/-- FILL in memory form (R211). -/
def fillPlan (f : FmtM) (s : State) (lk : Nat) : Plan :=
  let n := 8 * (countBits f + 1)
  let a := s.memAddr lk f 16
  match s.accPre (s.laneColour lk) (s.quad lk f.q) accLocal Perm.ld a (4 * n) 16 false with
  | .error e => .fail { e with prog := 4 * s.resumed lk }
  | .ok x =>
    let t := { s.newAcc lk f .load with d := some f.d, caps := true, ord := 0, scope := 0 }
    s.placeAll false noExtra ((granulesLeft (s.resumed lk) n).map fun g => (g, { t.at (x + 16 * g) 16 with dk := 4 * g }))

def execFillMemory (f : FmtM) (s : State) : Res := memInstr (.fillMemory f) (fillPlan f) s

/-! ## ATOM and ACAS -/

abbrev permAtom : BitVec 12 := Perm.ld ||| Perm.st ||| Perm.atom

/-- ATOM (R256): X names the operand. -/
def atomPlan (f : FmtM) (s : State) (lk : Nat) : Plan :=
  let n := tySize f.ty.toNat
  let a := s.atomAddr lk f n
  match s.accPre (s.laneColour lk) (s.quad lk f.q) accData permAtom a n n true with
  | .error e => .fail e
  | .ok x =>
    s.placeWhole false noExtra a [{ (s.newAcc lk f .atom).at x n with
      d := some f.d, aop := f.off.toNat / 32, val := s.storeVal lk f.x 0 n }]

def execAtom (f : FmtM) (s : State) : Res := memInstr (.atom f) (atomPlan f) s

/-- ACAS (R257): D holds the compare value, X the new one. -/
def acasPlan (f : FmtM) (s : State) (lk : Nat) : Plan :=
  let n := tySize f.ty.toNat
  let a := s.atomAddr lk f n
  match s.accPre (s.laneColour lk) (s.quad lk f.q) accData permAtom a n n true with
  | .error e => .fail e
  | .ok x =>
    s.placeWhole false noExtra a [{ (s.newAcc lk f .acas).at x n with
      d := some f.d, cmp := s.storeVal lk f.d 0 n, val := s.storeVal lk f.x 0 n }]

def execAcas (f : FmtM) (s : State) : Res := memInstr (.acas f) (acasPlan f) s

/-! ## FENCE -/

/-- The write-back and discard of a fence of an order and scope by a core (R238, R240, R242). -/
def State.fenceL1 (s : State) (c core ord scope : Nat) : State :=
  let u := s.unitOf c core
  let s1 := if ord ≠ 2 && 2 ≤ scope then s.flushAll u c else s
  if ord ≠ 3 && 2 ≤ scope then s1.discardClean u c else s1

/-- An XBULK of some threads whose packets have not been sent yet: it counts as remote stores (R302). -/
def State.bulkOwed (s : State) (t : Nat) (tids : List Nat) : Bool :=
  s.cmds.any fun p => (p.2.state = .queued || (p.2.state = .running && !p.2.moved)) && p.2.team = t && tids.contains p.2.tid &&
    (match p.2.body with | .bulk _ _ _ => true | _ => false)

/-- A fence of some threads still waits for an acknowledgement: remote stores and RMWs, and at .sys host stores (R418). -/
def State.unacked (s : State) (t scope : Nat) (tids : List Nat) : Bool :=
  (s.outst.any fun p =>
    p.2.team = t && tids.contains p.2.tid && p.2.kind ≠ .load &&
      (p.2.peer.isSome || (scope = 5 && p.2.place = .host))) || s.bulkOwed t tids

/-- A fence waits until its threads' earlier loads have returned and their earlier stores to this device, its windows and the
host are performed, an .sc fence (R237) until all are; with .ack, also for every acknowledgement. -/
def State.fenceWaits (s : State) (x : FencePend) : Bool :=
  (s.outst.any fun p => p.2.team = x.team && x.tids.contains p.2.tid &&
    (p.2.kind = .load || p.2.peer.isNone || x.ord = 5)) || (x.ack && s.unacked x.team x.scope x.tids)

/-- FENCE (R259): it issues at once, and the next instruction of its threads waits for it. -/
def execFence (f : FmtM) (s : State) : Res :=
  instr (.fence f) s fun s =>
    let ls := s.guardTrue f.g
    let t := s.teamOf s.cur.gkey
    let c := s.ctxOf s.cur.gkey
    let tids := ls.map fun lk => (s.lane lk).tid
    let s1 := if ls.isEmpty then s else s.fenceL1 c s.cur.core f.ord.toNat f.scope.toNat
    let s2 :=
      let x : FencePend := ⟨t, s.cur.core, c, f.ord.toNat, f.scope.toNat, f.ack == 1, tids⟩
      if s1.fenceWaits x then
        let (n, s2) := s1.takeNum
        { s2 with fences := s2.fences.set n x }
      else s1
    let s3 := if f.ord == 2 then s2
      else ls.foldl (fun s lk => s.modLane lk fun l => { l with fenced := f.scope.toNat < 2 }) s2
    .next (s3.commit (ls.map fun lk => (lk, .ok [])) none false)

/-- A fence that need wait no longer. -/
def State.fenceDue (s : State) (x : FencePend) : Bool := !s.fenceWaits x

/-- FENCE_COMPLETE (R418). -/
def execFenceComplete (fence : Nat) (s : State) : Res :=
  match s.fences.get? fence with
  | some x =>
    if s.fenceDue x then .next (({ s with fences := s.fences.erase fence }).fenceL1 x.ctx x.core x.ord x.scope)
    else skipEvent s
  | none => skipEvent s

/-! ## PREF, CCTL, ILINE, RETAIN -/

/-- The granules of a line that an L1 does not hold, by place in the line. -/
def State.missing (s : State) (u c line : Nat) : List Nat :=
  (List.range 8).filter fun k => !(s.sectorAt u c (line * 8 + k)).valid

/-- A PREF has asked for a line of an L1 and waits for it. -/
def State.fillAsked (s : State) (u c line : Nat) : Bool :=
  s.reqs.any fun p => p.2.ctx = c && (match p.2.user with | .fill v _ a => v = u && a / 128 = line | _ => false)

/-- What a request brings: the line of a PREF stands in the L1 that asked for it, as CL directs for the address asked for (R259,
R261), while the context still uses that L1 and the frame lets the access pass. -/
def State.filled (s : State) (r : Req) : State :=
  match r.user with
  | .fill u cl a =>
    if s.unitOf r.ctx r.core ≠ u || ((s.ctx r.ctx).alloc.get? r.core).isNone then s
    else match s.accPlace r.ctx r.core (s.ctx r.ctx).colour a 1 false false true with
      | .ok (.go _ _) =>
        (s.missing u r.ctx (a / 128)).foldl (fun s k => s.fillL1 u r.ctx (a / 128 * 128 + 16 * k) cl) (s.lineFor u r.ctx a cl)
      | _ => s
  | _ => s

/-- PREF for one lane (R259): a request for each line of a checked range of local memory that the L1 does not hold whole. -/
def prefLane (f : FmtM) (s0 s : State) (lk : Nat) : State :=
  let n := tySize f.ty.toNat
  let a := s0.memAddr lk f n
  let c := Cap.ofQuad (s0.quadBits lk f.q 0)
  let ctx := s0.laneCtx lk
  match s0.accPre (s0.laneColour lk) (s0.quad lk f.q) accData Perm.ld a n (min n 16) false with
  | .error _ => s
  | .ok x =>
    if c.kind = Kind.remote || f.cl == 3 || !c.has Perm.cache || regionOf x ≠ .local then s
    else match s0.accPlace ctx s0.cur.core (s0.laneColour lk) x 1 false false true,
        s0.accPlace ctx s0.cur.core (s0.laneColour lk) (x + n - 1) 1 false false true with
      | .ok (.go _ _), .ok (.go _ _) =>
        let u := s0.unitOf ctx s0.cur.core
        let lines := [x] ++ (if x / 128 = (x + n - 1) / 128 then [] else [x + n - 1])
        lines.foldl (fun s b =>
          if s.missing u ctx (b / 128) = [] || s.fillAsked u ctx (b / 128) then s
          else (s.enter ⟨s0.cur.core, ctx, false, b / 128 * 128, 128, true, .fill u f.cl.toNat b, none⟩).1) s
      | _, _ => s

def execPref (f : FmtM) (s : State) : Res :=
  instr (.pref f) s fun s =>
    let ls := s.guardTrue f.g
    let s1 := ls.foldl (fun s' lk => prefLane f s s' lk) s
    .next (s1.commit (ls.map fun lk => (lk, .ok [])) none false)

/-- The check of CCTL and ILINE (R252 with n = 1): the address, when its line may be in L1 or holds code. -/
def State.lineCheck (s : State) (lk : Nat) (f : FmtM) (acc : List Nat) (perm : BitVec 12) : Except Flt Nat :=
  match s.accPre (s.laneColour lk) (s.quad lk f.q) acc perm (s.memAddr lk f 1) 1 1 false with
  | .error e => .error e
  | .ok x => match s.accPlace (s.laneCtx lk) s.cur.core (s.laneColour lk) x 1 false false false with
    | .error e => .error e
    | .ok _ => .ok x

/-- A CCTL operation on the line of an address, in the L1 of a lane's core (R263). -/
def cctlLane (op : State → Nat → Nat → Nat → State) (f : FmtM) (s0 s : State) (lk : Nat) : State × LaneRes :=
  match s0.lineCheck lk f accLocal Perm.ld with
  | .error e => (s, .error e)
  | .ok x =>
    let c := s0.laneCtx lk
    (if regionOf x = .local then op s (s.unitOf c s.cur.core) c (x / 128) else s, .ok [])

/-- The clean sectors of a line dropped. -/
def State.cctlInv (s : State) (u c line : Nat) : State :=
  let s1 := s.modLine u c line fun l => { l with sectors := l.sectors.filter fun p => p.2.dirty ≠ 0 }
  { s1 with l1 := tidyLines s1.l1 }

def execCctlWb (f : FmtM) (s : State) : Res := seqInstr (.cctlWb f) (cctlLane State.flushKeep f) s
def execCctlInv (f : FmtM) (s : State) : Res := seqInstr (.cctlInv f) (cctlLane State.cctlInv f) s
def execCctlWbinv (f : FmtM) (s : State) : Res := seqInstr (.cctlWbinv f) (cctlLane State.flushDrop f) s
def execCctlWball (f : FmtM) (s : State) : Res :=
  onceInstr (.cctlWball f) (fun s l => (s.flushAll (s.unitOf (s.laneCtx l) s.cur.core) (s.laneCtx l), .ok [])) s

/-- ILINE for one lane (R267). -/
def ilineLane (f : FmtM) (s0 s : State) (lk : Nat) : State × LaneRes :=
  match s0.lineCheck lk f [Kind.data, Kind.code] 0 with
  | .error e => (s, .error e)
  | .ok x =>
    let reach := fun (l : ILine) =>
      if f.ty == 0 then decide (l.core = s.cur.core)
      else match (s.ctx (s0.laneCtx lk)).alloc.get? l.core with | some a => a.member | none => false
    ({ s with icache := s.icache.filter fun l => !(l.line = x / 128 && reach l) }, .ok [])

def execIline (f : FmtM) (s : State) : Res := seqInstr (.iline f) (ilineLane f) s

/-- The cores whose slices a RETAIN reaches (R262). -/
def State.retainCores (s : State) (c core : Nat) : List Nat :=
  if s.unitOf c core = core then [core] else (List.range 8).map (core / 8 * 8 + ·)

/-- A span put on some cores. -/
def State.putSpan (s : State) (c i : Nat) (x : Span) (cores : List Nat) : State :=
  s.modCtx c fun y => { y with spans := cores.foldl (fun t k => t.set (k * 4 + i) x) y.spans }

/-- Lines beyond the ways that their class now has leave their sets on some cores (R260, R262). -/
def State.trimSets (s : State) (c : Nat) (cores : List Nat) : State :=
  (s.l1.filter fun l => l.ctx = c && cores.contains (sliceCore l.unit l.line)).foldl (fun s l =>
    if s.waysFor l.unit c l.line l.span < (s.classLines l.unit c l.line l.span).length then s.evictOne l.unit c l.line l.span
    else s) s

/-- RETAIN.set (R262): the control word is read from D, and the status replaces it. -/
def retainSetOnce (f : FmtM) (s : State) (l : Nat) : State × LaneRes :=
  let w := s.reg1 l f.d
  let q := s.quad l f.q
  let cap := Cap.ofQuad q.1
  let c := s.laneCtx l
  let i := f.off.toNat % 4
  let ways := (w.extractLsb' 0 4).toNat
  let cores := s.retainCores c s.cur.core
  match checkAccess q (s.laneColour l) accLocal Perm.ld cap.base cap.len with
  | some e => (s, .error e)
  | none =>
    let others := fun k => sumBy (fun j => if j = i then 0 else (s.span c k j).ways) (List.range 4)
    if cores.any fun k => s.waysOf k c 0 < others k + ways + 1 then (s, okReg f.d 1)
    else
      ((s.putSpan c i ⟨cap.base.toNat, cap.top.toNat, ways, (w.extractLsb' 4 3).toNat, 0⟩ cores).trimSets c cores, okReg f.d 0)

def execRetainSet (f : FmtM) (s : State) : Res := onceInstr (.retainSet f) (retainSetOnce f) s

/-- RETAIN.clr (R262): the ways are released and the span's lines stay as ordinary ones. -/
def retainClrOnce (f : FmtM) (s : State) (l : Nat) : State × LaneRes :=
  let c := s.laneCtx l
  let i := f.off.toNat % 4
  let cores := s.retainCores c s.cur.core
  let s1 := s.putSpan c i ⟨0, 0, 0, 0, 0⟩ cores
  ({ s1 with l1 := s1.l1.map fun x =>
      if x.ctx = c && cores.contains (sliceCore x.unit x.line) && x.span = i + 1 then { x with span := 0 } else x }, .ok [])

def execRetainClr (f : FmtM) (s : State) : Res := onceInstr (.retainClr f) (retainClrOnce f) s

end Sys2Proof.Machine
end

