-- ==== Sys2Proof/Machine/Crypto.lean ====
section
/-! DEFINITION. The cryptographic functions the spec names and whose results a program can see: SHAKE256 (R131, R328, R424),
the AES-256-GCM-SIV variant of R103, and the AES-256-GCM tag of R337. All are concrete; keys are not (Config). -/

namespace Sys2Proof.Machine

/-! ## SHAKE256 (FIPS 202). The 25 lanes stand in one list, lane (x, y) at 5y + x. -/

/-- The register that feeds the constants of ι, one step on. -/
def keccakLfsr (r : Byte) : Byte := (r <<< 1) ^^^ (if r.getLsbD 7 then 0x71 else 0)

/-- The register after `n` steps from 1. -/
def lfsrAfter : Nat → Byte
  | 0 => 1
  | n + 1 => keccakLfsr (lfsrAfter n)

/-- The constant of a round: bit 2^j - 1 is the register's bit 0 after 7 × round + j steps. -/
def iotaWord (round : Nat) : DWord :=
  (List.range 7).foldl (fun w j => if (lfsrAfter (7 * round + j)).getLsbD 0 then w ||| (1#64 <<< (2 ^ j - 1)) else w) 0

/-- The walk of ρ and π from lane (1, 0): the lane after (x, y) is (y, 2x + 3y). -/
def piNext (i : Nat) : Nat := (2 * (i % 5) + 3 * (i / 5)) % 5 * 5 + i / 5

/-- ρ and π along the walk, `left` steps to go: step t turns its lane by (t + 1)(t + 2) / 2 into the next lane's place. -/
def rhoPi (a : List DWord) : Nat → Nat → Nat → List DWord → List DWord
  | 0, _, _, b => b
  | left + 1, t, i, b =>
    rhoPi a left (t + 1) (piNext i) (b.set (piNext i) ((a.getD i 0).rotateLeft ((t + 1) * (t + 2) / 2 % 64)))

/-- θ: each lane takes the parities of the sheets beside its own. -/
def theta (a : List DWord) : List DWord :=
  let parity := fun x => (List.range 5).foldl (fun p y => p ^^^ a.getD (5 * y + x) 0) 0
  let mix := (List.range 5).map fun x => parity ((x + 4) % 5) ^^^ (parity ((x + 1) % 5)).rotateLeft 1
  a.zipWith (· ^^^ ·) (mix ++ mix ++ mix ++ mix ++ mix)

/-- χ on one row. -/
def chiRow (r : List DWord) : List DWord :=
  let turn := fun n => r.drop n ++ r.take n
  r.zipWith (· ^^^ ·) (List.zipWith (fun p q => ~~~p &&& q) (turn 1) (turn 2))

/-- One round: θ, ρ and π, χ row by row, and ι on lane 0. -/
def keccakRound (a : List DWord) (round : Nat) : List DWord :=
  let t := theta a
  let b := rhoPi t 24 0 1 t
  let c := (List.range 5).flatMap fun y => chiRow ((b.drop (5 * y)).take 5)
  c.modify 0 (· ^^^ iotaWord round)

/-- Keccak-f[1600]. -/
def keccakF (a : List DWord) : List DWord := (List.range 24).foldl keccakRound a

/-- A message of whole 136-byte blocks absorbed: its bytes enter the first seventeen lanes. -/
def sponge : Nat → List Byte → List DWord → List DWord
  | 0, _, a => a
  | n + 1, m, a =>
    let block := (List.range 17).map fun i => BitVec.ofNat 64 (bytesNat ((m.drop (8 * i)).take 8))
    sponge n (m.drop 136) (keccakF (a.zipWith (· ^^^ ·) (block ++ List.replicate 8 0)))

/-- The padding of SHAKE256: the domain bits and the first 1 bit make 1F, the last bit of the block is the other 1. -/
def shakePad (m : List Byte) : List Byte :=
  let z := 135 - m.length % 136
  m ++ (if z = 0 then [0x9F] else 0x1F :: (List.replicate (z - 1) 0 ++ [0x80]))

/-- The first 32 bytes of SHAKE256. -/
def shake256 (m : List Byte) : List Byte :=
  let p := shakePad m
  ((sponge (p.length / 136) p (List.replicate 25 0)).take 4).flatMap fun x => natBytes 8 x.toNat

/-! ## AES-256 (FIPS 197) -/

/-- The substitution box, byte `x` at bits [8x+7:8x]. -/
def aesSbox : Nat :=
  0x16bb54b00f2d99416842e6bf0d89a18cdf2855cee9871e9b948ed9691198f8e19e1dc186b95735610ef6034866b53e708a8bbd4b1f74dde8c6b4a61c2e2578ba08ae7a65eaf4566ca94ed58d6d37c8e779e4959162acd3c25c2406490a3a32e0db0b5ede14b8ee4688902a22dc4f816073195d643d7ea7c41744975fec130ccdd2f3ff1021dab6bcf5389d928f40a351a89f3c507f02f94585334d43fbaaefd0cf584c4a39becb6a5bb1fc20ed00d153842fe329b3d63b52a05a6e1b1a2c830975b227ebe28012079a059618c323c7041531d871f1e5a534ccf73f362693fdb7c072a49cafa2d4adf04759fa7dc982ca76abd7fe2b670130c56f6bf27b777c63

/-- A byte substituted. -/
def subByte (b : Byte) : Byte := BitVec.ofNat 8 (aesSbox >>> (8 * b.toNat))

/-- A byte times x. -/
def xtime (b : Byte) : Byte := (b <<< 1) ^^^ (if b.getLsbD 7 then 0x1B else 0)

/-- Bytes combined by exclusive or. -/
def xorBytes (a b : List Byte) : List Byte := List.zipWith (· ^^^ ·) a b

/-- The round constant `i` (from 1). -/
def aesRcon : Nat → Byte
  | 0 => 0x8D
  | n + 1 => xtime (aesRcon n)

/-- Key schedule words, newest first, extended on fuel; `i` is the number of the next word. -/
def aesExpand : Nat → Nat → List (List Byte) → List (List Byte)
  | 0, _, ws => ws
  | n + 1, i, ws =>
    let prev := ws.headD []
    let t :=
      if i % 8 = 0 then
        xorBytes (((prev.drop 1) ++ (prev.take 1)).map subByte) [aesRcon (i / 8), 0, 0, 0]
      else if i % 8 = 4 then prev.map subByte
      else prev
    aesExpand n (i + 1) (xorBytes (ws.getD 7 []) t :: ws)

/-- The fifteen round keys of a 32-byte key. -/
def aesKeys (key : List Byte) : List (List Byte) :=
  let w0 := ((List.range 8).map fun i => (key.drop (4 * i)).take 4).reverse
  let ws := (aesExpand 52 8 w0).reverse
  (List.range 15).map fun r => ((ws.drop (4 * r)).take 4).flatten

/-- ShiftRows on the 16 bytes in column order. -/
def shiftRows (s : List Byte) : List Byte :=
  (List.range 16).map fun i => s.getD ((i + 4 * (i % 4)) % 16) 0

/-- MixColumns on one column. -/
def mixColumn (c : List Byte) : List Byte :=
  let b := fun k => c.getD (k % 4) 0
  (List.range 4).map fun k => xtime (b k) ^^^ (xtime (b (k + 1)) ^^^ b (k + 1)) ^^^ b (k + 2) ^^^ b (k + 3)

/-- MixColumns. -/
def mixColumns (s : List Byte) : List Byte :=
  (List.range 4).flatMap fun i => mixColumn ((s.drop (4 * i)).take 4)

/-- One block under AES-256. -/
def aes256 (key block : List Byte) : List Byte :=
  let ks := aesKeys key
  let s0 := xorBytes block (ks.getD 0 [])
  let s13 := (List.range 13).foldl (fun s r =>
    xorBytes (mixColumns (shiftRows (s.map subByte))) (ks.getD (r + 1) [])) s0
  xorBytes (shiftRows (s13.map subByte)) (ks.getD 14 [])

/-! ## AES-256-GCM-SIV as R103 uses it -/

/-- The field product of POLYVAL (RFC 8452): a × b × x^−128. -/
def polyDot (a b : Nat) : Nat :=
  (List.range 128).foldl (fun acc i =>
    let acc := if a.testBit i then acc ^^^ b else acc
    if acc % 2 = 1 then (acc ^^^ (2 ^ 128 + 2 ^ 127 + 2 ^ 126 + 2 ^ 121 + 1)) / 2 else acc / 2) 0

/-- POLYVAL of blocks under a key. -/
def polyval (h : Nat) (blocks : List Nat) : Nat := blocks.foldl (fun s x => polyDot (s ^^^ x) h) 0

/-- The keys that RFC 8452 derives from a key and a nonce: authentication (16 bytes) and encryption (32 bytes). -/
def sivKeys (key nonce : List Byte) : List Byte × List Byte :=
  let blk := fun i => (aes256 key (natBytes 4 i ++ nonce)).take 8
  (blk 0 ++ blk 1, blk 2 ++ blk 3 ++ blk 4 ++ blk 5)

/-- The tag T over 16 bytes of plaintext with no associated data (RFC 8452). -/
def sivTag (key nonce pt : List Byte) : List Byte :=
  let (ak, ek) := sivKeys key nonce
  let s := natBytes 16 (polyval (bytesNat ak) [bytesNat pt, 128 * 2 ^ 64])
  let x := xorBytes (s.take 12) nonce ++ s.drop 12
  aes256 ek (x.take 15 ++ (x.drop 15).map (· &&& 0x7F))

/-- The keystream of R103: the counter block is the MAC, eight zero bytes, and the top bit of byte 15. -/
def sivStream (key nonce mac : List Byte) : List Byte :=
  aes256 (sivKeys key nonce).2 (mac ++ List.replicate 7 0 ++ [0x80])

/-- The nonce of R103: four zero bytes and the header, blob bytes 24 to 31. -/
def blobNonce (header : DWord) : List Byte := List.replicate 4 0 ++ natBytes 8 header.toNat

/-- A blob (R103): a 64-bit header, the MAC, and the encrypted capability. -/
def sealBlob (key : BitVec 256) (header : DWord) (cap : Quad) : BitVec 256 :=
  let k := natBytes 32 key.toNat
  let n := blobNonce header
  let pt := natBytes 16 cap.toNat
  let mac := (sivTag k n pt).take 8
  let ct := xorBytes pt (sivStream k n mac)
  header ++ BitVec.ofNat 64 (bytesNat mac) ++ BitVec.ofNat 128 (bytesNat ct)

/-- The capability of a blob, when its MAC is right under the key (R103, R104). -/
def openBlob (key : BitVec 256) (blob : BitVec 256) : Option Quad :=
  let k := natBytes 32 key.toNat
  let n := blobNonce (blob.extractLsb' 192 64)
  let mac := natBytes 8 (blob.extractLsb' 128 64).toNat
  let pt := xorBytes (natBytes 16 (blob.extractLsb' 0 128).toNat) (sivStream k n mac)
  if (sivTag k n pt).take 8 = mac then some (BitVec.ofNat 128 (bytesNat pt)) else none

/-- The header of a blob: issuer, target, key ID, grant number (R103). -/
def blobHeader (issuer target keyId grant : Nat) : DWord :=
  BitVec.ofNat 10 issuer ++ BitVec.ofNat 10 target ++ BitVec.ofNat 12 keyId ++ BitVec.ofNat 12 grant ++ 0#20

/-! ## AES-256-GCM over associated data (R337) -/

/-- The big-endian number of a list of bytes. -/
def beNat (l : List Byte) : Nat := l.foldl (fun n b => n * 256 + b.toNat) 0

/-- The `n` big-endian bytes of a number. -/
def beBytes (n x : Nat) : List Byte := (natBytes n x).reverse

/-- The field product of GHASH. -/
def ghashMul (x y : Nat) : Nat :=
  ((List.range 128).foldl (fun (p : Nat × Nat) i =>
    let z := if x.testBit (127 - i) then p.1 ^^^ p.2 else p.1
    (z, if p.2 % 2 = 1 then p.2 / 2 ^^^ 0xE1000000000000000000000000000000 else p.2 / 2)) (0, y)).1

/-- Blocks of 16 bytes, the last padded with zeros, on fuel. -/
def blocks16 : Nat → List Byte → List Nat
  | 0, _ => []
  | n + 1, l => if l.isEmpty then [] else beNat (l.take 16 ++ List.replicate (16 - l.length) 0) :: blocks16 n (l.drop 16)

/-- The GCM tag over associated data with no plaintext. -/
def gcmTag (key : BitVec 256) (nonce aad : List Byte) : List Byte :=
  let k := natBytes 32 key.toNat
  let h := beNat (aes256 k (List.replicate 16 0))
  let s := (blocks16 (aad.length + 1) aad ++ [8 * aad.length * 2 ^ 64]).foldl (fun s x => ghashMul (s ^^^ x) h) 0
  xorBytes (beBytes 16 s) (aes256 k (nonce ++ [0, 0, 0, 1]))

end Sys2Proof.Machine
end

