-- ==== Sys2Proof/Machine/Special.lean ====
section
/-! DEFINITION. Special registers and performance counters: SREAD, SWRITE and PERFRD (R131 to R133, R356 to R358). -/

namespace Sys2Proof.Machine

/-- The 256-bit hash of the match-and-replace table, output byte 0 lowest (R131). -/
def State.mrtHash (s : State) : Nat := bytesNat (shake256 s.mrt)

/-- The physical clusters of a die's 32 logical ones (R6, R7): each choice takes one of those that are left, so that none is
taken twice. -/
def physClusters (die : Nat) : List Nat :=
  ((List.range 32).foldl (fun (t : List Nat × List Nat) j =>
    let c := t.2.getD (Config.physChoice die j % t.2.length) 0
    (t.1 ++ [c], t.2.erase c)) ([], List.range 36)).1

/-- PCORE (R7). -/
def pcore (core : Nat) : Nat :=
  core / 256 * 512 + (physClusters (core / 256)).getD (core / 8 % 32) 0 * 8 + core % 8

/-- RGP (R200). -/
def rgpWord (rg : Option RgRun) : Word :=
  match rg with
  | some r => if r.started then BitVec.ofNat 12 r.total ++ BitVec.ofNat 12 r.done ++ 1#8 else 0
  | none => 0

/-- The grid coordinates of a team index, x fastest (R130). -/
def gridCoord (n : Nat × Nat × Nat) (i : Nat) : Nat × Nat × Nat := (i % n.1, i / n.1 % n.2.1, i / n.1 / n.2.1)

/-- The value of a special register for a lane (R131). KEY is the thread's own key, as its row of the table has it, although the
closing sentence of R131 names LANE and TID alone as what differs within a lane set (log entry 80). -/
def State.special (s : State) (lk sel im : Nat) : Nat :=
  let l := s.lane lk
  let g := s.group (groupOf lk)
  let m := s.team g.team
  let x := s.ctx m.ctx
  let core := coreOf (groupOf lk)
  let (tx, ty, tz) := gridCoord m.nteam m.index
  let clk := s.clock m.ctx % 2 ^ 64
  match sel with
  | 0x01 => posOf lk
  | 0x02 => g.number
  | 0x03 => l.tid
  | 0x04 => tx
  | 0x05 => ty
  | 0x06 => tz
  | 0x07 => m.nteam.1
  | 0x08 => m.nteam.2.1
  | 0x09 => m.nteam.2.2
  | 0x0A => g.role
  | 0x0B => l.key
  | 0x0C => m.rgen.toNat
  | 0x0D => core
  | 0x0E => core / 8
  | 0x0F => s.parish
  | 0x10 => x.colour
  | 0x11 => m.ctx
  | 0x12 => clk
  | 0x13 => clk * 4 / 5
  | 0x14 => m.ver
  | 0x15 => 1
  | 0x16 => Config.revision.toNat
  | 0x17 => s.mrtHash / 2 ^ (32 * im)
  | 0x18 => s.sweepDone
  | 0x19 => s.sweepCur
  | 0x1A => (rgpWord m.rg).toNat
  | 0x20 => pcore core
  | 0x30 => (s.modeWords (groupOf lk)).1.toNat
  | _ => ((s.modeWords (groupOf lk)).2.getD (sel % 8) 0).toNat

/-- SREAD (R132). -/
def sreadLane (f : FmtS) (s : State) (lk : Nat) : LaneRes :=
  let sel := f.fn.toNat
  okRegs f.d (s.special lk sel f.imm.toNat) (if sel = 0x12 ∨ sel = 0x13 then 2 else 1)

def execSread (f : FmtS) (s : State) : Res := laneInstr (.sread f) (sreadLane f) s

/-- A special register of a team written (R69, R133). -/
def Team.setSpecial (m : Team) (sel : Nat) (v : Word) : Team :=
  if sel = 0x30 then { m with fpmode := v &&& 1 } else { m with scratch := putWord m.scratch (sel % 8) v }

/-- SWRITE (R133): IMM18 is zero in the register form, and A is ZERO in the immediate form. -/
def swriteOnce (f : FmtS) (s : State) (l : Nat) : State × LaneRes :=
  (s.modTeam (s.laneTeam l) fun m => m.setSpecial f.fn.toNat (s.reg1 l f.a ||| f.imm.setWidth 32), .ok [])

def execSwrite (f : FmtS) (s : State) : Res := onceInstr (.swrite f) (swriteOnce f) s

/-- The cores of a context's core set (R346). -/
def Ctx.coreSet (x : Ctx) : List Nat := (x.alloc.filter fun p => p.2.member).map Prod.fst

/-- One counter on one core as PERFRD sees it (R357, R358): a shared one as of its last update, rounded down. -/
def Ctx.counterAt (x : Ctx) (core sel : Nat) : Nat :=
  if sel < 0x10 then x.counters.getD (core * 32 + sel) 0
  else x.shared.getD (core * 32 + sel) 0 / 65536 * 65536

/-- PERFRD (R358). -/
def perfrdLane (f : FmtS) (s : State) (lk : Nat) : LaneRes :=
  let x := s.ctx (s.laneCtx lk)
  let sel := f.fn.toNat
  okRegs f.d
    ((if f.imm.getLsbD 0 then sumBy (fun c => x.counterAt c sel) x.coreSet
      else x.counterAt (coreOf (groupOf lk)) sel) % 2 ^ 64) 2

def execPerfrd (f : FmtS) (s : State) : Res := laneInstr (.perfrd f) (perfrdLane f) s

end Sys2Proof.Machine
end

