-- ==== Sys2Proof/Machine/CapOps.lean ====
section
/-! DEFINITION. The capability instructions (R93 to R106): CGET to CPOPEN, CDLG, CMINT. -/

namespace Sys2Proof.Machine

/-- A capability fault with the cursor as its address. -/
def cursorFlt (code : Byte) (c : Cap) : Flt := capFlt code c.cur c

/-- The checks of R93 on a source quad: well formed where tagged, and unsealed where the instruction asks. -/
def sourceCap (q : Quad × Bool) (sealedToo : Bool) : Except Flt Cap :=
  let c := Cap.ofQuad q.1
  if q.2 && !c.wf then .error (cursorFlt Code.capMalformed c)
  else if q.2 && sealedToo && sealedKind c.kind then .error (cursorFlt Code.capSealed c)
  else .ok c

/-- CGET (R95). -/
def cgetLane (f : FmtT) (s : State) (lk : Nat) : LaneRes :=
  let q := s.quad lk f.a
  let c := Cap.ofQuad q.1
  let bounds := fun (v : Cap → Int) => match sourceCap q false with
    | .error e => Except.error e
    | .ok c => okRegs f.d (v c % 2 ^ 64).toNat 2
  let sat := fun (v : Int) => max 0 (min v (2 ^ 64 - 1))
  match f.mod.toNat % 16 with
  | 0 => okRegs f.d c.cur 2
  | 1 => bounds fun c => c.base
  | 2 => bounds fun c => sat c.top
  | 3 => bounds fun c => sat c.len
  | 4 => bounds fun c => c.cur - c.base
  | 5 => okReg f.d (c.perm.setWidth 32)
  | 6 => okReg f.d (BitVec.ofNat 32 c.kind)
  | 7 => okReg f.d (BitVec.ofNat 32 c.colour)
  | 8 => okReg f.d (BitVec.ofNat 32 c.exp)
  | _ => okReg f.d (if q.2 then 1 else 0)

def execCget (f : FmtT) (s : State) : Res := laneInstr (.cget f) (cgetLane f) s

/-- The exponent for a length (R96). -/
def expFor (n : Nat) : Nat := ((List.range 50).find? fun e => n ≤ 2 ^ (e + 15)).getD 49

/-- A 64-bit operand B: a pair, or the zero-extended immediate. -/
def State.pairB (s : State) (lk : Nat) (f : FmtT) : Nat :=
  if f.mod.getLsbD 11 then f.b.toNat else (s.pair lk f.b).toNat

/-- CSETB (R96): the narrowed capability and its tag. -/
def csetb (c : Cap) (tag : Bool) (n : Nat) (exact cmd : Bool) : Quad × Bool :=
  let b := c.cur
  let t := b + n
  let e := expFor n
  let b2 := (b + 2 ^ e - 1) / 2 ^ e * 2 ^ e
  let t2 := t / 2 ^ e * 2 ^ e
  let ok := tag && 0 < n && c.base ≤ b && (t : Int) ≤ c.top
  let okX := !exact || (b % 2 ^ e = 0 && t % 2 ^ e = 0)
  let okC := !cmd || (c.kind = Kind.data && c.has Perm.cmd && n = 128 && b % 128 = 0)
  let r : Cap :=
    { c with
      exp := e
      basem := b2 / 2 ^ e % 2 ^ 15
      topm := t2 / 2 ^ e % 2 ^ 15
      cur := b2 % 2 ^ 64
      kind := if cmd then Kind.cmd else c.kind }
  (r.toQuad, ok && okX && okC)

def csetbLane (f : FmtT) (s : State) (lk : Nat) : LaneRes :=
  let q := s.quad lk f.a
  match sourceCap q true with
  | .error e => .error e
  | .ok c =>
    let (r, t) := csetb c q.2 (s.pairB lk f) (f.mod.getLsbD 0) (f.mod.getLsbD 1)
    okQuad f.d r t

def execCsetb (f : FmtT) (s : State) : Res := laneInstr (.csetb f) (csetbLane f) s

/-- A cursor change of quad A (R86, R93). -/
def moveLane (f : FmtT) (n : State → Nat → Cap → Int) (s : State) (lk : Nat) : LaneRes :=
  let q := s.quad lk f.a
  match sourceCap q true with
  | .error e => .error e
  | .ok c => let (r, ok) := c.setCursor (n s lk c); okQuad f.d r (q.2 && ok)

/-- CADD (R97). -/
def caddTo (f : FmtT) (s : State) (lk : Nat) (c : Cap) : Int :=
  c.cur + (if f.mod.getLsbD 11 then (f.b.toNat : Int) else (s.pair lk f.b).toInt)

def execCadd (f : FmtT) (s : State) : Res := laneInstr (.cadd f) (moveLane f (caddTo f)) s
def execCseta (f : FmtT) (s : State) : Res :=
  laneInstr (.cseta f) (moveLane f fun s lk _ => ((s.pair lk f.b).toNat : Int)) s

/-- CANDP (R98). -/
def candpLane (f : FmtT) (s : State) (lk : Nat) : LaneRes :=
  let q := s.quad lk f.a
  let c := Cap.ofQuad q.1
  okQuad f.d { c with perm := c.perm &&& (s.reg1 lk f.b).extractLsb' 0 12 }.toQuad q.2

def execCandp (f : FmtT) (s : State) : Res := laneInstr (.candp f) (candpLane f) s

/-- The permission set of CTEST's modifier (R99). -/
def testPerm (m : BitVec 12) : BitVec 12 :=
  let bit := fun k (p : BitVec 12) => if m.getLsbD k then p else 0
  bit 0 Perm.ld ||| bit 1 Perm.st ||| bit 2 Perm.ldc ||| bit 3 Perm.stc ||| bit 4 Perm.exec ||| bit 5 Perm.atom

/-- CTEST (R99): the code that the access check would raise. -/
def ctestLane (f : FmtT) (s : State) (lk : Nat) : LaneRes :=
  let q := s.quad lk f.a
  let c := Cap.ofQuad q.1
  let n := if f.mod.getLsbD 11 then f.b.toNat else (s.reg1 lk f.b).toNat
  let acc := if f.mod.getLsbD 4 then accExec else if f.mod.getLsbD 2 || f.mod.getLsbD 3 then accLocal else accData
  okReg f.d (match checkCode q.2 c (s.laneColour lk) acc (testPerm f.mod) c.cur n with
    | some code => code.setWidth 32
    | none => 0)

def execCtest (f : FmtT) (s : State) : Res := laneInstr (.ctest f) (ctestLane f) s

/-- CMOVQ and CCLR (R100). -/
def execCmovq (f : FmtT) (s : State) : Res :=
  laneInstr (.cmovq f) (fun s lk => let q := s.quad lk f.a; okQuad f.d q.1 q.2) s
def execCclr (f : FmtT) (s : State) : Res :=
  laneInstr (.cclr f) (fun s lk => okQuad f.d (s.quad lk f.a).1 false) s

/-- CEQ (R101). -/
def ceqLane (f : FmtT) (s : State) (lk : Nat) : LaneRes :=
  let a := s.quad lk f.a
  let b := s.quad lk f.b
  let eq := if f.mod.getLsbD 0 then a.1.extractLsb' 0 64 == b.1.extractLsb' 0 64 else a.1 == b.1 && a.2 == b.2
  okReg f.d (if eq then 1 else 0)

def execCeq (f : FmtT) (s : State) : Res := laneInstr (.ceq f) (ceqLane f) s

/-- CSUB (R101). -/
def csubLane (f : FmtT) (s : State) (lk : Nat) : LaneRes :=
  okRegs f.d ((s.quad lk f.a).1.extractLsb' 0 64 - (s.quad lk f.b).1.extractLsb' 0 64).toNat 2

def execCsub (f : FmtT) (s : State) : Res := laneInstr (.csub f) (csubLane f) s

/-- CALIGN.dn and .up (R102). -/
def calignCap (f : FmtT) (s : State) (lk : Nat) (up : Bool) : LaneRes :=
  let q := s.quad lk f.a
  match sourceCap q true with
  | .error e => .error e
  | .ok c =>
    let k := if f.mod.getLsbD 11 then f.b.toNat else (s.reg1 lk f.b).toNat
    if 64 ≤ k then
      if c.cur = 0 then okQuad f.d q.1 q.2 else okQuad f.d { c with cur := 0 }.toQuad false
    else
      let n := if up then (c.cur + 2 ^ k - 1) / 2 ^ k * 2 ^ k else c.cur / 2 ^ k * 2 ^ k
      let (r, ok) := c.setCursor n
      okQuad f.d r (q.2 && ok)

/-- CALIGN (R102). A length of .rlen that does not fit 64 bits leaves its low ones, 0 (log entry 79). -/
def calignLane (f : FmtT) (s : State) (lk : Nat) : LaneRes :=
  let n := (s.pair lk f.a).toNat
  let e := expFor n
  match f.mod.toNat % 4 with
  | 0 => calignCap f s lk false
  | 1 => calignCap f s lk true
  | 2 => okRegs f.d ((n + 2 ^ e - 1) / 2 ^ e * 2 ^ e) 2
  | _ => okRegs f.d (2 ^ 64 - 2 ^ e) 2

def execCalign (f : FmtT) (s : State) : Res := laneInstr (.calign f) (calignLane f) s

/-! ## Sealing for a peer -/

/-- The fields of a grant entry (R113). -/
structure Grant where
  (hi lo colour : Nat)
  pmask : BitVec 12
  target : Nat
  valid : Bool
  deriving DecidableEq, Repr

def Grant.ofBits (e : BitVec 256) : Grant :=
  ⟨(e.extractLsb' 192 64).toNat, (e.extractLsb' 128 64).toNat, (e.extractLsb' 116 12).toNat, e.extractLsb' 104 12,
    (e.extractLsb' 94 10).toNat, e.getLsbD 0⟩

/-- A grant entry; one never written is invalid (R113). -/
def State.grant (s : State) (n : Nat) : Grant := Grant.ofBits (s.grants.getD n 0)

/-- REMOTE_GRANT with its peer and grant number (R366). What INFO holds for CPSEAL is not stated; it is zero (log entry 79). -/
def grantFlt (peer grant : Nat) : Flt :=
  ⟨Code.remoteGrant, 0, BitVec.ofNat 32 (peer % 1024 * 2 ^ 22 + grant % 4096), 0⟩

/-- CPSEAL (R103): the checks in their order, then the blob under the current key. -/
def cpsealLane (f : FmtT) (s : State) (lk : Nat) : LaneRes :=
  let q := s.quad lk f.a
  let c := Cap.ofQuad q.1
  let b := (s.reg1 lk f.b).toNat
  let g := (s.reg1 lk f.c).toNat
  let e := s.grant g
  let bad := fun code => (Except.error (cursorFlt code c) : LaneRes)
  if !q.2 then bad Code.capTag
  else if !c.wf then bad Code.capMalformed
  else if c.kind ≠ Kind.data then bad (if sealedKind c.kind then Code.capSealed else Code.capKind)
  else if c.colour ≠ s.laneColour lk then bad Code.capColour
  else if !c.has (Perm.sealing ||| Perm.glob) then bad Code.capPerm
  else if 39 < c.exp || 2 ^ 54 ≤ c.top then bad Code.capBounds
  else if 1024 ≤ b || 4096 ≤ g || 640 ≤ b || b = s.parish || !e.valid || e.target ≠ b || e.colour ≠ s.laneColour lk ||
      c.base < e.lo || e.hi < c.top then .error (grantFlt b g)
  else
    let id := ((s.keys.get? b).bind (·.cur)).getD 0
    okRegs f.d (sealBlob (Config.sealKey b id) (blobHeader s.parish b id g) q.1).toNat 8

/-- A seal counts against its key; a pair that has none agrees its first, with key ID 0 (R414; log entry 25). -/
def State.countSeals (s : State) (f : FmtT) (ls : List Nat) : State :=
  ls.foldl (fun s' lk => match cpsealLane f s lk with
    | .ok _ =>
      let b := (s.reg1 lk f.b).toNat
      let k := s'.keys.getD b ⟨none, none, 0⟩
      { s' with keys := s'.keys.set b { k with cur := some (k.cur.getD 0), used := k.used + 1 } }
    | .error _ => s') s

def execCpseal (f : FmtT) (s : State) : Res :=
  instr (.cpseal f) s fun s =>
    let s1 := s.countSeals f ((s.guardTrue f.g).filter fun lk => (s.poisonOf (.cpseal f) lk).isNone)
    .next (lanesBody (.cpseal f) (cpsealLane f) s1)

/-- The permissions that a REMOTE capability may hold (R104). -/
abbrev remotePerm : BitVec 12 := Perm.ld ||| Perm.st ||| Perm.glob ||| Perm.atom ||| Perm.cache

/-- CPOPEN (R104). With a peer of which it has no key, the first, with key ID 0, is agreed when it is needed (log entry 25). -/
def cpopenLane (f : FmtT) (s : State) (lk : Nat) : LaneRes :=
  let blob : BitVec 256 := s.quadBits lk f.a 1 ++ s.quadBits lk f.a 0
  let issuer := (blob.extractLsb' 246 10).toNat
  let id := (blob.extractLsb' 224 12).toNat
  let known := match s.keys.get? issuer with | some k => k.cur = some id || k.prev = some id | none => id = 0 && issuer < 640 && issuer ≠ s.parish
  let plain :=
    if (blob.extractLsb' 236 10).toNat = s.parish && blob.extractLsb' 192 20 == 0 && known then
      openBlob (Config.sealKey issuer id) blob
    else none
  match plain with
  | none => .error ⟨Code.capMalformed, 0, 0, 0⟩
  | some q =>
    let c := Cap.ofQuad q
    if c.colour ≠ s.laneColour lk then .error (capFlt Code.capColour 0 c)
    else
      okQuad f.d
        { c with
          colour := (blob.extractLsb' 212 12).toNat
          perm := c.perm &&& remotePerm
          kind := Kind.remote
          cur := issuer * 2 ^ 54 ||| c.cur }.toQuad true

def execCpopen (f : FmtT) (s : State) : Res := laneInstr (.cpopen f) (cpopenLane f) s

/-! ## CDLG and CMINT -/

/-- The checks of CDLG between CheckAccess with ALIGN and the gate (R105): the stored quad, or a fault. The colour of a REMOTE source is
compared as R105 compares every source (log entry 79). -/
def cdlgSource (f : FmtM) (s : State) (lk : Nat) (a : Nat) : Except Flt Quad :=
  let k := Cap.ofQuad (s.quadBits lk f.q 0)
  let (q, t) := s.quad lk f.d
  let c := Cap.ofQuad q
  let bad := fun code (x : Cap) => Except.error (capFlt code a x)
  let d := (a : Int) - k.base
  if !([16, 32, 64, 80] : List Int).contains d then bad Code.capBounds k
  else if !t then bad Code.capTag c
  else if !c.wf then bad Code.capMalformed c
  else if [Kind.code, Kind.cmd, Kind.lease].contains c.kind then bad Code.capKind c
  else if s.laneColour lk ≠ 0 && c.colour ≠ s.laneColour lk then bad Code.capColour c
  else if !c.has Perm.dlg then bad Code.capPerm c
  else .ok { c with perm := c.perm &&& ~~~Perm.dlg }.toQuad

/-- CDLG (R105). -/
def cdlgPlan (f : FmtM) (s : State) (lk : Nat) : Plan :=
  match s.accPre (s.laneColour lk) (s.quad lk f.q) [Kind.cmd] Perm.dlg (s.memAddr lk f 16) 16 16 true with
  | .error e => .fail e
  | .ok a =>
    let x := { (s.newAcc lk f .store).at a 16 with ord := 0, scope := 0 }
    match cdlgSource f s lk a with
    | .error e => .fail e
    | .ok q =>
      s.placeWhole false (fun _ => s.capLocal (s.laneTeam lk) (s.quad lk f.d).1 true a) a [{ x with val := q, tag := s.filtered q true }]

def execCdlg (f : FmtM) (s : State) : Res := memInstr (.cdlg f) (cdlgPlan f) s

/-- CMINT (R106). -/
def cmintLane (f : FmtT) (s : State) (lk : Nat) : LaneRes :=
  let q := s.quadBits lk f.a 0
  let c := Cap.ofQuad q
  if !c.wf then .error (cursorFlt Code.capMalformed c)
  else if c.has Perm.sys && c.colour ≠ 0 then .error (cursorFlt Code.capPerm c)
  else okQuad f.d q true

def execCmint (f : FmtT) (s : State) : Res := laneInstr (.cmint f) (cmintLane f) s

end Sys2Proof.Machine
end

