-- ==== Sys2Proof/Machine/Engine.lean ====
section
/-! DEFINITION. How an engine reads and writes memory (R245 to R247, R291, R294): the checks at each use, pieces of at most
16 bytes, and the requests it sends to peers and lenders. -/

namespace Sys2Proof.Machine

/-- What an engine works for: the issuing core, context, colour and team, the number of the command or load, and what it has
read. -/
structure Eng where
  (core ctx colour team num : Nat)
  buf : Tbl AccVal
  deriving DecidableEq, Repr

/-- An engine's access. It belongs to no thread: its team is 0 and its batch names the command or load. -/
def Eng.acc (e : Eng) (s : State) (cap : Quad × Bool) (kind : AccKind) (a n : Nat) : Acc :=
  let c := Cap.ofQuad cap.1
  let remote := decide (c.kind = Kind.remote)
  { kind := kind
    place := .gate
    team := 0
    tid := 0
    core := e.core
    ctx := e.ctx
    colour := e.colour
    addr := if remote then a % 2 ^ 54 else a
    size := n
    ty := 6
    aop := 0
    ord := 0
    scope := 0
    cl := 3
    val := 0
    cmp := 0
    tag := false
    poison := false
    d := none
    dk := 0
    caps := false
    ldc := false
    cache := false
    ofl := false
    peer := if remote then some (a / 2 ^ 54, c.colour) else none
    since := s.now
    batch := e.num
    req := 0
    fenced := false
    passed := none
    site := none }

/-- Why an engine cannot go on: a fault code and the failing address (R291). -/
abbrev EngBad := Byte × Nat

/-- The checks of an engine's use of a range that come before any hole or gate check (R89, R90, R14, R215). -/
def State.engineCheck (s : State) (e : Eng) (cap : Quad × Bool) (acc : List Nat) (perm : BitVec 12) (a : Int) (n : Nat)
    (isStore : Bool) : Except EngBad Nat :=
  match checkAccess cap e.colour acc perm a n with
  | some f => .error (f.code, f.info.toNat)
  | none =>
    let c := Cap.ofQuad cap.1
    let x := a.toNat
    if c.kind = Kind.remote then .ok x
    else if touchesControl x n && !c.has Perm.sys then .error (Code.capPerm, x)
    else if isStore && s.hitsBarriers x n then .error (Code.engineFault, x)
    else .ok x

/-- Where a checked piece lies. -/
def State.engineGate (s : State) (e : Eng) (x : Acc) (far : Bool) : Except EngBad GateRes :=
  if x.peer.isSome then .ok (.go x.addr false)
  else match s.accPlace e.ctx e.core e.colour x.addr x.size (x.kind ≠ .load) false far with
    | .error f => .error (f.code, f.info.toNat)
    | .ok g => .ok g

/-- What reading a piece gives. -/
inductive EngRead where
  | val (v : AccVal)
  | ask (x : Acc) (g : GateRes)
  | stall
  | bad (b : EngBad)
  deriving DecidableEq, Repr

/-- The place of a piece among what has been read. -/
def bufKey (a n : Nat) : Nat := a * 32 + n

/-- What has been read of a range: itself, or a granule or part of one that holds it. -/
def bufFind (buf : Tbl AccVal) (a n : Nat) : Option AccVal :=
  match buf.get? (bufKey a n) with
  | some v => some v
  | none => (buf.find? fun p => p.1 / 32 ≤ a && a + n ≤ p.1 / 32 + p.1 % 32).map fun p =>
      { p.2 with val := quadBytes p.2.val (a - p.1 / 32) n }

/-- A piece that has been read. -/
def Eng.has (e : Eng) (p : Piece) : Bool := (bufFind e.buf p.addr p.n).isSome

/-- A piece read, now or before, or the request that must be sent for it. -/
def State.engineRead (s : State) (e : Eng) (p : Piece) : EngRead :=
  match bufFind e.buf p.addr p.n with
  | some v => .val v
  | none =>
    let x := e.acc s p.cap .load p.addr p.n
    match s.engineGate e x p.far with
    | .error b => .bad b
    | .ok g =>
      if x.peer.isSome then .ask x g
      else match g with
        | .go a _ => if regionOf a = .control then .val (s.performControl x).2 else .val ⟨quadBytes (s.granData a) (a % 16) p.n, s.granTag a, s.granPoison a⟩
        | .zero => .val ⟨0, false, false⟩
        | .host _ => .ask x g
        | .lender _ _ =>
          match s.sliceRead p.addr p.n with
          | some v => .val v
          | none => if s.sliceBusy p.addr then .stall else .ask x g
        | .stall => .stall
        | .refuse c _ => .bad (c, p.addr)

/-- What a list of pieces gives: values in order, requests still to be sent, a stall, or the first failure. -/
structure Gather where
  vals : List AccVal
  asks : List (Acc × GateRes)
  stall : Bool
  bad : Option EngBad
  deriving DecidableEq, Repr

def State.gather (s : State) (e : Eng) : List Piece → Gather
  | [] => ⟨[], [], false, none⟩
  | p :: ps =>
    let g := s.gather e ps
    match s.engineRead e p with
    | .val v => { g with vals := v :: g.vals }
    | .ask x r => { g with asks := (x, r) :: g.asks }
    | .stall => { g with stall := true }
    | .bad b => { g with bad := some b }

/-- Everything has been read. -/
def Gather.ready (g : Gather) : Bool := g.asks.isEmpty && !g.stall && g.bad.isNone

/-! ## The requests of an engine (R265, R352) -/

/-- The line that a range lies in, of this device or of a peer, and the bytes it touches there, where its traffic leaves the network
port; whether its request may allocate in the memory-side cache is part of the name (R83, R261). -/
def touched (cap : Quad × Bool) (a n : Nat) : Option (Nat × Nat × Nat) :=
  let c := Cap.ofQuad cap.1
  let remote := decide (c.kind = Kind.remote)
  if !remote && (regionOf a = .pad || regionOf a = .control) then none
  else some (a / 128 + (if remote then 2 ^ 70 else 0) + (if c.has Perm.cache then 2 ^ 71 else 0), a % 128, a % 128 + n - 1)

/-- The request for a block of a line. -/
def Eng.request (e : Eng) (write : Bool) (b : Nat × Nat) : Req :=
  ⟨e.core, e.ctx, 2 ^ 70 ≤ b.1 % 2 ^ 71, b.1 % 2 ^ 70 * 128, b.2, 2 ^ 71 ≤ b.1, .engine e.num write, none⟩

/-- The requests of an engine that have been admitted and belong to a line. -/
def Req.isFor (r : Req) (q : Req) : Bool := r.user = q.user && r.addr = q.addr && r.peer = q.peer

/-- Requests for ranges that have none yet. -/
def State.newReqs (s : State) (e : Eng) (write : Bool) (ts : List (Nat × Nat × Nat)) : List Req :=
  ((coalesce ts).map (e.request write)).filter fun r => !s.reqs.any fun p => p.2.isFor r

/-- The requests for some ranges have left the port, or none was needed. -/
def State.paid (s : State) (e : Eng) (write : Bool) (ts : List (Nat × Nat × Nat)) : Bool :=
  ((coalesce ts).map (e.request write)).all fun r => !s.reqs.any fun p => p.2.sent.isNone && p.2.isFor r

/-- Requests admitted in order. -/
def State.enterAll (s : State) (rs : List Req) : State := rs.foldl (fun s r => (s.enter r).1) s

/-- The requests of an engine freed, but for lines that it still has to touch or of which it awaits an answer. -/
def State.retire (s : State) (n : Nat) (write : Bool) (left : List Nat) : State :=
  (s.reqs.filter fun p => p.2.user = .engine n write && p.2.sent.isSome && !left.contains (p.2.addr / 128) &&
    !s.outst.any fun q => q.2.batch = n && q.2.info.toNat / 128 = p.2.addr / 128).foldl (fun s p => s.freeReq p.1 p.2) s

/-- What pieces touch. -/
def pieceTouches (ps : List Piece) : List (Nat × Nat × Nat) := ps.filterMap fun p => touched p.cap p.addr p.n

/-! ## Reading in aligned granules of 64 bytes (R247) -/

/-- A list without repeats of neighbours. -/
def runsOf : List Nat → List Nat
  | a :: b :: t => if a = b then runsOf (b :: t) else a :: runsOf (b :: t)
  | l => l

/-- A list turned so that any of its elements may stand first (log entry 3). -/
def turned {α : Type} (k : Nat) (l : List α) : List α :=
  match l with
  | [a] => [a]
  | l => l.drop (k % max 1 l.length) ++ l.take (k % max 1 l.length)

/-- What reading on comes to: an end, requests put to the network port or sent to another device, or a granule. -/
inductive ReadStep where
  | stop (b : EngBad)
  | enter (rs : List Req)
  | ask (asks : List (Acc × GateRes))
  | got (vs : List (Nat × AccVal))
  deriving DecidableEq, Repr

/-- A request joined with another of one granule of 64 bytes through the same grant: from the first byte to the last. -/
def joinAsk (y : Acc × GateRes) : List (Acc × GateRes) → List (Acc × GateRes)
  | [] => [y]
  | x :: xs =>
    if x.1.peer = y.1.peer then
      let (a, b) := if x.1.addr ≤ y.1.addr then (x, y) else (y, x)
      ({ a.1 with size := max a.1.size (b.1.addr + b.1.size - a.1.addr) }, a.2) :: xs
    else x :: joinAsk y xs

/-- The pieces of one aligned granule of 64 bytes, read at once; nothing while one of them stalls, or while its request waits at the
port. -/
def State.readGranule (s : State) (e : Eng) (ps : List Piece) (k : Nat) : Option ReadStep :=
  let mine := ps.filter fun p => p.addr / 64 = k
  let g := s.gather e mine
  match g.bad with
  | some b => some (.stop b)
  | none =>
    if !s.paid e false (pieceTouches mine) then none
    else if !g.asks.isEmpty then some (.ask (g.asks.foldl (fun l y => joinAsk y l) []))
    else if g.stall then none
    else some (.got ((mine.map fun p => bufKey p.addr p.n).zip g.vals))

/-- The next granule that is read, of those not read yet and not stalled: any of them (log entry 3). -/
def State.readSome (s : State) (e : Eng) (ps : List Piece) : Option ReadStep :=
  let todo := ps.filter fun p => !e.has p
  firstSome (s.readGranule e todo) (turned (Config.pick s.tick) (runsOf (todo.map fun p => p.addr / 64)))

/-- What an engine that reads all of some pieces does next: the requests for them are admitted first. -/
def State.readAll (s : State) (e : Eng) (ps : List Piece) : Option ReadStep :=
  let new := s.newReqs e false (pieceTouches (ps.filter fun p => !e.has p))
  if !new.isEmpty then some (.enter new) else s.readSome e ps

/-- The requests for what an engine has read freed. -/
def State.retireRead (s : State) (e : Eng) (ps : List Piece) : State :=
  s.retire e.num false ((ps.filter fun p => !e.has p).map fun p => p.addr / 128)

/-- A request of an engine sent to a peer, a lender or the host (R419); its answer is awaited. -/
def State.sendEngine (s : State) (x : Acc) (g : GateRes) : State :=
  let (n, s1) := s.takeNum
  let put := fun (s : State) (y : Acc) (p rn : Nat) => { s with outst := s.outst.set n { y with place := .remote p rn } }
  match x.peer, g with
  | some (p, gr), _ => let (s2, rn) := s1.sendRequest (x.message p gr); put s2 x p rn
  | none, .host h =>
    let s2 := s1.send (.host 0 h x.size (if x.kind = .load then none else some x.payload))
    { s2 with outst := s2.outst.set n { x with place := .host, passed := some g } }
  | none, .lender p a =>
    let (s2, rn) := (s1.markTag x.addr (x.kind ≠ .load && x.tag)).sendRequest (s1.leaseMessage x p a)
    put s2 { x with passed := some g } p rn
  | none, _ => s

/-- Requests of an engine that are not answered yet. -/
def State.engineWaits (s : State) (num : Nat) : Bool := s.outst.any fun p => p.2.batch = num

/-- Reads of an engine that are not answered yet. -/
def State.readsOwed (s : State) (num : Nat) : Bool := s.outst.any fun p => p.2.batch = num && p.2.kind = .load

/-- A line of the borrowed window may be held in the memory-side cache for a capability (R83, R261, R385). -/
def State.sliceMay (s : State) (cap : Quad × Bool) (a : Nat) : Bool :=
  s.mscHas a || ((Cap.ofQuad cap.1).has Perm.cache && s.mscRoom a &&
    (match frameOf a with | some f => !Fst.nocache (frameEntry s.frames f) | none => false))

/-- A piece written, after its checks: to memory or a pad with the clean copy in the issuing core's L1 dropped, to a line of the
borrowed window in its slice, or by a request. -/
def State.engineWrite (s : State) (e : Eng) (cap : Quad × Bool) (a n : Nat) (val : Quad) (tag poison : Bool) : State :=
  let x := { e.acc s cap .store a n with val := val, tag := s.filtered val tag, poison := poison }
  match s.engineGate e x false with
  | .error _ => s
  | .ok g =>
    if x.peer.isSome then s.sendEngine x g
    else match g with
      | .go p _ =>
        if regionOf p = .control then (s.performControl x).1 else
        let s1 := s.granStore p (quadAt val (p % 16)) (byteMask (p % 16) n) x.tag poison
        if regionOf a = .local then s1.dropClean (s1.unitOf e.ctx e.core) e.ctx (a / 16) else s1
      | .host _ => s.sendEngine x g
      | .lender _ _ => if s.sliceMay cap a then (s.mscFill a).sliceStore a n val x.tag poison else s.sendEngine x g
      | _ => s

/-- What an answer holds, granule by granule of the range asked for. -/
def answerParts (a : Nat) (data : List Byte) (tags poison : List Bool) : List (Nat × AccVal) :=
  ((granRange a data.length).zip (List.range data.length)).map fun (p, i) =>
    (bufKey p.1 p.2, ⟨BitVec.ofNat 128 (bytesNat ((data.drop (p.1 - a)).take p.2)), tags.getD i false, poison.getD i false⟩)

/-- What has been read put with the rest. -/
def addRead (buf : Tbl AccVal) (vs : List (Nat × AccVal)) : Tbl AccVal := vs.foldl (fun t v => t.set v.1 v.2) buf

/-- An answer to an engine's read, put where its command, load, service or walk finds it. -/
def State.engineAnswer (s : State) (x : Acc) (vs : List (Nat × AccVal)) : State :=
  let n := x.batch
  if x.kind ≠ .load then s
  else if (s.cmds.get? n).isSome then { s with cmds := s.cmds.modify n fun c => { c with buf := addRead c.buf vs } }
  else if (s.wloads.get? n).isSome then { s with wloads := s.wloads.modify n fun c => { c with buf := addRead c.buf vs } }
  else if (s.jobs.get? n).isSome then { s with jobs := s.jobs.modify n fun c => { c with buf := addRead c.buf vs } }
  else { s with
    pass := s.pass.map fun p => { p with walk := p.walk.map fun w => if w.num = n then { w with buf := addRead w.buf vs } else w } }

/-- The bytes of pieces in order. -/
def piecesBytes : List Nat → List AccVal → List Byte
  | n :: ns, v :: vs => natBytes n v.val.toNat ++ piecesBytes ns vs
  | _, _ => []

/-- An ENGINE_ERROR event (R291, R315). -/
def State.postEngineError (s : State) (c : Nat) (opcode : Byte) (opc : Nat) (code : Byte) (addr bytes core : Nat)
    (source : BitVec 16) : State :=
  s.post c Ev.engineError 0
    (opcode ++ BitVec.ofNat 8 opc ++ code ++ BitVec.ofNat 64 addr ++ BitVec.ofNat 32 bytes ++ BitVec.ofNat 11 core ++ 0#45)
    source

end Sys2Proof.Machine
end

