-- ==== Sys2Proof/Machine/Control.lean ====
section
/-! DEFINITION. Control flow (R175 to R181), the return from a fault and the fault record (R372 to R374), and the issue slot's
own steps: lane sets, the vote, the second port, promotion, holds, deferred faults and firmware's resumption (R167 to R173,
R365, R370). -/

namespace Sys2Proof.Machine

/-! ## Branches, calls and the return -/

/-- The header after the issuing clause. -/
def Cur.next (c : Cur) : DWord := nextHeader c.hdr c.hw

/-- The target of a relative branch (R177). -/
def Cur.rel (c : Cur) (off : Word) : DWord := c.hdr + 8 * off.signExtend 64

/-- The link quad (R178). -/
def State.linkQuad (s : State) (lk : Nat) : Quad :=
  0#32 ++ BitVec.ofNat 32 (s.team (s.laneTeam lk)).ver ++ s.cur.next

/-- An indirect target: ALIGN when it is no multiple of 8 (R175). -/
def indirect (t : DWord) (ws : List Wr) : LaneRes :=
  if t.toNat % 8 = 0 then .ok (ws ++ [.pc t]) else .error ⟨Code.align, t, 0, 0⟩

def execBra (f : FmtB) (s : State) : Res := laneInstr (.bra f) (fun s _ => .ok [.pc (s.cur.rel f.off)]) s
def execBrx (f : FmtT) (s : State) : Res := laneInstr (.brx f) (fun s lk => indirect (s.pair lk f.a) []) s
def execCall (f : FmtB) (s : State) : Res :=
  laneInstr (.call f) (fun s lk => .ok [.rw (.quad f.a 0 (s.linkQuad lk) false), .pc (s.cur.rel f.off)]) s
def execCallx (f : FmtT) (s : State) : Res :=
  laneInstr (.callx f) (fun s lk => indirect (s.pair lk f.a) [.rw (.quad f.d 0 (s.linkQuad lk) false)]) s
def execRet (f : FmtT) (s : State) : Res := laneInstr (.ret f) (fun s lk => indirect (s.pair lk f.a) []) s

def execNop (f : FmtT) (s : State) : Res := laneInstr (.nop f) (fun _ _ => .ok []) s

/-- YIELD (R180). -/
def execYield (f : FmtT) (s : State) : Res :=
  instr (.yield f) s fun s =>
    let ls := s.guardTrue f.g
    .next (s.commit (ls.map fun lk => (lk, .ok [])) none (!ls.isEmpty))

/-- BRK and TRAP (R181). -/
def execBrk (f : FmtS) (s : State) : Res :=
  laneInstr (.brk f) (fun _ _ => .error ⟨Code.brk, f.imm.setWidth 64, 0, 0⟩) s
def execTrap (f : FmtS) (s : State) : Res :=
  laneInstr (.trap f) (fun _ _ => .error ⟨Code.trap, f.imm.setWidth 64, 0, 0⟩) s

/-! ## Faults: ERET, FAULTRD, TRAPSET -/

/-- ERET for one lane (R374). -/
def eretLane (retry : Bool) (s : State) (lk : Nat) : LaneRes :=
  if (s.lane lk).state = .trapped then .ok [.eret retry] else .error ⟨Code.illegal, 0, 0, 0⟩

def execEretRetry (f : FmtS) (s : State) : Res := laneInstr (.eretRetry f) (eretLane true) s
def execEretSkip (f : FmtS) (s : State) : Res := laneInstr (.eretSkip f) (eretLane false) s

/-- The 512 bits of a fault record (R366). -/
def FaultRec.bits (r : FaultRec) : BitVec 512 :=
  r.pc ++ r.info ++ r.word ++ BitVec.ofNat 48 r.seq ++ r.progress ++ r.codever ++ r.aux ++
    BitVec.ofNat 12 r.tid ++ BitVec.ofNat 6 r.lane ++ BitVec.ofNat 6 r.group ++ BitVec.ofNat 11 r.core ++ 0#3 ++
    BitVec.ofNat 2 r.role ++ 0#16 ++ r.flags ++ r.code ++ 0#120

/-- FAULTRD (R373). -/
def faultrdLane (f : FmtS) (s : State) (lk : Nat) : LaneRes :=
  let r := (s.lane lk).fault
  match f.fn.toNat with
  | 0 => okRegs f.d r.bits.toNat 16
  | 1 => okReg f.d (r.code.setWidth 32)
  | _ => okRegs f.d r.info.toNat 2

def execFaultrd (f : FmtS) (s : State) : Res := laneInstr (.faultrd f) (faultrdLane f) s

/-- The handler of a code version set or cleared. -/
def State.setHandler (s : State) (v : Nat) (h : Option DWord) : State :=
  { s with vers := s.vers.modify v fun x => { x with handler := h } }

/-- TRAPSET.set (R372). -/
def trapsetOnce (f : FmtT) (s : State) (l : Nat) : State × LaneRes :=
  let t := s.pair l f.a
  let v := (s.team (s.laneTeam l)).ver
  let ok := match s.vers.get? v with
    | some k =>
      let c := Cap.ofQuad k.cap
      t.toNat % 8 = 0 && c.base ≤ (t.toNat : Int) && (t.toNat : Int) < c.top
    | none => false
  if ok then (s.setHandler v (some t), okReg f.d 0) else (s, okReg f.d 1)

def execTrapsetSet (f : FmtT) (s : State) : Res := onceInstr (.trapsetSet f) (trapsetOnce f) s
def execTrapsetClr (f : FmtT) (s : State) : Res :=
  onceInstr (.trapsetClr f) (fun s l => (s.setHandler (s.team (s.laneTeam l)).ver none, okReg f.d 0)) s
def execTrapsetGet (f : FmtT) (s : State) : Res :=
  onceInstr (.trapsetGet f) (fun s l =>
    (s, okRegs f.d (match (s.vers.get? (s.team (s.laneTeam l)).ver).bind (·.handler) with
      | some h => h.toNat
      | none => 0) 2)) s

/-! ## Lane sets (R167) -/

/-- The lanes of a group that may issue together: lanes at one program counter, at a header or within one clause
(log entry 17). -/
structure LaneSet where
  pc : DWord
  resume : Option Resume
  mask : DWord
  oldest : Nat
  deriving DecidableEq, Repr

/-- Whether a lane belongs to a lane set: equal program counter, and both at a header or both at one place of one clause. -/
def LaneSet.fits (x : LaneSet) (l : Lane) : Bool :=
  x.pc = l.pc && (match x.resume, l.resume with
    | none, none => true
    | some a, some b => a.hdr = b.hdr && a.hw = b.hw && a.sub = b.sub
    | _, _ => false)

/-- A lane put into the sets formed so far. -/
def joinSets (lk : Nat) (l : Lane) : List LaneSet → List LaneSet
  | [] => [⟨l.pc, l.resume, 1#64 <<< posOf lk, l.lastIssue⟩]
  | x :: xs =>
    if x.fits l then { x with mask := x.mask ||| (1#64 <<< posOf lk), oldest := min x.oldest l.lastIssue } :: xs
    else x :: joinSets lk l xs

/-- The lane sets of a group, lowest program counter first. -/
def State.laneSets (s : State) (gk : Nat) : List LaneSet :=
  let ls := (groupLanes gk).filter fun lk => (s.lane lk).live
  sortBy (fun a b => a.pc.toNat ≤ b.pc.toNat) ((ls.foldl (fun xs lk => joinSets lk (s.lane lk) xs) []))

/-- Whether a lane set may start a clause (R167, R24): the waits of its header are met, or it stands within a clause (R47);
a header that faults is able, and faults when it is chosen. A header whose fetch stalls at the gate is not able yet. -/
def State.able (s : State) (t : Nat) (x : LaneSet) : Bool :=
  match x.resume with
  | some _ => true
  | none => match s.fetch t x.pc with
    | .stall => false
    | .fault _ => true
    | .word w => !hdrOk w || s.waitsMet t w

/-- The able lane sets of a group. -/
def State.ableSets (s : State) (gk : Nat) : List LaneSet := (s.laneSets gk).filter (s.able (s.teamOf gk))

/-- The states of a group slot (R173). -/
inductive GroupState where
  | free | ready | running | blocked | held | done
  deriving DecidableEq, Repr

/-- Whether a clause of a group is in progress, one kept by a hold included (R171, R173). -/
def State.inClause (s : State) (gk : Nat) : Bool :=
  let i := s.islot (gk / 64 * 4 + gk % 4)
  let mine := fun (c : Option Clause) => match c with | some c => c.gslot = gk % 64 | none => false
  mine i.c0 || mine i.c1 || i.parked.any fun p => mine p.c0 || mine p.c1

/-- The state of a group slot (R173). -/
def State.groupState (s : State) (gk : Nat) : GroupState :=
  if (s.group gk).team = 0 || (groupLanes gk).all fun lk => (s.lane lk).state = .empty then .free
  else if s.groupDone gk then .done
  else if s.held gk then .held
  else if s.inClause gk then .running
  else if (s.ableSets gk).isEmpty then .blocked
  else .ready

/-- A group that the slot may choose: not held, with an able lane set (R168). -/
def State.canStart (s : State) (gk : Nat) : Bool := (s.group gk).team ≠ 0 && !s.held gk && !(s.ableSets gk).isEmpty

/-! ## Starting a clause -/

/-- The clause that a lane set starts or continues. -/
def LaneSet.clause (x : LaneSet) (gslot : Nat) (hw : DWord) : Clause :=
  match x.resume with
  | some r => ⟨gslot, x.mask, r.hdr, r.hw, ((x.pc - r.hdr).toNat - 8) / 8, r.sub, false, []⟩
  | none => ⟨gslot, x.mask, x.pc, hw, 0, 0, false, []⟩

/-- The lanes of a set that starts at a header stand at the first instruction of the clause. -/
def State.enterClause (s : State) (gk : Nat) (x : LaneSet) (hw : DWord) : State :=
  match x.resume with
  | some _ => s
  | none => (maskLanes x.mask).foldl (fun s p =>
      s.modLane (gk * 64 + p) fun l => { l with pc := x.pc + 8, resume := some ⟨x.pc, hw, 0, 0⟩ }) s

/-- A fault raised where a header is due (R44, R47, R175): on every lane of the set, with PC at the word. -/
def State.headerFault (s : State) (gk : Nat) (x : LaneSet) (f : Flt) (w : DWord) : State :=
  let fl := if f.code = Code.illegal then Flag.decode ||| Flag.header else Flag.header
  let site : Site := ⟨x.pc, w, fl, 0, ⟨if opOf w = 0xFE then 1 else 2, x.pc, x.pc, w, 0, 0⟩⟩
  (maskLanes x.mask).foldl (fun s p => s.takeFault (gk * 64 + p) f site) s

/-- What a set would start with: its clause's header word, or the fault of its header and the word found. -/
def State.headerOf (s : State) (t : Nat) (x : LaneSet) : Except (Flt × DWord) DWord :=
  match x.resume with
  | some r => .ok r.hw
  | none => match s.fetch t x.pc with
    | .word w => if hdrOk w then .ok w else .error (⟨Code.illegal, 0, 0, 0⟩, w)
    | .fault f => .error (f, 0)
    | .stall => .error (⟨Code.illegal, 0, 0, 0⟩, 0)

/-- The lane set that the vote picks (R169). -/
def pickSet (vote : Nat) (sets : List LaneSet) : Option LaneSet :=
  if vote = 63 then minBy (fun x => x.oldest) sets else sets.head?

/-- The second port (R170): the able set with the lowest program counter among the others, when the classes differ and
neither is MIXED. A set whose header is malformed starts nothing there (log entry 18). -/
def State.secondPort (s : State) (gk : Nat) (first : LaneSet) (hw : DWord) (sets : List LaneSet) : State × Option Clause :=
  match sets.filter (· ≠ first) with
  | [] => (s, none)
  | y :: _ =>
    match s.headerOf (s.teamOf gk) y with
    | .error _ => (s, none)
    | .ok hw2 =>
      if hdrClass hw = hdrClass hw2 || hdrClass hw = 7 || hdrClass hw2 = 7 then (s, none)
      else (s.enterClause gk y hw2, some (y.clause (gk % 64) hw2))

/-- The words of a clause of a team brought into the fetch buffer of its issue slot as the clause starts, so that it ends with
them whatever an ILINE drops (R267; log entry 14). A word whose fetch fails or stalls is fetched when it is due. -/
def State.prefetch (s : State) (t core : Nat) (c : Clause) : State × Clause :=
  let got := (List.range (hdrN c.hw)).filterMap fun i =>
    let pc := c.hdr + 8 + BitVec.ofNat 64 (8 * i)
    match s.fetch t pc with | .word w => some (i, pc, w) | _ => none
  (got.foldl (fun s x => s.fetchFill core x.2.1.toNat) s, { c with words := got.map fun x => (x.1, x.2.2) })

/-- The clause of a second port with its words. -/
def State.prefetch? (s : State) (t core : Nat) (c : Option Clause) : State × Option Clause :=
  match c with
  | some c => let (s1, c1) := s.prefetch t core c; (s1, some c1)
  | none => (s, none)

/-- The vote of a group (R169, R170). -/
def State.voteGroup (s : State) (k gk : Nat) : State :=
  let sets := s.ableSets gk
  match pickSet (s.group gk).vote sets with
  | none => s
  | some x =>
    let s1 := (s.modGroup gk fun g => { g with vote := (g.vote + 1) % 64 })
    match s.headerOf (s.teamOf gk) x with
    | .error (f, w) => s1.headerFault gk x f w
    | .ok hw =>
      let s2 := (s1.fetchFill (coreOf gk) x.pc.toNat).enterClause gk x hw
      let (s3, c1) := s2.secondPort gk x hw sets
      let (s4, c0) := s3.prefetch (s.teamOf gk) (coreOf gk) (x.clause (gk % 64) hw)
      let (s5, c1) := s4.prefetch? (s.teamOf gk) (coreOf gk) c1
      s5.modISlot k fun i => { i with c0 := some c0, c1 := c1, yieldDue := false, snap := none }

/-- The first group of the rotation list that can start a clause (R168). -/
def State.firstGroup (s : State) (k : Nat) : Option Nat :=
  (s.islot k).rotation.find? fun g => s.canStart (k / 4 * 64 + g)

/-- The parked clauses of groups that are no longer held (R171). Where several of one slot may continue, which goes on first is
not stated: the one that was put aside first does (log entry 75). -/
def State.unparkable (s : State) (k : Nat) : Option Parked :=
  (s.islot k).parked.find? fun p =>
    match p.c0, p.c1 with
    | some c, _ => !s.held (k / 4 * 64 + c.gslot)
    | none, some c => !s.held (k / 4 * 64 + c.gslot)
    | none, none => true

/-- Groups of a slot that have been able to issue and have not issued for 256 cycles, longest wait first, then by slot. Time
held is no part of the wait: State.passTime moves `lastIssue` on (R171). -/
def State.promotable (s : State) (k : Nat) : List Nat :=
  let age := fun g => s.now - (s.group (k / 4 * 64 + g)).lastIssue
  let q := (s.islot k).rotation.filter fun g =>
    256 ≤ age g && s.canStart (k / 4 * 64 + g) && !s.inClause (k / 4 * 64 + g)
  sortBy (fun a b => age b < age a || (age a = age b && a ≤ b)) q

/-- A promotion that is due on a slot. -/
def State.promotionDue (s : State) (k : Nat) : List Due :=
  let q := s.promotable k
  if (s.islot k).rotation.take q.length = q then []
  else match q with | g :: _ => [.groupPromotion (k / 4) g] | [] => []

/-- An issue slot may vote: no clause in progress, none to continue, no promotion to make first (R168, R172), and a group that
can start one. -/
def State.voteDue (s : State) (k : Nat) : Bool :=
  let i := s.islot k
  i.c0.isNone && i.c1.isNone && (s.unparkable k).isNone && (s.promotionDue k).isEmpty && (s.firstGroup k).isSome

/-- CLAUSE_VOTE (R168 to R170): `islot` numbers the slot within its core. -/
def execClauseVote (core islot : Nat) (s : State) : Res :=
  let k := core * 4 + islot
  if s.voteDue k then
    match s.firstGroup k with
    | some g => .next (s.voteGroup k (core * 64 + g))
    | none => skipEvent s
  else skipEvent s

/-! ## Promotion (R168) -/

/-- GROUP_PROMOTION: the groups that qualify stand at the top of the list. -/
def execGroupPromotion (core gslot : Nat) (s : State) : Res :=
  let k := core * 4 + gslot % 4
  let q := s.promotable k
  if q.contains gslot then
    .next (s.modISlot k fun i => { i with rotation := q ++ i.rotation.filter fun g => !q.contains g })
  else skipEvent s

/-! ## Holds (R171) -/

/-- The group slots of a clause pair. -/
def ISlot.owner (i : ISlot) : Option Nat :=
  match i.c0, i.c1 with
  | some c, _ => some c.gslot
  | none, some c => some c.gslot
  | none, none => none

/-- Whether a slot's clause belongs to a held group, at a core-cycle boundary. -/
def State.parkDue (s : State) (k : Nat) : Bool :=
  let i := s.islot k
  i.snap.isNone && (match i.owner with | some g => s.held (k / 4 * 64 + g) | none => false)

/-- The clauses of a held group are put aside, so that the slot serves its other groups. -/
def State.park (s : State) (k : Nat) : State :=
  s.modISlot k fun i =>
    { i with c0 := none, c1 := none, yieldDue := false, parked := i.parked ++ [⟨i.c0, i.c1, i.yieldDue⟩] }

/-- Whether a slot with no clause in progress has one to continue. -/
def State.unparkDue (s : State) (k : Nat) : Bool :=
  let i := s.islot k
  i.c0.isNone && i.c1.isNone && (s.unparkable k).isSome

/-- A clause whose hold has ended continues. -/
def State.unpark (s : State) (k : Nat) : State :=
  match s.unparkable k with
  | some p => s.modISlot k fun i =>
      { i with c0 := p.c0, c1 := p.c1, yieldDue := p.yieldDue, parked := i.parked.erase p }
  | none => s

/-! ## Deferred faults and firmware's resumption -/

/-- A lane leaves the clause of the issuing port; the clause ends when none is left. -/
def State.dropLane (s : State) (lk : Nat) : State :=
  let c := s.cur
  let k := c.islotKey
  let upd := fun (x : Clause) => { x with mask := x.mask &&& ~~~(1#64 <<< posOf lk) }
  let s1 := s.modISlot k fun i => if c.port = 0 then { i with c0 := i.c0.map upd } else { i with c1 := i.c1.map upd }
  let left := if c.port = 0 then (s1.islot k).c0 else (s1.islot k).c1
  match left with
  | some x => if x.mask = 0 then s1.endClause k c.port else s1
  | none => s1

/-- A deferred fault of a lane whose next instruction is about to issue (R365, R451). -/
def State.deferredDue (s : State) (lk : Nat) : Bool :=
  let l := s.lane lk
  l.state = .active && !l.late.isEmpty && s.setLanes.contains lk

/-- DEFERRED_FAULT: the oldest pending refusal is taken; the instruction does not issue for the lane. -/
def execDeferredFault (lane : Nat) (s : State) : Res :=
  match (s.lane lane).late with
  | f :: rest =>
    if s.deferredDue lane then
      let s1 := s.modLane lane fun l => { l with late := rest }
      .next ((s1.takeFault lane ⟨f.code, f.info, f.aux, 0⟩ (s.site Flag.deferred)).dropLane lane)
    else skipEvent s
  | [] => skipEvent s

/-- A SUSPENDED lane resumed by firmware (R370): ACTIVE, its age then beginning anew (R169), or TRAPPED again when its record has
NESTED. -/
def State.resumeLane (s : State) (lk : Nat) (retry : Bool) : State :=
  s.modLane lk fun l =>
    match l.susp with
    | some r =>
      let (pc, res) := r.target retry
      let nested := l.fault.flags.getLsbD 4
      { l with state := if nested then .trapped else .active, pc := pc, resume := res, susp := none,
               lastIssue := if nested then l.lastIssue else s.now }
    | none => l

def execResumeRetry (lane : Nat) (s : State) : Res :=
  if (s.lane lane).state = .suspended then .next (s.resumeLane lane true) else skipEvent s
def execResumeSkip (lane : Nat) (s : State) : Res :=
  if (s.lane lane).state = .suspended then .next (s.resumeLane lane false) else skipEvent s

/-- RESUME_END (R370, R343, R344): the lane is EXITED and its team counts as faulted. -/
def execResumeEnd (lane : Nat) (s : State) : Res :=
  if (s.lane lane).state = .suspended then
    let t := s.laneTeam lane
    .next ((s.modLaunch (s.team t).launch fun x => { x with faulted := true }).endLane lane)
  else skipEvent s

end Sys2Proof.Machine
end

