-- ==== Sys2Proof/Machine/RegBlocks.lean ====
section
/-! DEFINITION. Register blocks (R203 to R214): octs, REGACQ and REGREL, spill leases, SPILL and FILL in lease form, and
HANDOFF. -/

namespace Sys2Proof.Machine

/-! ## Octs (R203) -/

/-- Bits set among the sixteen of a bank mask. -/
def bankCount (m : BitVec 16) : Nat := ((List.range 16).filter fun i => m.getLsbD i).length

/-- Group slots of a context on a core. -/
def State.ctxGroups (s : State) (c core : Nat) : List Nat :=
  ((List.range 64).map (core * 64 + ·)).filter fun gk => s.teamOf gk ≠ 0 && s.ctxOf gk = c

/-- Groups whose spill lease holds a bank of a core, for a context. -/
def State.lentBy (s : State) (c core : Nat) : List Nat :=
  (s.groups.filter fun p => s.ctxOf p.1 = c && (match p.2.bank with | some (k, _) => k = core | none => false)).map Prod.fst

/-- Octs that a context uses on a core: blocks of its groups, and banks lent. -/
def State.octsUsed (s : State) (c core : Nat) : Nat :=
  sumBy (fun gk => s.allocation gk / 8) (s.ctxGroups c core) + 16 * (s.lentBy c core).length

/-- Octs that a context holds on a core. -/
def State.octsHeld (s : State) (c core : Nat) : Nat :=
  match (s.ctx c).alloc.get? core with | some a => 16 * bankCount a.rbanks | none => 0

/-- Free octs of a context on a core. -/
def State.octsFree (s : State) (c core : Nat) : Nat := s.octsHeld c core - s.octsUsed c core

/-- The backing area that is the lease storage of a group now: the 32 KiB of its slot in the frame of its core, in the spare of a
RETIRED one (R208, R384). A group that holds a bank, or whose core has no such frame, has none. -/
def State.leaseArea (s : State) (gk : Nat) : Option Nat :=
  let g := s.group gk
  let x := s.ctx (s.ctxOf gk)
  if !g.leaseOn || g.bank.isSome then none
  else (x.backs.findIdx? fun k => k = coreOf gk).map fun i => s.spareAddr (x.backing + i * 0x200000) + gk % 64 * 0x8000

/-- The granule of an area that holds quad `q` of a lane (log entry 77). -/
def areaGran (a q lane : Nat) : Nat := a + (q * 64 + lane) * 16

/-- Storage of a lease in a bank, as a quad: `k` is its first register × 64 + lane. -/
def leaseQuad (g : Group) (k : Nat) : Quad :=
  let w := fun j => g.lease.getD (k + 64 * j) (0 : Word)
  w 3 ++ w 2 ++ w 1 ++ w 0

/-- Quad `q` of a lane in the lease storage of a group, with its tag and its poisoned registers. -/
def State.leaseAt (s : State) (gk q lane : Nat) : Quad × Bool × List Nat :=
  match s.leaseArea gk with
  | some a =>
    let p := areaGran a q lane
    (s.granData p, s.granTag p, if s.granPoison p then [0, 1, 2, 3] else [])
  | none =>
    let g := s.group gk
    let k := 4 * q * 64 + lane
    (leaseQuad g k, g.leaseTags.contains k, (List.range 4).filter fun j => g.leasePoison.contains (k + 64 * j))

/-- A quad of a bank's lease storage written. -/
def Group.putLease (g : Group) (q lane : Nat) (v : Quad) (tag : Bool) (bad : List Nat) : Group :=
  let k := 4 * q * 64 + lane
  { g with
    lease := (List.range 4).foldl (fun t j => putWord t (k + 64 * j) (quadWord v j)) g.lease
    leasePoison := (List.range 4).foldl (fun l j => putNat l (k + 64 * j) (bad.contains j)) g.leasePoison
    leaseTags := putNat g.leaseTags k tag }

/-- A quad of the lease storage of a group written (R212); a register that is poisoned poisons its granule in memory (R377). -/
def State.leasePut (s : State) (gk q lane : Nat) (v : Quad) (tag : Bool) (bad : List Nat) : State :=
  match s.leaseArea gk with
  | some a => s.granStore (areaGran a q lane) v 0xFFFF tag (!bad.isEmpty)
  | none => s.modGroup gk fun g => g.putLease q lane v tag bad

/-- What a group's bank or image holds becomes the contents of its backing area, where it has one (R209, R361). -/
def State.toBacking (s : State) (gk : Nat) : State :=
  match s.leaseArea gk with
  | some a =>
    let g := s.group gk
    let held := ((g.lease.map Prod.fst ++ g.leaseTags ++ g.leasePoison).map fun k => (k / 256, k % 64)).eraseDups
    let put := fun (s : State) (p : Nat × Nat) =>
      let k := 4 * p.1 * 64 + p.2
      s.granStore (areaGran a p.1 p.2) (leaseQuad g k) 0xFFFF (g.leaseTags.contains k)
        ((List.range 4).any fun j => g.leasePoison.contains (k + 64 * j))
    (held.foldl put (s.zeroRange a 0x8000)).modGroup gk fun g => { g with lease := [], leaseTags := [], leasePoison := [] }
  | none => s

/-- A group with what its backing area holds, as it is taken off its core. -/
def State.fromBacking (s : State) (gk : Nat) : Group :=
  match s.leaseArea gk with
  | some _ =>
    (List.range 32).foldl (fun g q => (List.range 64).foldl (fun g lane =>
      let (v, t, bad) := s.leaseAt gk q lane
      g.putLease q lane v t bad) g) (s.group gk)
  | none => s.group gk

/-- Leases revoked until `n` octs are free (R209), the first leased group in order first (log entry 77): the bank's contents go to the
borrowing group's backing area with their tags, and that is its storage from then on. -/
def State.revoke (s : State) (c core n : Nat) : State :=
  (s.lentBy c core).foldl (fun s gk =>
    if s.octsFree c core < n then (s.modGroup gk fun g => { g with bank := none }).toBacking gk else s) s

/-- Octs that can be had on a core, with every lease revoked. -/
def State.octsCould (s : State) (c core : Nat) : Nat := s.octsFree c core + 16 * (s.lentBy c core).length

/-! ## REGACQ and REGREL -/

/-- EXT of the kernel of a group, in registers. -/
def State.extRegs (s : State) (gk : Nat) : Nat :=
  match s.vers.get? (s.team (s.teamOf gk)).ver with | some v => v.desc.ext | none => 0

/-- The extended block granted: its registers read zero with clear tags (R204). -/
def State.grantExt (s : State) (gk : Nat) : State :=
  let n := s.allocation gk
  let m := s.extRegs gk
  let s1 := s.modGroup gk fun g => { g with ext := true }
  (groupLanes gk).foldl (fun s lk => s.modLane lk fun l =>
    { l with
      regs := l.regs.filter fun p => !(n ≤ p.1 && p.1 < n + m)
      tags := l.tags.filter fun q => !(n ≤ 4 * q && 4 * q < n + m)
      poison := l.poison.filter fun r => !(n ≤ r && r < n + m) }) s1

/-- The queue of a context on a core (R206). -/
def State.regq (s : State) (c core : Nat) : List Waiter := (s.ctx c).regq.getD core []

/-- A lane set that waits, with its result registers. -/
def State.waiter (s : State) (g : BitVec 4) (l : Nat) (d b : BitVec 9) : Waiter :=
  ⟨groupOf l, posOf l, lanesMask ((s.guardTrue g).map posOf), d, b, [], s.laneCtx l, false⟩

/-- REGACQ.wait (R205): the lane set joins the queue and sleeps until the grant. -/
def regacqWaitOnce (f : FmtS) (s : State) (l : Nat) : State × LaneRes :=
  let gk := groupOf l
  let c := s.laneCtx l
  if s.extRegs gk = 0 then (s, okReg f.d 3)
  else if (s.group gk).ext then (s, okReg f.d 1)
  else
    let w := s.waiter f.g l f.d 0x140
    (s.modCtx c fun x => { x with regq := x.regq.set s.cur.core (s.regq c s.cur.core ++ [w]) }, .ok [.sleep .regacq])

def execRegacqWait (f : FmtS) (s : State) : Res := onceInstr (.regacqWait f) (regacqWaitOnce f) s

/-- REGACQ.try (R205, R206). -/
def regacqTryOnce (f : FmtS) (s : State) (l : Nat) : State × LaneRes :=
  let gk := groupOf l
  let c := s.laneCtx l
  if s.extRegs gk = 0 then (s, okReg f.d 3)
  else if (s.group gk).ext then (s, okReg f.d 1)
  else if (s.regq c s.cur.core).isEmpty && s.extRegs gk / 8 ≤ s.octsFree c s.cur.core then (s.grantExt gk, okReg f.d 0)
  else (s, okReg f.d 2)

def execRegacqTry (f : FmtS) (s : State) : Res := onceInstr (.regacqTry f) (regacqTryOnce f) s

/-- The head of a queue can be granted. A group that has received its block meanwhile needs nothing. -/
def State.regacqReady (s : State) (c core : Nat) : Bool :=
  match s.regq c core with
  | w :: _ => (s.group w.gkey).ext || s.extRegs w.gkey / 8 ≤ s.octsCould c core
  | [] => false

/-- REGACQ_GRANT (R206): a lease that holds the octs is revoked first (R209). -/
def execRegacqGrant (ctx core : Nat) (s : State) : Res :=
  match s.regq ctx core with
  | w :: rest =>
    if !s.regacqReady ctx core then skipEvent s
    else
      let s1 := s.modCtx ctx fun x => { x with regq := x.regq.set core rest }
      let had := (s.group w.gkey).ext
      let s2 := if had then s1 else (s1.revoke ctx core (s.extRegs w.gkey / 8)).grantExt w.gkey
      .next (s2.wakeMask w.gkey w.mask (onceWrites w.acting [.reg w.d 0 (if had then 1 else 0)]))
  | [] => skipEvent s

/-- REGREL (R207). -/
def regrelOnce (f : FmtS) (s : State) (l : Nat) : State × LaneRes :=
  let gk := groupOf l
  if (s.group gk).ext then (s.modGroup gk fun g => { g with ext := false }, okReg f.d 0) else (s, okReg f.d 1)

def execRegrel (f : FmtS) (s : State) : Res := onceInstr (.regrel f) (regrelOnce f) s

/-- A spill lease given back, its contents discarded. -/
def Group.endLease (g : Group) : Group :=
  { g with leaseOn := false, lease := [], leaseTags := [], leasePoison := [], bank := none }

/-- REGREL.lease (R205). -/
def regrelLeaseOnce (f : FmtS) (s : State) (l : Nat) : State × LaneRes :=
  let gk := groupOf l
  if (s.group gk).leaseOn then (s.modGroup gk Group.endLease, okReg f.d 0) else (s, okReg f.d 1)

def execRegrelLease (f : FmtS) (s : State) : Res := onceInstr (.regrelLease f) (regrelLeaseOnce f) s

/-! ## SPILL and FILL in lease form (R208, R212) -/

/-- The lowest bank of a core that a context holds and has not lent. -/
def State.freeBank (s : State) (c core : Nat) : Option Nat :=
  match (s.ctx c).alloc.get? core with
  | some a => (List.range 16).find? fun b => a.rbanks.getLsbD b && !s.groups.any fun p => p.2.bank = some (core, b)
  | none => none

/-- The bank that a first spill borrows: of the lowest-numbered core of the cluster with a whole bank free (R208), the borrowing
core among them, the lowest bank there (log entry 77). -/
def State.borrow (s : State) (c core : Nat) : Option (Nat × Nat) :=
  ((List.range 8).map (core / 8 * 8 + ·)).findSome? fun k =>
    if 16 ≤ s.octsFree c k then (s.freeBank c k).map fun b => (k, b) else none

/-- The quads of a lease-form transfer: quad counted from the register field, quad of the storage. -/
def leaseQuads (f : FmtM) : List (Nat × Nat) := (List.range (2 * (countBits f + 1))).map fun i => (i, 2 * f.off.toNat + i)

/-- SPILL.lease for the lanes of the set: the first one begins the lease, whose storage reads zero (R212). -/
def execSpillLease (f : FmtM) (s : State) : Res :=
  instr (.spillLease f) s fun s =>
    let ls := s.guardTrue f.g
    let gk := s.cur.gkey
    let c := s.ctxOf gk
    let s1 :=
      if ls.isEmpty || (s.group gk).leaseOn then s
      else (s.modGroup gk fun g => { g.endLease with leaseOn := true, bank := s.borrow c s.cur.core }).toBacking gk
    let put := fun (s' : State) lk => (leaseQuads f).foldl (fun (s' : State) p =>
      s'.leasePut gk p.2 (posOf lk) (s.quadBits lk f.d p.1) (s.filtered (s.quadBits lk f.d p.1) (s.quadTag lk f.d p.1))
        ((List.range 4).filter fun j => s.regsBad lk f.d (4 * p.1 + j) 1)) s'
    let s2 := ls.foldl put s1
    .next (s2.commit (ls.map fun lk => (lk, .ok [])) ls.head? false)

/-- FILL.lease for one lane. -/
def fillLeaseLane (f : FmtM) (s : State) (lk : Nat) : LaneRes :=
  .ok ((leaseQuads f).flatMap fun p =>
    let (v, t, bad) := s.leaseAt (groupOf lk) p.2 (posOf lk)
    .rw (.quad f.d p.1 v (s.filtered v t)) :: bad.map fun j => .rw (.bad f.d (4 * p.1 + j)))

def execFillLease (f : FmtM) (s : State) : Res := laneInstr (.fillLease f) (fillLeaseLane f) s

/-! ## HANDOFF (R214) -/

/-- A thread's inherit range as it stands. A quad only partly inside it leaves its tag behind (log entry 78). -/
def State.handSnap (s : State) (lk : Nat) : HandSnap :=
  match s.vers.get? (s.team (s.laneTeam lk)).ver with
  | some v =>
    let inR := fun r => v.desc.inhLo ≤ r && r ≤ v.desc.inhHi
    let l := s.lane lk
    ⟨l.regs.filter fun p => inR p.1,
      l.tags.filter fun q => inR (4 * q) && inR (4 * q + 3) && s.filtered (s.taggedQuad lk q) true, l.poison.filter inR⟩
  | none => ⟨[], [], []⟩

/-- POISON for the lowest poisoned register of a thread's inherit range, which HANDOFF reads (R377). -/
def State.handPoison (s : State) (lk : Nat) : Option Flt :=
  (s.handSnap lk).poison.head?.map fun r => ⟨Code.poison, BitVec.ofNat 64 r, 0, 0⟩

/-- HANDOFF: each guard-true lane records a snapshot, replacing an earlier one, unless it faults. -/
def execHandoff (f : FmtS) (s : State) : Res :=
  instr (.handoff f) s fun s =>
    let ls := s.guardTrue f.g
    let s1 := s.modTeam (s.teamOf s.cur.gkey) fun m =>
      { m with snaps := (ls.filter fun lk => (s.handPoison lk).isNone).foldl (fun t lk => t.set (s.lane lk).tid (s.handSnap lk)) m.snaps }
    .next (s1.commit (ls.map fun lk => (lk, withPoison (s.handPoison lk) (.ok []))) none false)

/-- Grants that are due. -/
def State.regDue (s : State) : List Due :=
  s.ctxs.flatMap fun p => p.2.regq.flatMap fun q => if s.regacqReady p.1 q.1 then [.regacqGrant p.1 q.1] else []

end Sys2Proof.Machine
end

