-- ==== Sys2Proof/Machine/Matrix.lean ====
section
/-! DEFINITION. The matrix engine (R269 to R288, R452): tensor identifiers, weight slots, MMA and MMAT, row and column
predicates, the tree table, and MQUANT. -/

namespace Sys2Proof.Machine

/-! ## Formats (R75, R278) -/

abbrev Fmt.f32 : Nat := 0x01
abbrev Fmt.f16 : Nat := 0x02
abbrev Fmt.bf16 : Nat := 0x03
abbrev Fmt.tri8 : Nat := 0x10
abbrev Fmt.tri16 : Nat := 0x11
abbrev Fmt.s8 : Nat := 0x20

def isResidue (fmt : Nat) : Bool := fmt = Fmt.tri8 || fmt = Fmt.tri16
def isFloat (fmt : Nat) : Bool := fmt = Fmt.f32 || fmt = Fmt.f16 || fmt = Fmt.bf16

/-- Whether a scale code is accepted for a format (R75). -/
def scaleOk (fmt sfmt : Nat) : Bool :=
  if isFloat fmt then sfmt = 0 || sfmt = 2
  else if isResidue fmt || fmt = Fmt.s8 then sfmt ≤ 2 else false

/-- Element size in bytes. -/
def fmtSize (fmt : Nat) : Nat := if fmt = Fmt.f32 then 4 else if fmt = Fmt.tri8 || fmt = Fmt.s8 then 1 else 2
/-- Dense K (R278). -/
def fmtK (fmt : Nat) : Nat := if fmt = Fmt.f32 then 8 else if fmt = Fmt.tri8 then 64 else 32
/-- Dense R (R278). -/
def fmtR (fmt : Nat) : Nat := if fmt = Fmt.f32 then 8 else 16
/-- Data bytes of a slot image (R274). -/
def imgData (fmt : Nat) : Nat := 16 * fmtK fmt * fmtSize fmt
/-- Metadata bytes of a 2:4 image. -/
def imgMeta (fmt : Nat) (sp : Bool) : Nat := if sp then 4 * fmtK fmt else 0
/-- Scale bytes of an image. -/
def imgScale (sfmt : Nat) : Nat := if sfmt = 1 then 16 else if sfmt = 2 then 64 else 0
/-- Image bytes (R274). -/
def imgBytes (fmt sfmt : Nat) (sp : Bool) : Nat := imgData fmt + imgMeta fmt sp + imgScale sfmt

/-! ## Tensor identifier entries (R270 to R272) -/

/-- `n` bytes of an entry from byte `b`. -/
def TnEntry.field (e : TnEntry) (b n : Nat) : Nat := e.bits.toNat / 2 ^ (8 * b) % 2 ^ (8 * n)
def TnEntry.base (e : TnEntry) : Quad × Bool := (e.bits.extractLsb' 0 128, e.tag)
def TnEntry.ext (e : TnEntry) (i : Nat) : Nat := e.field (16 + 4 * i) 4
/-- STRIDEi, for i from 1. -/
def TnEntry.stride (e : TnEntry) (i : Nat) : Nat := e.field (32 + 4 * i) 4
def TnEntry.fmt (e : TnEntry) : Nat := e.field 52 1
def TnEntry.rank (e : TnEntry) : Nat := e.field 53 1
def TnEntry.sblk (e : TnEntry) : Nat := e.field 54 1
def TnEntry.sfmt (e : TnEntry) : Nat := e.field 55 1
def TnEntry.soff (e : TnEntry) : Nat := e.field 56 8

/-- The limits of R271. -/
def TnEntry.ok (e : TnEntry) : Bool :=
  let r := e.rank
  (isFloat e.fmt || isResidue e.fmt || e.fmt = Fmt.s8) && scaleOk e.fmt e.sfmt && 1 ≤ r && r ≤ 5 &&
  ((List.range 5).all fun i => if i < r then e.ext i ≠ 0 else e.ext i = 0) &&
  ((List.range 4).all fun j => if j + 1 < r then e.stride (j + 1) ≠ 0 && e.stride (j + 1) % 16 = 0
    else e.stride (j + 1) = 0) &&
  (if e.sfmt = 0 then e.sblk = 0 && e.soff = 0
   else if e.fmt = Fmt.tri16 then e.sblk = 5
   else if e.fmt = Fmt.tri8 || e.fmt = Fmt.s8 then e.sblk = 6
   else e.sblk ≤ 15)

/-- The status of TIDSET (R271). -/
def State.tidStatus (s : State) (l : Nat) (e : TnEntry) : Nat :=
  let c := Cap.ofQuad e.base.1
  match checkCode e.tag c (s.laneColour l) accLocal Perm.ld c.base 1 with
  | some _ => 1
  | none => if e.ok then 0 else 2

/-- The words of `n` registers from a field as one number. -/
def State.regsNat (s : State) (lk : Nat) (f : BitVec 9) (n : Nat) : Nat :=
  sumBy (fun k => (s.reg lk f k).toNat * 2 ^ (32 * k)) (List.range n)

/-- TIDSET (R272). -/
def tidsetOnce (f : FmtT) (s : State) (l : Nat) : State × LaneRes :=
  let e : TnEntry := ⟨BitVec.ofNat 512 (s.regsNat l f.a 16), s.quadTag l f.a 0, true⟩
  let st := s.tidStatus l e
  let s1 := if st ≠ 0 then s
    else s.modTeam (s.laneTeam l) fun m =>
      { m with tns := m.tns.set (f.mod.toNat % 64) { e with tag := s.filtered e.base.1 e.tag } }
  (s1, okReg f.d (BitVec.ofNat 32 st))

def execTidset (f : FmtT) (s : State) : Res := onceInstr (.tidset f) (tidsetOnce f) s

/-- An entry of a team; zero and invalid at launch (R269). -/
def Team.tn (m : Team) (n : Nat) : TnEntry := m.tns.getD n TnEntry.zero

/-- TIDGET (R272). -/
def execTidget (f : FmtT) (s : State) : Res :=
  laneInstr (.tidget f) (fun s lk => okRegs f.d ((s.team (s.laneTeam lk)).tn (f.mod.toNat % 64)).bits.toNat 16) s

/-! ## Weight slots (R273 to R277, R452) -/

def WSlot.zero : WSlot := ⟨.empty, [], 0, 0, false, []⟩
def Ctx.slot (x : Ctx) (core n : Nat) : WSlot := x.slots.getD (core * 256 + n) WSlot.zero
def State.setSlot (s : State) (c core n : Nat) (w : WSlot) : State :=
  s.modCtx c fun x => { x with slots := x.slots.set (core * 256 + n) w }

/-- 16h of R273. -/
def State.slotCount (s : State) (c core : Nat) : Nat :=
  match (s.ctx c).alloc.get? core with | some a => 16 * bankCount a.wbanks | none => 0

/-- A slot number: the field and the uniform register, modulo 256. -/
def State.slotNo (s : State) (l : Nat) (d : Nat) (c : BitVec 9) : Nat := (d % 256 + (s.reg1 l c).toNat % 256) % 256

/-- ILLEGAL_OPERAND for a value read from a register or a table (R450). -/
def valueFlt (v : Nat) : Flt := ⟨Code.illegalOperand, BitVec.ofNat 64 (0xFF * 2 ^ 56 + v), 0, 0⟩

/-- ADDRESS_HOLE and FRAME_STATE over a range that a thread checks at issue for an engine; a stall passes. -/
def State.rangePlace (s : State) (c core colour : Nat) (a n : Nat) (isStore : Bool) : Option Flt :=
  (granRange a n).findSome? fun p => match s.accPlace c core colour p.1 p.2 isStore false false with
    | .error e => some e
    | .ok _ => none

/-- What an engine reads for a load. -/
def State.loadEng (s : State) (n : Nat) (w : WLoad) : Eng := ⟨w.core, w.ctx, (s.ctx w.ctx).colour, w.team, n, w.buf⟩

/-- The granules of a load's image. -/
def WLoad.pieces (w : WLoad) : List Piece := (granRange w.addr w.bytes).map fun p => ⟨w.cap, p.1, p.2, false⟩

/-- WLOAD's checks (R276): slot, address, image bytes. -/
def wloadCheck (f : FmtX) (s : State) (l : Nat) : Except Flt (Nat × Nat × Nat) :=
  let sp := f.xo.getLsbD 0
  let n := s.slotNo l f.d.toNat f.c
  let e := (s.team (s.laneTeam l)).tn f.tid.toNat
  let c := s.laneCtx l
  if s.slotCount c s.cur.core ≤ n || !e.valid || e.fmt = Fmt.s8 || (sp && isResidue e.fmt && e.sfmt ≠ 0) then
    .error (valueFlt n)
  else
    let q := s.quad l f.a
    let bytes := imgBytes e.fmt e.sfmt sp
    let a : Int := (Cap.ofQuad q.1).cur + (s.reg1 l f.b).toInt
    match s.accPre (s.laneColour l) q accLocal Perm.ld a bytes 64 false with
    | .error e => .error e
    | .ok x => match s.rangePlace c s.cur.core (s.laneColour l) x bytes false with
      | some e => .error e
      | none => .ok (n, x, bytes)

/-- WLOAD (R276): the slot is LOADING and the engine reads the image; the issue is a release at .dev (R245). -/
def wloadOnce (f : FmtX) (s : State) (l : Nat) : State × LaneRes :=
  match wloadCheck f s l with
  | .error e => (s, .error e)
  | .ok (n, a, bytes) =>
    let c := s.laneCtx l
    let t := s.laneTeam l
    let e := (s.team t).tn f.tid.toNat
    let s1 := (s.flushAll (s.unitOf c s.cur.core) c).setSlot c s.cur.core n
      ⟨.loading, [], e.fmt, e.sfmt, f.xo.getLsbD 0, []⟩
    let (k, s2) := s1.takeNum
    let w : WLoad :=
      ⟨s.cur.core, c, n, t, if f.xo.getLsbD 1 then none else some f.bar.toNat,
        ((s.quad l f.a).1, s.filtered (s.quad l f.a).1 (s.quad l f.a).2), a, bytes, []⟩
    ({ s2 with wloads := s2.wloads.set k w }, .ok [])

def execWload (f : FmtX) (s : State) : Res := onceInstr (.wload f) (wloadOnce f) s

/-- The arrival of a load on its barrier (R218, R452). -/
def State.loadArrive (s : State) (w : WLoad) (err : Bool) : State :=
  match w.bar with
  | none => s
  | some b => s.barUpdate (.team w.team b) w.team fun x => ({ x with err := x.err || err } : Bar).engineArrive w.bytes

/-- A later load of the same slot is in flight. -/
def State.laterLoad (s : State) (n : Nat) (w : WLoad) : Bool :=
  s.wloads.any fun p => n < p.1 && p.2.core = w.core && p.2.ctx = w.ctx && p.2.slot = w.slot

/-- Bytes of its image that a load has read. -/
def State.loadGot (s : State) (n : Nat) (w : WLoad) : Nat := sumBy (·.n) (w.pieces.filter (s.loadEng n w).has)

/-- A load that is refused (R452). -/
def State.refuseLoad (s : State) (n : Nat) (w : WLoad) (code : Byte) (addr bytes : Nat) : State :=
  let s1 := { s with wloads := s.wloads.erase n }
  let s2 := if s.laterLoad n w then s1 else s1.setSlot w.ctx w.core w.slot WSlot.zero
  (s2.loadArrive w true).postEngineError w.ctx 0xA2 0 code addr bytes w.core (srcCore w.core)

/-- A load whose image has been read. -/
def State.loadReady (s : State) (n : Nat) (w : WLoad) : Bool := w.pieces.all (s.loadEng n w).has

/-- WLOAD_COMPLETE (R275): the last image byte arrives. -/
def execWloadComplete (load : Nat) (s : State) : Res :=
  match s.wloads.get? load with
  | none => skipEvent s
  | some w =>
    if !s.loadReady load w then skipEvent s
    else
      let vals := (s.gather (s.loadEng load w) w.pieces).vals
      let x := (s.ctx w.ctx).slot w.core w.slot
      let img := piecesBytes (w.pieces.map (·.n)) vals
      let bad := (List.range vals.length).filter fun i => match vals[i]? with | some v => v.poison | none => false
      let s1 := { s with wloads := s.wloads.erase load }
      let s2 := if s.laterLoad load w || x.state ≠ .loading then s1
        else s1.setSlot w.ctx w.core w.slot { x with state := .ready, image := img, poison := bad }
      .next (s2.loadArrive w false)

/-- WLOAD_REFUSED (R452). -/
def execWloadRefused (load : Nat) (code : Byte) (addr : DWord) (bytes : Nat) (s : State) : Res :=
  match s.wloads.get? load with
  | some w => .next (s.refuseLoad load w code addr.toNat bytes)
  | none => skipEvent s

/-- WINV (R277). -/
def winvOnce (f : FmtT) (s : State) (l : Nat) : State × LaneRes :=
  let n := s.slotNo l f.mod.toNat f.a
  let c := s.laneCtx l
  if s.slotCount c s.cur.core ≤ n then (s, .error (valueFlt 0))
  else (s.setSlot c s.cur.core n WSlot.zero, .ok [])

def execWinv (f : FmtT) (s : State) : Res := onceInstr (.winv f) (winvOnce f) s

/-! ## MPRED (R285) -/

def Ctx.mrowAt (x : Ctx) (core p : Nat) : DWord := rowOf x.mrow core p
def Ctx.mcolAt (x : Ctx) (core p : Nat) : BitVec 16 := colOf x.mcol core p

/-- MPRED.set. -/
def mpredSetOnce (f : FmtT) (s : State) (l : Nat) : State × LaneRes :=
  let k := s.cur.core * 4 + f.mod.toNat % 4
  (s.modCtx (s.laneCtx l) fun x =>
    if f.mod.getLsbD 2 then { x with mcol := x.mcol.set k ((s.reg1 l f.a).extractLsb' 0 16) }
    else { x with mrow := x.mrow.set k (s.pair l f.a) }, .ok [])

def execMpredSet (f : FmtT) (s : State) : Res := onceInstr (.mpredSet f) (mpredSetOnce f) s

/-- MPRED.get. -/
def mpredGetLane (f : FmtT) (s : State) (lk : Nat) : LaneRes :=
  let x := s.ctx (s.laneCtx lk)
  let p := f.mod.toNat % 4
  if f.mod.getLsbD 2 then okReg f.d ((x.mcolAt s.cur.core p).setWidth 32) else okRegs f.d (x.mrowAt s.cur.core p).toNat 2

def execMpredGet (f : FmtT) (s : State) : Res := laneInstr (.mpredGet f) (mpredGetLane f) s

/-! ## Signing (R281) -/

/-- One lane at MMA or MMAT: members sign whatever their guard; another lane mismatches when its guard is true. Poisoned operands
poison the accumulators and raise nothing (R284, R377). -/
def mmaLane (f : FmtX) (tree : Bool) (s : State) (lk : Nat) : State × Option LaneRes :=
  let t := s.laneTeam lk
  let n := f.bar.toNat
  let r := s.cv t n
  let g := s.guard f.g lk
  let here := r.state ≠ .free && r.owner = s.cur.gslot && r.set.getLsbD (posOf lk)
  if !here && !g then (s, none)
  else match r.sign s.cur.gslot (posOf lk) (s.team t).ver s.cur.pc (some (f, tree)) with
    | some x =>
      let old := if r.state = .signing then r.guards else 0
      let x1 := { x with guards := if g then old ||| (1#64 <<< posOf lk) else old }
      (s.setCv t n x1, some (.ok [.sleep (.cv n)]))
    | none => (s, some (.error ⟨Code.convMismatch, 0, 0, 0⟩))

/-- The lanes of the set sign in lane order; the round that they complete then reads its operands. -/
def mmaBody (f : FmtX) (tree : Bool) (s : State) : State :=
  let (s1, rs) := s.setLanes.foldl (fun (a : State × List (Nat × LaneRes)) lk =>
    match mmaLane f tree a.1 lk with
    | (s1, some r) => (s1, a.2 ++ [(lk, r)])
    | (s1, none) => (s1, a.2)) (s, [])
  (s1.cvSettle (s.teamOf s.cur.gkey) f.bar.toNat).commit rs none false

def execMma (f : FmtX) (s : State) : Res := instr (.mma f) s fun s => .next (mmaBody f false s)
def execMmat (f : FmtX) (s : State) : Res := instr (.mmat f) s fun s => .next (mmaBody f true s)

/-! ## The product (R77, R78, R283) -/

/-- Element `k` of size `z` bytes in little-endian bits. -/
def elemAt (z x k : Nat) : Nat := x / 2 ^ (8 * z * k) % 2 ^ (8 * z)

/-- The float format of a code. -/
def fmtF (fmt : Nat) : FFmt := if fmt = Fmt.f32 then Machine.f32 else if fmt = Fmt.f16 then Machine.f16 else Machine.bf16

/-- A scale (R75). -/
def scaleVal (sfmt bits : Nat) : FV :=
  if sfmt = 0 then .fin false 1 0
  else if sfmt = 1 then (if bits % 256 = 255 then .nan else .fin false 1 (((bits % 256 : Nat) : Int) - 127))
  else Machine.f32.val (bits % 2 ^ 32)

/-- The moduli of the accumulator base (R73): the low half of four, then the high half. -/
def accLow : List Nat := [31, 32, 63, 127]
def accHigh : List Nat := [125, 121, 113, 109]

/-- The inverse of `x` modulo `m` (R73). -/
def invMod (x m : Nat) : Nat := ((List.range m).find? fun y => x * y % m = 1 % m).getD 0

/-- CRT8 and CRT4 (R73): the channel values over some moduli decoded, to the range that is symmetric for an odd product. -/
def crt (ms c : List Nat) : Int :=
  let big := ms.foldl (· * ·) 1
  let u := sumBy (fun p => p.2 * (big / p.1) * invMod (big / p.1 % p.1) p.1) (ms.zip c) % big
  if big < 2 * u || big = 2 * u then (u : Int) - big else u

/-- The channels after a sum of products (R73, R74): every operand enters reduced modulo each channel's modulus. -/
def accSum (ms : List Nat) (ps : List (Int × Int)) : List Nat :=
  ms.map fun (m : Nat) => (sumBy (fun (p : Int × Int) => (p.1 % (m : Int)).toNat * (p.2 % (m : Int)).toNat) ps) % m

/-- The elements at even, and at odd, places of a list. -/
def everyOther {α : Type} : List α → List α × List α
  | [] => ([], [])
  | a :: t => let (e, o) := everyOther t; (a :: o, e)

/-- The integer sum that the base gives (R74): TRI16 in all eight channels; TRI8 with even K elements in the low half and odd
ones in the high half. -/
def accDecode (t16 : Bool) (ps : List (Int × Int)) : Int :=
  if t16 then crt (accLow ++ accHigh) (accSum (accLow ++ accHigh) ps)
  else
    let (even, odd) := everyOther ps
    crt accLow (accSum accLow even) + crt accHigh (accSum accHigh odd)

/-- The values of residue pairs, none when an operand is NaN (R74). -/
def residueVals (t16 : Bool) : List (Nat × Nat) → Option (List (Int × Int))
  | [] => some []
  | (a, b) :: ps => match triVal t16 a, triVal t16 b, residueVals t16 ps with
    | some x, some y, some r => some ((x, y) :: r)
    | _, _, _ => none

/-- The integer sum of residue products, none when an operand is NaN (R74). -/
def residueSum (t16 : Bool) (ps : List (Nat × Nat)) : Option Int := (residueVals t16 ps).map (accDecode t16)

/-- Products of residue elements that are not all zero. -/
def residueLive (t16 : Bool) (ps : List (Nat × Nat)) : Bool :=
  ps.any fun p => match triVal t16 p.1, triVal t16 p.2 with | some x, some y => x * y ≠ 0 | _, _ => false

/-- An integer as an exact value. -/
def FV.ofInt (x : Int) : FV := .fin (x < 0) x.natAbs 0

/-- The F32 accumulator (R77); `ps` are the unmasked pairs of elements. A residue sum that cancels is +0 whatever the sign
of a finite scale (log entry 27). -/
def mmaF32 (fmt : Nat) (ps : List (Nat × Nat)) (sa sb : FV) (c : Nat) : Nat :=
  let sab := sa.mul sb
  let cv := Machine.f32.val c
  if isResidue fmt then
    let t16 := decide (fmt = Fmt.tri16)
    match residueSum t16 ps with
    | none => Machine.f32.nan
    | some r =>
      let term := match sab with
        | .fin _ _ _ => if r = 0 && residueLive t16 ps then .fin false 0 0 else (FV.ofInt r).mul sab
        | x => (FV.ofInt r).mul x
      Machine.f32.sumV 0 false [cv, term]
  else
    let v := (fmtF fmt).val
    Machine.f32.sumV 0 false (cv :: ps.map fun p => ((v p.1).mul (v p.2)).mul sab)

/-- The integer NaN marker (R78). -/
abbrev s64Nan : Nat := 2 ^ 63

/-- The S64 accumulator (R78). -/
def mmaS64 (fmt : Nat) (ps : List (Nat × Nat)) (sa sb : FV) (c : Nat) : Nat :=
  match residueSum (fmt = Fmt.tri16) ps with
  | none => s64Nan
  | some r =>
    if sa = .nan || sb = .nan || c = s64Nan then s64Nan
    else (sat (-2 ^ 63 + 1) (2 ^ 63 - 1) (toSigned 64 c + r) % 2 ^ 64).toNat

/-- Element (k, j) of a slot after decompression (R274). -/
def WSlot.elem (w : WSlot) (img : Nat) (k j : Nat) : Nat :=
  let z := fmtSize w.fmt
  let n := fmtK w.fmt
  if !w.sparse then elemAt z img (j * n + k)
  else
    let md := img / 2 ^ (8 * imgData w.fmt)
    let pos := fun i => md / 2 ^ (j * 2 * n + 2 * i) % 4
    let i := 2 * (k / 4)
    if pos (i + 1) = k % 4 then elemAt z img (j * n + i + 1)
    else if pos i = k % 4 then elemAt z img (j * n + i)
    else 0

/-- The scale of column `j` of a slot. -/
def WSlot.scale (w : WSlot) (img : Nat) (j : Nat) : FV :=
  let sc := img / 2 ^ (8 * (imgData w.fmt + imgMeta w.fmt w.sparse))
  scaleVal w.sfmt (if w.sfmt = 1 then elemAt 1 sc j else elemAt 4 sc j)

/-- Whether a poisoned granule of a slot feeds column `j` (R284). -/
def WSlot.colBad (w : WSlot) (j : Nat) : Bool :=
  let n := fmtK w.fmt * fmtSize w.fmt
  let d := imgData w.fmt
  let m := imgMeta w.fmt w.sparse
  let sc := if w.sfmt = 1 then 1 else 4
  let meets := fun g lo hi => lo < 16 * g + 16 && 16 * g < hi
  w.poison.any fun g => meets g (j * n) (j * n + n) || (w.sparse && meets g (d + j * m / 16) (d + (j + 1) * m / 16)) ||
    (w.sfmt ≠ 0 && meets g (d + m + j * sc) (d + m + j * sc + sc))

/-- Whether node `x` is in anc(q) of a tree table (R286); the first number bounds the climb. -/
def inAnc (tree : List Nat) : Nat → Nat → Nat → Bool
  | 0, _, _ => false
  | k + 1, q, x => q = x || (q ≠ 0 && inAnc tree k (tree.getD q 0) x)

/-- Visible (R287). -/
def visible (tree : List Nat) (pfx q p : Nat) : Bool :=
  let n := tree.length
  p < pfx || (q < n && pfx ≤ p && p - pfx < n && inAnc tree (n + 1) q (p - pfx))

/-! ## A round (R282 to R284) -/

/-- The checks of R282, all of which must hold; `gk` is the signers' group. -/
def State.mmaOk (s : State) (m : Team) (gk : Nat) (f : FmtX) (a : MmaArgs) : Bool :=
  let w := (s.ctx m.ctx).slot m.core a.slot
  let e := a.entry
  let sp := w.sparse
  a.slot < s.slotCount m.ctx m.core && w.state = .ready &&
  e.valid && e.fmt = w.fmt && e.fmt ≠ Fmt.s8 &&
  (!f.xo.getLsbD 0 || isResidue e.fmt) &&
  (!(sp && isResidue e.fmt) || (e.sfmt = 0 && w.sfmt = 0)) &&
  a.kcnt ≤ (if sp then 2 else 1) * fmtK e.fmt &&
  f.a.toNat + (if sp then 2 else 1) * fmtR e.fmt + (if e.sfmt = 0 then 0 else 1) ≤ s.allocation gk

/-- One accumulator of a live row: register, value and poison, as one or two words. -/
def mmaCell (w : WSlot) (img : Nat) (l : Lane) (f : FmtX) (tree : Bool) (a : MmaArgs) (lk i j : Nat) :
    List (Nat × Nat × Word × Bool) :=
  let e := a.entry
  let z := fmtSize w.fmt
  let k0 := (if w.sparse then 2 else 1) * fmtK w.fmt
  let r := (if w.sparse then 2 else 1) * fmtR w.fmt
  let kk := if a.kcnt = 0 then k0 else a.kcnt
  let row := sumBy (fun k => (l.regs.getD (f.a.toNat + k) 0).toNat * 2 ^ (32 * k)) (List.range r)
  let sa := scaleVal e.sfmt (l.regs.getD (f.a.toNat + r) 0).toNat
  let sb := w.scale img j
  let ps := (List.range kk).map fun k => (elemAt z row k, w.elem img k j)
  let s64 := f.xo.getLsbD 0
  let zf := f.xo.getLsbD 1
  let d := f.d.toNat + (if s64 then 2 * j else j)
  let old := fun n => if zf then 0 else (l.regs.getD (d + n) 0).toNat
  let rowBad := (List.range (r + (if e.sfmt = 0 then 0 else 1))).any fun k => l.poison.contains (f.a.toNat + k)
  let accBad := !zf && (l.poison.contains d || (s64 && l.poison.contains (d + 1)))
  let bad := rowBad || accBad || w.colBad j || a.bad
  if s64 then
    let v := mmaS64 w.fmt ps sa sb (old 0 + 2 ^ 32 * old 1)
    [(lk, d, BitVec.ofNat 32 v, bad), (lk, d + 1, BitVec.ofNat 32 (v / 2 ^ 32), bad)]
  else if tree && !visible a.tree a.pfx (a.qbase + i) (a.kbase + j) then [(lk, d, 0xFF800000, bad)]
  else [(lk, d, BitVec.ofNat 32 (mmaF32 w.fmt ps sa sb (old 0)), bad)]

/-- The full matrix rounds of a core that no hold keeps waiting (R227): place in matrix order, team and register. -/
def State.fullRounds (s : State) (core : Nat) : List (Nat × Nat × Nat) :=
  (s.teams.filter fun p => p.2.core = core).flatMap fun p =>
    (List.range 16).filterMap fun n =>
      let r := s.cv p.1 n
      match r.args with
      | some a => if r.state = .signing && r.full && !s.held (core * 64 + r.owner) then some (a.order, p.1, n) else none
      | none => none

/-- A matrix round that the engine takes now: the first in matrix order, with the engine free, its slot not LOADING, and every
TREELD before it done (R275, R284, R286). -/
def State.roundDue (s : State) (t n : Nat) : Bool :=
  let m := s.team t
  match minBy Prod.fst (s.fullRounds m.core), (s.cv t n).args with
  | some x, some a =>
    x.2 = (t, n) && (s.mma.get? m.core).isNone && ((s.ctx m.ctx).slot m.core a.slot).state ≠ .loading && a.treeBy.isNone
  | _, _ => false

/-- A full round of a context names a slot: it has still to fetch B there (R275). -/
def State.slotWanted (s : State) (c core n : Nat) : Bool :=
  s.teams.any fun p => p.2.ctx = c && p.2.core = core && p.2.cvs.any fun r =>
    match r.2.args with | some a => a.slot = n | none => false

/-- MMA_ROUND_COMPLETE (R282): the checks are made, the engine starts, and the signers wake. A round without a live row ends at
once. -/
def execMmaRoundComplete (team cv : Nat) (s : State) : Res :=
  if !s.roundDue team cv then skipEvent s
  else
    let m := s.team team
    let r := s.cv team cv
    match r.mma, r.args with
    | some (f, tree), some a =>
      let gk := m.core * 64 + r.owner
      let signers := (List.range 64).filter fun i => r.signed.getLsbD i && r.guards.getLsbD i
      let live := signers.filter fun i => a.mrow.getLsbD i
      if live.isEmpty then .next ((s.cvComplete team cv).count m.ctx m.core 8 1)
      else if !s.mmaOk m gk f a then
        let s1 := signers.foldl (fun s i =>
          let lk := gk * 64 + i
          s.takeFault lk (valueFlt 0) ((s.lane lk).site.getD (s.site 0))) s
        .next (s1.cvComplete team cv)
      else
        let w := (s.ctx m.ctx).slot m.core a.slot
        let img := bytesNat w.image
        let cols := (List.range 16).filter fun j => a.mcol.getLsbD j
        let ws := live.flatMap fun i => cols.flatMap fun j =>
          mmaCell w img (s.lane (gk * 64 + i)) f tree a (gk * 64 + i) i j
        .next (({ s with mma := s.mma.set m.core ⟨m.ctx, ws⟩ }).cvComplete team cv)
    | _, _ => skipEvent s

/-- MMA_COMPLETE (R284): the occupancy ends and the accumulators are written. -/
def execMmaComplete (core : Nat) (s : State) : Res :=
  match s.mma.get? core with
  | none => skipEvent s
  | some r =>
    let s1 := r.writes.foldl (fun s w => s.modLane w.1 fun l =>
      let l1 := l.setReg w.2.1 w.2.2.1
      if w.2.2.2 then { l1 with poison := insertNat l1.poison w.2.1 } else l1) s
    .next (({ s1 with mma := s1.mma.erase core }).count r.ctx core 8 1)

/-! ## The tree table (R286) -/

/-- The loads of a TREELD as plain ones through its capability. -/
def treeForm (f : FmtX) : FmtM := ⟨f.g, 0, 0, 0, 0, 0, 0, 0, f.d, f.a, 0x140, 0⟩

/-- The loads that a lane's TREELD makes, in ascending pieces of a granule at most (R286). -/
def treePlan (f : FmtX) (s : State) (l : Nat) : Plan :=
  let n := (s.reg1 l f.b).toNat
  let q := s.quad l f.a
  if 256 < n then ⟨[], none⟩
  else match s.accPre (s.laneColour l) q accData Perm.ld (Cap.ofQuad q.1).cur n 1 false with
    | .error e => .fail e
    | .ok a =>
      let ps := granRange a n
      let xs := (ps.zip (List.range ps.length)).map fun (p, i) => { (s.newAcc l (treeForm f) .load).at p.1 p.2 with dk := i }
      match s.placeFault false noExtra xs with
      | some e => .fail e
      | none => ⟨xs.flatMap (s.placed1 false), none⟩

/-- The loads of a TREELD started. -/
def State.startTree (s : State) (xs : List (Acc × GateRes)) : State :=
  xs.foldl (fun s y => match s.startAcc y.1 y.2 with
    | (s1, some v) => s1.treeLand y.1 v
    | (s1, none) => s1) s

/-- TREELD: checked at issue; the status is written when the data has returned. -/
def execTreeld (f : FmtX) (s : State) : Res :=
  instr (.treeld f) s fun s =>
    let ls := s.guardTrue f.g
    match ls with
    | [] => .next (s.commit [] none false)
    | l :: _ =>
      let t := s.laneTeam l
      let n := (s.reg1 l f.b).toNat
      let p := treePlan f s l
      match withPoison (s.poisonOf (.treeld f) l) (match p.fault with | some e => .error e | none => .ok []) with
      | .error e => .next (s.commit [(l, .error e)] none false)
      | .ok _ =>
        if 256 < n then .next (s.commit (ls.map fun lk => (lk, okReg f.d 2)) (some l) false)
        else
          let (k, s1) := s.takeNum
          let x : TreePend := ⟨k, groupOf l, posOf l, (s.lane l).tid, lanesMask (ls.map posOf), f.d, (Cap.ofQuad (s.quad l f.a).1).cur, n, []⟩
          let s2 := s1.modTeam t fun m => { m with treePend := some x }
          let (s3, ps) := s2.admitPlans [(l, { p with accs := p.accs.map fun y => ({ y.1 with batch := k }, y.2) })]
          .next ((s3.startTree (ps.flatMap fun q => q.2.accs)).commit (ls.map fun lk => (lk, .ok [])) (some l) false)

/-- A parent list that R286 accepts. -/
def treeOk (p : List Nat) : Bool :=
  p.isEmpty || (p.getD 0 0 = 0xFF && (List.range p.length).all fun t => t = 0 || p.getD t 0 < t)

/-- The bytes of a TREELD's pieces in turn. -/
def TreePend.sizes (x : TreePend) : List Nat := (granRange x.addr x.n).map Prod.snd

/-- What its loads have read. -/
def TreePend.vals (x : TreePend) : List AccVal := (List.range x.sizes.length).filterMap x.buf.get?

/-- A team's TREELD whose data has returned. -/
def State.treeReady (s : State) (t : Nat) : Bool :=
  match (s.team t).treePend with
  | some x => x.vals.length = x.sizes.length
  | none => false

/-- TREELD_COMPLETE (R286). Data that is poisoned leaves the table as it is, and poisons the status, whose value is then free (R377;
log entry 92). -/
def execTreeldComplete (team : Nat) (s : State) : Res :=
  match (s.team team).treePend with
  | none => skipEvent s
  | some x =>
    if !s.treeReady team then skipEvent s
    else
      let p := (piecesBytes x.sizes x.vals).map BitVec.toNat
      let bad := x.vals.any (·.poison)
      let ok := treeOk p && !bad
      let s2 := s.modTeam team fun m => (if ok then { m with tree := p } else m).treeDone
      let ws : List RegWrite :=
        if bad then [.reg x.d 0 (Config.freeWord s.tick), .bad x.d 0] else [.reg x.d 0 (if ok then 0 else 1)]
      .next ((maskLanes x.mask).foldl (fun s i =>
        let lk := x.gkey * 64 + i
        if (s.lane lk).state = .exited then s else s.writes lk (onceWrites x.acting ws i)) s2)

/-! ## MQUANT (R76, R288) -/

/-- Whether every finite value of a block fits within Qmax at an exponent: |x| ≤ Qmax × 2^(e − 127). -/
def blockFits (qmax e : Nat) (vs : List FV) : Bool :=
  vs.all fun v => Dy.le ⟨v.dy.m.natAbs, v.dy.e⟩ ⟨qmax, (e : Int) - 127⟩

/-- The exponent of a block (R76). -/
def blockExp (qmax : Nat) (vs : List FV) : Nat :=
  if vs.any fun v => match v with | .fin _ _ _ => false | _ => true then 255
  else if vs.all FV.isZero then 0
  else ((List.range 255).find? fun e => blockFits qmax e vs).getD 254

/-- A block quantised to a residue format: exponent and elements (R76). -/
def quantise (t16 : Bool) (vs : List FV) (given : Option Nat) : Nat × List Nat :=
  let e := given.getD (blockExp (if t16 then 31247 else 83) vs)
  (e, vs.map fun v => triOfF32 t16 0 e v)

/-- MQUANT for one lane (R288). -/
def mquantLane (f : FmtT) (s : State) (lk : Nat) : LaneRes :=
  let t16 := !f.mod.getLsbD 0
  let n := if t16 then 32 else 64
  let vs := (List.range n).map fun k => Machine.f32.val (s.reg lk f.a k).toNat
  let (e, qs) := quantise t16 vs (if f.mod.getLsbD 1 then some ((s.reg1 lk f.b).toNat % 256) else none)
  let z := triWidth t16
  let bits := sumBy (fun k => qs.getD k 0 * 2 ^ (z * k)) (List.range n)
  okRegs f.d (bits + e * 2 ^ 512) 17

def execMquant (f : FmtT) (s : State) : Res := laneInstr (.mquant f) (mquantLane f) s

/-- Matrix events that are due. -/
def State.matrixDue (s : State) : List Due :=
  (s.teams.flatMap fun p =>
    (((List.range 16).filter fun n => s.roundDue p.1 n).map fun n => Due.mmaRoundComplete p.1 n) ++
    (if s.treeReady p.1 then [.treeldComplete p.1] else [])) ++
  (s.mma.map fun p => .mmaComplete p.1) ++
  ((s.wloads.filter fun p => s.loadReady p.1 p.2).map fun p => .wloadComplete p.1)

end Sys2Proof.Machine
end

