-- ==== Sys2Proof/Machine/Commands.lean ====
section
/-! DEFINITION. Copy commands (R289 to R309): the instructions that issue them, what a command moves, how it starts, ends and
completes, command blocks, and publication within a cluster. Collectives are in Machine/Collective.lean. -/

namespace Sys2Proof.Machine

/-! ## Boxes (R296) -/

/-- COORDi of a coordinate block. -/
def boxCoord (b : BitVec 256) (i : Nat) : Int := toSigned 32 (b.toNat / 2 ^ (32 * i) % 2 ^ 32)
/-- BOXi as it is written. -/
def boxExt (b : BitVec 256) (i : Nat) : Nat := b.toNat / 2 ^ (160 + 16 * i) % 2 ^ 16
/-- BOXi as it counts: 0 counts as 1 where it is allowed. -/
def boxLen (b : BitVec 256) (i : Nat) : Nat := max 1 (boxExt b i)

/-- The limits of R296 on BOX. -/
def boxOk (rank : Nat) (b : BitVec 256) : Bool :=
  (List.range 5).all fun i => if i < rank then boxExt b i ≠ 0 else boxExt b i ≤ 1

/-- RB: the row pitch of the pad image. -/
def rowBytes (fmt : Nat) (b : BitVec 256) : Nat := (boxLen b 0 * fmtSize fmt + 15) / 16 * 16

/-- Rows of the pad image. -/
def boxRows (b : BitVec 256) : Nat := boxLen b 1 * boxLen b 2 * boxLen b 3 * boxLen b 4

/-- The image size (R296). -/
def imageSize (fmt : Nat) (b : BitVec 256) : Nat := rowBytes fmt b * boxRows b

/-- bi of row `r`, for i from 1; the row lies at RB × r. -/
def rowIndex (b : BitVec 256) (r i : Nat) : Nat :=
  match i with
  | 1 => r % boxLen b 1
  | 2 => r / boxLen b 1 % boxLen b 2
  | 3 => r / boxLen b 1 / boxLen b 2 % boxLen b 3
  | _ => r / boxLen b 1 / boxLen b 2 / boxLen b 3

/-- ci of row `r`, for i from 1. -/
def rowCoord (b : BitVec 256) (r i : Nat) : Int := boxCoord b i + rowIndex b r i

/-- The elements of a row that are in range, first and number; none when the row is out of range in another dimension. -/
def rowSpan (e : TnEntry) (b : BitVec 256) (r : Nat) : Nat × Nat :=
  let others := (List.range 5).all fun i => i = 0 || e.rank ≤ i || (0 ≤ rowCoord b r i && rowCoord b r i < e.ext i)
  let lo := (-(boxCoord b 0)).toNat
  let hi := min (boxLen b 0 : Int) ((e.ext 0 : Int) - boxCoord b 0)
  if others && (lo : Int) < hi then (lo, hi.toNat - lo) else (0, 0)

/-- c0 × z + Σ ci × STRIDEi of element `k` of a row, leaving out one dimension (R297, R298). -/
def rowOffset (e : TnEntry) (b : BitVec 256) (r k skip : Nat) : Int :=
  (boxCoord b 0 + k) * fmtSize e.fmt +
    (List.range e.rank).foldl (fun a i => if i = 0 || i = skip then a else a + rowCoord b r i * e.stride i) (0 : Int)

/-! ## Moves -/

/-- What a command still has to do before its payload can move. -/
inductive Plan2 where
  | bad (b : EngBad)
  | enter (rs : List Req)
  | wait (asks : List (Acc × GateRes))
  | moves (ms : List Move)
  deriving DecidableEq, Repr

/-- Two ranges cut where granules of either end; the first number bounds the pieces. -/
def splitMove : Nat → Nat → Nat → Nat → List (Nat × Nat × Nat)
  | 0, _, _, _ => []
  | k + 1, a, b, n =>
    if n = 0 then []
    else
      let m := min n (min (16 - a % 16) (16 - b % 16))
      (a, b, m) :: splitMove k (a + m) (b + m) (n - m)

/-- R111, as far as the two capabilities decide it: LDC at the source, STC at the destination, both DATA or PAD. -/
def keepsTags (src dst : Cap) : Bool :=
  src.has Perm.ldc && dst.has Perm.stc && (src.kind = Kind.data || src.kind = Kind.pad) &&
    (dst.kind = Kind.data || dst.kind = Kind.pad)

/-- Moves of `n` bytes between two checked ranges. -/
def copyMoves (src dst : Quad × Bool) (a b n : Nat) (far : Bool) : List Move :=
  let k := keepsTags (Cap.ofQuad src.1) (Cap.ofQuad dst.1)
  (splitMove (2 * (n / 16) + 4) a b n).map fun p =>
    ⟨some ⟨src, p.1, p.2.2, far⟩, ⟨0, false, false⟩, dst, p.2.1, p.2.2, k⟩

/-- Moves that write the same 16 bytes over a range. -/
def fillMoves (dst : Quad × Bool) (a n : Nat) (v : Quad) : List Move :=
  (granRange a n).map fun p => ⟨none, ⟨v, false, false⟩, dst, p.1, p.2, false⟩

/-- The little-endian quad of at most 16 bytes. -/
def bytesQuad (l : List Byte) : Quad := BitVec.ofNat 128 (bytesNat l)

/-- Moves that write bytes with their poison from an address on; the first number bounds the pieces. -/
def byteMoves (dst : Quad × Bool) : Nat → Nat → List (Byte × Bool) → List Move
  | 0, _, _ => []
  | k + 1, a, l =>
    if l.isEmpty then []
    else
      let m := 16 - a % 16
      let x := l.take m
      ⟨none, ⟨bytesQuad (x.map Prod.fst), false, x.any Prod.snd⟩, dst, a, x.length, false⟩ ::
        byteMoves dst k (a + m) (l.drop m)

/-- A move carried out, with the tag rule of R111 that depends on what is moved. -/
def State.doMove (s : State) (e : Eng) (m : Move) (v : AccVal) : State :=
  let whole := m.n = 16 && m.addr % 16 = 0 && (match m.src with | some p => p.addr % 16 = 0 | none => false)
  let glob := (Cap.ofQuad v.val).has Perm.glob || (s.team e.team).ownsPad m.addr
  s.engineWrite e m.dst m.addr m.n v.val (v.tag && m.keep && whole && glob) v.poison

/-- A piece whose value is known. -/
def Move.ready (e : Eng) (m : Move) : Bool := match m.src with | none => true | some p => e.has p

/-- The value of a piece that is ready. -/
def Move.value (e : Eng) (m : Move) : AccVal :=
  match m.src with
  | none => m.lit
  | some p => (bufFind e.buf p.addr p.n).getD m.lit

/-- The next piece of a granule put to those before it: joined to the last where it goes on there, so that one request carries both
(R247). -/
def joinWrite (e : Eng) (done : List Move) (m : Move) : List Move :=
  match done with
  | x :: xs =>
    if x.addr + x.n = m.addr then
      let v := x.value e
      let w := m.value e
      ⟨none, ⟨v.val ||| w.val <<< (8 * x.n), false, v.poison || w.poison⟩, x.dst, x.addr, x.n + m.n, false⟩ :: xs
    else m :: done
  | [] => [m]

/-- The pieces of one granule through one capability, joined where they are neighbours. -/
def joinWrites (e : Eng) (ms : List Move) : List Move := (ms.foldl (joinWrite e) []).reverse

/-- What a command does next: end, put requests to the network port or send them to other devices, begin to move its payload, read a
granule of its source, write one of its destination, or send a packet. -/
inductive CmdStep where
  | stop (b : EngBad)
  | enter (rs : List Req)
  | ask (asks : List (Acc × GateRes))
  | start (ms : List Move)
  | got (vs : List (Nat × AccVal))
  | write (ws : List Move)
  | packet
  deriving DecidableEq, Repr

/-- What the destinations of moves touch. -/
def moveTouches (ms : List Move) : List (Nat × Nat × Nat) := ms.filterMap fun m => touched m.dst m.addr m.n

/-- The pieces of one 16-byte granule of the destination, written at once (R247), when all of them have been read; nothing
while one of them stalls. -/
def State.writeGranule (s : State) (e : Eng) (ms : List Move) (k : Nat) : Option CmdStep :=
  match ms.find? fun m => m.addr / 16 = k with
  | none => none
  | some m0 =>
    let ws := ms.filter fun m => m.addr / 16 = k && m.dst = m0.dst
    if !ws.all (·.ready e) || !s.paid e true (moveTouches ws) then none
    else
      let gates := ws.map fun m => s.engineGate e (e.acc s m.dst .store m.addr m.n) false
      match gates.findSome? (fun g => match g with | .error b => some b | .ok _ => none) with
      | some b => some (.stop b)
      | none => if gates.any fun r => match r with | .ok .stall => true | _ => false then none else some (.write ws)

/-- The next granule read or written: any that can be (R245, R247; log entry 3). -/
def State.moveSome (s : State) (e : Eng) (ms : List Move) : Option CmdStep :=
  let todo := (ms.filterMap (·.src)).filter fun p => !e.has p
  let rd := (runsOf (todo.map fun p => p.addr / 64)).map fun k => (true, k)
  let wr := (runsOf (ms.map fun m => m.addr / 16)).map fun k => (false, k)
  firstSome (fun (x : Bool × Nat) =>
    if x.1 then (s.readGranule e todo x.2).map fun r => match r with
      | .stop b => CmdStep.stop b
      | .enter rs => .enter rs
      | .ask asks => .ask asks
      | .got vs => .got vs
    else s.writeGranule e ms x.2) (turned (Config.pick s.tick) (rd ++ wr))

/-- The bytes of a granule that a list of pieces covers. -/
def coveredBytes (ws : List Move) : Nat :=
  let m := ws.foldl (fun m w => m ||| byteMask (w.addr % 16) w.n) (0 : BitVec 16)
  ((List.range 16).filter m.getLsbD).length

/-! ## The moves of each operation -/

/-- What an engine works for in a command. -/
def State.cmdEng (s : State) (n : Nat) (c : Cmd) : Eng := ⟨c.core, c.ctx, (s.ctx c.ctx).colour, c.team, n, c.buf⟩

/-- The first failure of a list of checks. -/
def firstBad (l : List (Except EngBad Nat)) : Option EngBad :=
  l.findSome? fun x => match x with | .error b => some b | .ok _ => none

/-- One stretch of a row that is in range: the capability over its elements, the address of its first element, its offset
in the row, and its bytes. -/
structure Stretch where
  cap : Quad × Bool
  a : Int
  (off n : Nat)
  deriving DecidableEq, Repr

/-- The block-table entry of a coordinate, as it was read (R298): as LDC would, through the table capability. -/
def tableEntry (table : Quad × Bool) (coords : List Int) (vals : List AccVal) (c : Int) : Quad × Bool :=
  match (coords.zip vals).find? fun p => p.1 = c with
  | some p => (p.2.val, p.2.tag && (Cap.ofQuad table.1).has Perm.ldc)
  | none => (0, false)

/-- Coordinates of the block dimension that the box reaches and that are in range, each once (R298). -/
def tableCoords (e : TnEntry) (b : BitVec 256) : List Int :=
  let i := e.rank - 1
  ((List.range (boxLen b i)).map fun (k : Nat) => boxCoord b i + (k : Int)).filter fun c => 0 ≤ c && c < e.ext i

/-- The stretches of row `r`: one, or one for each element where every element has a table entry of its own. `at_` gives
the capability for a coordinate of the block dimension. -/
def rowStretches (e : TnEntry) (b : BitVec 256) (r : Nat) (at_ : Option (Int → Quad × Bool)) : List Stretch :=
  let z := fmtSize e.fmt
  let (lo, n) := rowSpan e b r
  let baseOf := fun (q : Quad × Bool) => (Cap.ofQuad q.1).base
  if n = 0 then []
  else match at_ with
    | none => [⟨e.base, baseOf e.base + rowOffset e b r lo 5, lo * z, n * z⟩]
    | some f =>
      if e.rank = 1 then
        (List.range n).map fun k =>
          let q := f (boxCoord b 0 + (lo + k : Nat))
          ⟨q, baseOf q + rowOffset e b r (lo + k) 0, (lo + k) * z, z⟩
      else
        let q := f (rowCoord b r (e.rank - 1))
        [⟨q, baseOf q + rowOffset e b r lo (e.rank - 1), lo * z, n * z⟩]

/-- The checks of a stretch, element by element (R297, R291). -/
def State.stretchBad (s : State) (g : Eng) (e : TnEntry) (x : Stretch) (st : Bool) : Option EngBad :=
  let z := fmtSize e.fmt
  (List.range (x.n / z)).findSome? fun k =>
    match s.engineCheck g x.cap accData (if st then Perm.st else Perm.ld) (x.a + (k * z : Nat)) z st with
    | .error b => some b
    | .ok _ => none

/-- The moves of a tensor copy (R297, R298); a load also writes zero wherever no element falls. -/
def State.tcopyMoves (s : State) (g : Eng) (e : TnEntry) (b : BitVec 256) (pad : Quad × Bool) (st : Bool)
    (at_ : Option (Int → Quad × Bool)) : Plan2 :=
  let rb := rowBytes e.fmt b
  let p := (Cap.ofQuad pad.1).cur
  let rows := (List.range (boxRows b)).map fun r => (p + rb * r, rowStretches e b r at_)
  let bad := rows.findSome? fun x =>
    match s.engineCheck g pad accData (if st then Perm.ld else Perm.st) (x.1 : Nat) rb (!st) with
    | .error b => some b
    | .ok _ => x.2.findSome? fun y => s.stretchBad g e y st
  match bad with
  | some b => .bad b
  | none => .moves (rows.flatMap fun x =>
      (if st then [] else fillMoves pad x.1 rb 0) ++
      x.2.flatMap fun y =>
        if st then copyMoves pad y.cap (x.1 + y.off) y.a.toNat y.n false
        else copyMoves y.cap pad y.a.toNat (x.1 + y.off) y.n false)

/-- Requests to other devices joined, granule of 64 bytes by granule (R247). -/
def joinAll (asks : List (Acc × GateRes)) : List (Acc × GateRes) :=
  (runsOf (asks.map fun x => x.1.addr / 64)).flatMap fun k =>
    (asks.filter fun x => x.1.addr / 64 = k).foldl (fun l y => joinAsk y l) []

/-- A tensor copy: its block table is read first, one entry for each coordinate of the box that is in range, and each entry must be
tagged (R298). -/
def State.tcopyPlan (s : State) (g : Eng) (e : TnEntry) (b : BitVec 256) (pad : Quad × Bool) (st : Bool)
    (table : Option (Quad × Bool)) : Plan2 :=
  match table with
  | none => s.tcopyMoves g e b pad st none
  | some q =>
    let cs := tableCoords e b
    let cur : Int := (Cap.ofQuad q.1).cur
    match firstBad (cs.map fun c => s.engineCheck g q accData Perm.ld (cur + 16 * c) 16 false) with
    | some b => .bad b
    | none =>
      let ps := cs.map fun c => (⟨q, (cur + 16 * c).toNat, 16, false⟩ : Piece)
      let r := s.gather g ps
      match r.bad with
      | some b => .bad b
      | none =>
        let new := s.newReqs g false (pieceTouches ps)
        if !new.isEmpty then .enter new
        else if !s.paid g false (pieceTouches ps) then .wait []
        else if !r.asks.isEmpty then .wait (joinAll r.asks)
        else if r.stall then .wait []
        else
          let vals := r.vals.map fun v => { v with tag := s.filtered v.val v.tag }
          match s.tcopyMoves g e b pad st (some (tableEntry q cs vals)), vals.find? fun v => !(v.tag && (Cap.ofQuad q.1).has Perm.ldc) with
          | .moves _, some v => .bad (Code.capTag, (Cap.ofQuad v.val).cur)
          | p, _ => p

/-- The bytes of registers with their poison, low byte first. -/
def regBytes : List (Word × Bool) → List (Byte × Bool)
  | [] => []
  | (w, b) :: ws => (natBytes 4 w.toNat).map (fun x => (x, b)) ++ regBytes ws

/-- XSTORE (R299): rows of the lanes that supplied one. -/
def State.xstorePlan (s : State) (g : Eng) (e : TnEntry) (b : BitVec 256) (rows : Tbl (List (Word × Bool))) : Plan2 :=
  let xs := rows.flatMap fun p => if p.1 < boxLen b 1 then (rowStretches e b p.1 none).map fun y => (p.2, y) else []
  match xs.findSome? fun x => s.stretchBad g e x.2 true with
  | some b => .bad b
  | none => .moves (xs.flatMap fun x =>
      byteMoves x.2.cap (x.2.n / 16 + 2) x.2.a.toNat (((regBytes x.1).drop x.2.off).take x.2.n))

/-- COPY (R306). -/
def State.copyPlan (s : State) (g : Eng) (src dst : Quad × Bool) (n : Nat) : Plan2 :=
  let a := (Cap.ofQuad src.1).cur
  let b := (Cap.ofQuad dst.1).cur
  match s.engineCheck g src accData Perm.ld a n false with
  | .error x => .bad x
  | .ok _ =>
    if a % 16 ≠ 0 then .bad (Code.align, a)
    else match s.engineCheck g dst accData Perm.st b n true with
      | .error x => .bad x
      | .ok _ => if b % 16 ≠ 0 then .bad (Code.align, b) else .moves (copyMoves src dst a b n false)

/-- A 4-byte pattern in every word of a granule. -/
def patternQuad (w : Word) : Quad := w ++ w ++ w ++ w

/-- FILL (R303, R306). -/
def State.fillPlan (s : State) (g : Eng) (cap : Quad × Bool) (n : Nat) (pattern : Word) : Plan2 :=
  let a := (Cap.ofQuad cap.1).cur
  match s.engineCheck g cap accData Perm.st a n true with
  | .error x => .bad x
  | .ok _ => if a % 16 ≠ 0 then .bad (Code.align, a) else .moves (fillMoves cap a n (patternQuad pattern))

/-- A capability over a tile of another pad, with the permissions of its publisher (R301). -/
def PubRec.cap (r : PubRec) : Quad × Bool := (Cap.toQuad ⟨0, r.perm, Kind.pad, 0, 0, 0, 0⟩, true)

/-- XPULL once its record has been read (R301). -/
def State.pullPlan (s : State) (g : Eng) (src : Nat) (dest : Quad × Bool) (r : PubRec) : Plan2 :=
  let d := (Cap.ofQuad dest.1).cur
  let a := padBase + (g.core / 8 * 8 + src) * 0x100000 + r.off
  if r.len = 0 then .bad (Code.engineFault, d)
  else match s.engineCheck g dest accData Perm.st d r.len true with
    | .error x => .bad x
    | .ok _ => .moves (copyMoves r.cap dest a d r.len true)

/-- A collective's result, of which the destination is checked when the result is written (R291, R310). -/
def State.resultPlan (s : State) (g : Eng) (dst : Quad × Bool) (parts : List (Nat × List (Byte × Bool))) : Plan2 :=
  match firstBad (parts.map fun p => s.engineCheck g dst accLocal Perm.st (p.1 : Nat) p.2.length true) with
  | some b => .bad b
  | none => .moves (parts.flatMap fun p => byteMoves dst (p.2.length / 16 + 2) p.1 p.2)

/-- What a running command has to move, where it is one that moves bytes. -/
def State.cmdPlan (s : State) (n : Nat) (c : Cmd) : Option Plan2 :=
  let g := s.cmdEng n c
  match c.body with
  | .tcopy e b pad st table => some (s.tcopyPlan g e b pad st table)
  | .xstore e b rows => some (s.xstorePlan g e b rows)
  | .fill cap k w => some (s.fillPlan g cap k w)
  | .copy src dst k => some (s.copyPlan g src dst k)
  | .pull _ src dest (some r) => some (s.pullPlan g src dest r)
  | .result dst parts => some (s.resultPlan g dst parts)
  | .pull _ _ _ none | .block | .bulk _ _ _ | .coll .. | .moving _ _ => none

/-! ## The end of a command (R291, R292) -/

/-- The code that ends a command: ENGINE_FAULT for a cause that has no code of its own (R291, R368); DATA_LOST keeps its own,
as the example under R399 has it (log entry 33). -/
def engCode (c : Byte) : Byte := if 0x10 ≤ c.toNat && c.toNat ≤ 0x24 && c ≠ Code.capLocal then c else Code.engineFault

/-- The team whose barrier registers hold an address, and the register (R304). -/
def State.barrierAt (s : State) (a : Nat) : Option (Nat × Nat) :=
  (s.teams.find? fun t => 0 < t.2.padLen && t.2.padAddr 0 ≤ a && a < t.2.padAddr (min 256 t.2.padLen)).map fun t =>
    (t.1, (a - t.2.padAddr 0) / 16)

/-- Where a completion is made. -/
inductive CompAt where
  | nowhere
  | bar (team i : Nat)
  | pad (a : Nat) (val : Word)
  | cap (q : Quad × Bool) (a : Nat) (val : Word)
  | stall
  deriving DecidableEq, Repr

/-- The checks of a completion at its use (R292, R304, R306). -/
def State.compAt (s : State) (g : Eng) (c : Cmd) : Except EngBad CompAt :=
  match c.comp with
  | .none => .ok .nowhere
  | .unread => .ok .stall
  | .barrier i => .ok (.bar c.team i)
  | .padWord off v => .ok (.pad ((s.team c.team).padAddr off) v)
  | .barCap q =>
    let a := (Cap.ofQuad q.1).cur
    match checkAccess q g.colour [Kind.barr] Perm.st a 16 with
    | some f => .error (f.code, f.info.toNat)
    | none =>
      if a % 16 ≠ 0 then .error (Code.align, a)
      else match s.barrierAt a with
        | some (t, i) => .ok (.bar t i)
        | none => .error (Code.addressHole, a)
  | .word q v =>
    let a := (Cap.ofQuad q.1).cur
    match s.engineCheck g q accLocal Perm.st a 4 true with
    | .error b => .error b
    | .ok _ =>
      if a % 4 ≠ 0 then .error (Code.align, a)
      else match s.engineGate g (g.acc s q .store a 4) false with
        | .error b => .error b
        | .ok .stall => .ok .stall
        | .ok _ => .ok (.cap q a v)

/-- A completion made, in error or not (R291, R292). Its arrival comes after what the command wrote has become visible to the team
of the barrier (R246). -/
def State.complete (s : State) (g : Eng) (c : Cmd) (x : CompAt) (err : Bool) : State :=
  let v := fun (w : Word) => if err then 0xFFFFFFFF else w
  match x with
  | .nowhere | .stall => s
  | .bar t i => (s.seenBy (.team t i) g.core).barUpdate (.team t i) t fun b => ({ b with err := b.err || err } : Bar).engineArrive c.count
  | .pad a w => s.granStore a (quadAt ((v w).setWidth 128) (a % 16)) (byteMask (a % 16) 4) false false
  | .cap q a w => s.engineWrite g q a 4 ((v w).setWidth 128) false false

/-- The value word that a command still owes has its request at the port (R352). -/
def State.wordAsked (s : State) (n : Nat) : Bool := s.reqs.any fun p => p.2.user = .word n

/-- The request that a value word still needs before it is stored. -/
def State.wordReq (s : State) (n : Nat) (c : Cmd) (x : CompAt) : Option Req :=
  match x with
  | .cap q a _ =>
    if (touched q a 4).isSome && !s.wordAsked n then
      some ⟨c.core, c.ctx, (Cap.ofQuad q.1).kind = Kind.remote, a, 16, false, .word n, none⟩
    else none
  | _ => none

/-- A command that has ended leaves the table, unless a status record names it (R308). -/
def State.settleCmd (s : State) (n : Nat) (c : Cmd) : State :=
  if s.xrecs.any fun r => r.cmd = n then { s with cmds := s.cmds.set n { c with buf := [], body := .block } }
  else { s with cmds := s.cmds.erase n }

/-- A command ends before its time (R291, R309): it moves nothing more, and its completion is made in error, now or, where that
stalls or its value word has to leave through the port, later; a completion that itself fails its checks is not made. -/
def State.stopCmd (s : State) (n : Nat) (c : Cmd) (st : CmdState) (code : Byte) (addr : Nat) : State :=
  let g := s.cmdEng n c
  let s1 := { s with outst := s.outst.filter fun p => !(p.2.team = 0 && p.2.batch = n && p.2.kind = AccKind.load) }
  let c1 := { c with state := st, code := code, failAddr := addr, moved := true, body := CmdBody.block, buf := [] }
  match s1.compAt g c with
  | .ok .stall | .ok (.cap _ _ _) => { s1 with cmds := s1.cmds.set n c1 }
  | .ok x => (s1.complete g c x true).settleCmd n { c1 with comp := .none }
  | .error _ => s1.settleCmd n { c1 with comp := .none }

/-- A command ends with a failure (R291). -/
def State.failCmd (s : State) (n : Nat) (c : Cmd) (code : Byte) (addr : Nat) : State :=
  let k := engCode code
  (s.stopCmd n c .faulted k addr).postEngineError c.ctx c.opcode c.opc k addr c.bytes c.core
    (srcEngine (c.core / 256) c.engine)

/-- A command that has been ended before its time and still owes its completion in error. -/
def Cmd.owesError (c : Cmd) : Bool := (c.state = .faulted || c.state = .cancelled) && c.comp ≠ .none

/-- Whether a command has its payload behind it and no answer to wait for. -/
def State.cmdEndDue (s : State) (n : Nat) (c : Cmd) : Bool :=
  c.moved && ((c.state = .running && !s.engineWaits n) || c.owesError) &&
    (match s.compAt (s.cmdEng n c) c with | .ok .stall => false | _ => true) &&
    !s.reqs.any fun p => p.2.user = .word n && p.2.sent.isNone

/-- ENGINE_COMMAND_END (R292): a value word waits for its tokens first, and one that goes to another device for its answer. -/
def execEngineCommandEnd (cmd : Nat) (s : State) : Res :=
  match s.cmds.get? cmd with
  | none => skipEvent s
  | some c =>
    if !s.cmdEndDue cmd c then skipEvent s
    else
      let g := s.cmdEng cmd c
      match s.compAt g c with
      | .error b =>
        if c.owesError then .next (s.settleCmd cmd { c with comp := .none })
        else .next (s.failCmd cmd { c with comp := .none } b.1 b.2)
      | .ok x =>
        match s.wordReq cmd c x with
        | some r => .next (s.enter r).1
        | none =>
          let s1 := s.complete g c x c.owesError
          if c.owesError then .next (s1.settleCmd cmd { c with comp := .none })
          else
            let c1 := { c with bytes := c.count }
            if s1.engineWaits cmd then .next { s1 with cmds := s1.cmds.set cmd { c1 with comp := .none } }
            else .next (s1.settleCmd cmd { c1 with state := .done, code := 0 })

/-! ## A running command goes on -/

/-- The packets of an XBULK (R302): one for each 128 bytes. -/
def bulkPackets : Nat → Nat → List Byte → List (Nat × List Byte)
  | 0, _, _ => []
  | k + 1, a, l => if l.isEmpty then [] else (a, l.take 128) :: bulkPackets k (a + 128) (l.drop 128)

/-- What a running command does next. Nothing when it waits. -/
def State.cmdStep (s : State) (n : Nat) (c : Cmd) : Option CmdStep :=
  if c.state ≠ .running || c.moved || s.readsOwed n then none
  else match c.body with
    | .moving ms _ => s.moveSome (s.cmdEng n c) ms
    | .bulk cap data _ =>
      let a := (Cap.ofQuad cap).cur + (c.count - data.length)
      let g := s.cmdEng n c
      let ts := (bulkPackets 2 a data).filterMap fun p => touched (cap, true) p.1 p.2.length
      let new := s.newReqs g true ts
      if !new.isEmpty then some (.enter new) else if s.paid g true (ts.take 1) then some .packet else none
    | _ => match s.cmdPlan n c with
      | none => none
      | some (.bad b) => some (.stop b)
      | some (.enter rs) => some (.enter rs)
      | some (.wait []) => none
      | some (.wait asks) => some (.ask asks)
      | some (.moves ms) => some (.start ms)

/-- The capabilities that a command holds; a queued XRUN holds the CMD capability of its block (R123). -/
def Cmd.caps (c : Cmd) : List (Quad × Bool) :=
  let opt := fun (t : Option (Quad × Bool)) => t.toList
  (match c.comp with | .barCap q | .word q _ => [q] | _ => []) ++
  (match c.state, c.block with | .queued, some (q, _) => [q] | _, _ => []) ++
  (match c.body with
   | .block => []
   | .tcopy e _ pad _ table => (e.bits.extractLsb' 0 128, e.tag) :: pad :: opt table
   | .xstore e _ _ => [(e.bits.extractLsb' 0 128, e.tag)]
   | .bulk _ _ _ => []
   | .pull _ _ dest _ => [dest]
   | .fill cap _ _ => [cap]
   | .copy src dst _ => [src, dst]
   | .coll _ src dst _ _ _ _ => [src, dst]
   | .result dst _ => [dst]
   | .moving _ caps => caps)

/-- The capabilities that a command holds, changed. -/
def Cmd.mapCaps (c : Cmd) (f : Quad × Bool → Quad × Bool) : Cmd :=
  let entry := fun (e : TnEntry) => { e with tag := (f (e.bits.extractLsb' 0 128, e.tag)).2 }
  { c with
    block := c.block.map fun b => (f b.1, b.2)
    comp := match c.comp with | .barCap q => .barCap (f q) | .word q v => .word (f q) v | x => x
    body := match c.body with
      | .tcopy e box pad st table => .tcopy (entry e) box (f pad) st (table.map f)
      | .xstore e box rows => .xstore (entry e) box rows
      | .pull cb src dest rec => .pull cb src (f dest) rec
      | .fill cap n pattern => .fill (f cap) n pattern
      | .copy src dst n => .copy (f src) (f dst) n
      | .coll hdr src dst scales key data scl => .coll hdr (f src) (f dst) scales key data scl
      | .result dst parts => .result (f dst) parts
      | .moving ms caps => .moving (ms.map fun m => { m with src := m.src.map fun p => { p with cap := f p.cap }, dst := f m.dst })
          (caps.map f)
      | x => x }

/-- The capabilities of a list of moves, each once. -/
def moveCaps (ms : List Move) : List (Quad × Bool) := (ms.flatMap fun m => m.dst :: (m.src.map (·.cap)).toList).eraseDups

/-- A command after the filter of a pass: the capabilities it holds, and the tags of what it has read or will write (R121, R123). -/
def State.siftCmd (s : State) (c : Cmd) : Cmd :=
  let val := fun (v : AccVal) => { v with tag := s.filtered v.val v.tag }
  let c1 := c.mapCaps fun q => (q.1, s.filtered q.1 q.2)
  { c1 with
    buf := c1.buf.map fun p => (p.1, val p.2)
    body := match c1.body with
      | .moving ms caps => .moving (ms.map fun m => { m with lit := val m.lit }) caps
      | x => x }

/-- A payload that has been moved. -/
def State.movedCmd (s : State) (n : Nat) (c : Cmd) : State :=
  let s1 := { s with cmds := s.cmds.set n { c with moved := true, buf := [] } }
  (s1.retire n false []).retire n true []

/-- Writes of a command that have been sent and not answered. -/
def State.writesOwed (s : State) (n : Nat) : Nat := (s.outst.filter fun p => p.2.batch = n && p.2.kind = .store).length

/-- Bytes that a command has moved, counted (R357). -/
def State.countMoved (s : State) (c : Cmd) (n : Nat) : State := s.count c.ctx c.core 9 n

/-- The first packet of an XBULK sent, as a request of the issuing thread (R302). Its bytes count when its answer comes. -/
def State.sendPacket (s : State) (n : Nat) (c : Cmd) (cap : Quad) (data : List Byte) (bar : Nat) : State :=
  let q := Cap.ofQuad cap
  let a := q.cur + (c.count - data.length)
  let x := { (s.cmdEng n c).acc s (cap, true) .store a (data.take 128).length with team := c.team, tid := c.tid }
  let m := { x.message (q.cur / 2 ^ 54) q.colour with op := 4, data := data.take 128, bar := bar }
  let (k, s1) := s.takeNum
  let (s2, rn) := s1.sendRequest m
  let left := data.drop 128
  { s2 with
    outst := s2.outst.set k { x with place := .remote (q.cur / 2 ^ 54) rn }
    cmds := s2.cmds.set n { c with body := .bulk cap left bar, moved := left.isEmpty } }

/-! ## Row copy (R388) -/

/-- The aligned stack blocks of a COPY that its base dies copy row by row: the home addresses of source and destination (R388). Both
lie on one stack, with stack addresses that differ only in bits [20:12], and the source frame holds no tag. -/
def State.rowCopies (s : State) (a b n : Nat) : List (Nat × Nat) :=
  let first := (b + 0xFFF) / 0x1000 * 0x1000
  if a % 0x1000 ≠ b % 0x1000 then []
  else (List.range ((b + n - first) / 0x1000)).filterMap fun k =>
    let y := s.homeAddr (first + 0x1000 * k)
    let x := s.homeAddr (first + 0x1000 * k - b + a)
    let clean := match frameOf x with | some f => !Fst.tagsum (frameEntry s.frames f) | none => false
    if regionOf x = .local && regionOf y = .local && stackOf x = stackOf y && stackAddr x / 2 ^ 21 = stackAddr y / 2 ^ 21 && clean then
      some (x, y)
    else none

/-- Blocks made ready for a row copy: the lines of the source are written back, which changes nothing that memory reads as, and those
of the destination dropped (R388). -/
def State.rowsReady (s : State) (rows : List (Nat × Nat)) : State := rows.foldl (fun s p => s.mscDrop p.2 (p.2 + 0x1000)) s

/-- A request of a row copy brings no line into the memory-side cache. -/
def State.rowReq (s : State) (rows : List (Nat × Nat)) (r : Req) : Req :=
  let h := s.homeAddr r.addr / 0x1000
  if !r.peer && rows.any (fun p => p.1 / 0x1000 = h || p.2 / 0x1000 = h) then { r with alloc := false } else r

/-- The blocks of a command's payload that are copied row by row: those of COPY. -/
def State.rowsOf (s : State) (b : CmdBody) : List (Nat × Nat) :=
  match b with
  | .copy src dst n =>
    if (Cap.ofQuad src.1).kind = Kind.remote || (Cap.ofQuad dst.1).kind = Kind.remote then []
    else s.rowCopies (Cap.ofQuad src.1).cur (Cap.ofQuad dst.1).cur n
  | _ => []

/-- The step carried out. What is written to another device or to the host counts when its answer comes (R291). -/
def State.advanceCmd (s : State) (n : Nat) : State :=
  match s.cmds.get? n with
  | none => s
  | some c =>
    let g := s.cmdEng n c
    match s.cmdStep n c with
    | none => s
    | some (.stop b) => s.failCmd n c b.1 b.2
    | some (.ask asks) => asks.foldl (fun s p => s.sendEngine p.1 p.2) s
    | some (.enter rs) => s.enterAll rs
    | some .packet => match c.body with | .bulk cap data bar => s.sendPacket n c cap data bar | _ => s
    | some (.got vs) =>
      let c1 := { c with buf := addRead c.buf vs }
      let s1 := { s with cmds := s.cmds.set n c1 }
      match c.body with
      | .moving ms _ =>
        s1.retireRead (s.cmdEng n c1) (ms.filterMap (·.src))
      | _ => s1
    | some (.start ms) =>
      let rows := s.rowsOf c.body
      let s0 := (s.retire n false []).rowsReady rows
      let rs := s0.newReqs g false (pieceTouches (ms.filterMap (·.src))) ++ s0.newReqs g true (moveTouches ms)
      let s1 := s0.enterAll (rs.map (s0.rowReq rows))
      let c1 := { c with body := .moving ms (c.caps ++ moveCaps ms), buf := [] }
      if ms.isEmpty then s1.movedCmd n c1 else { s1 with cmds := s1.cmds.set n c1 }
    | some (.write ws) =>
      let s0 := (joinWrites g ws).foldl (fun s m => s.doMove g m (m.value g)) s
      let here := if s0.writesOwed n = s.writesOwed n then coveredBytes ws else 0
      let s1 := s0.countMoved c here
      match c.body with
      | .moving ms caps =>
        let left := ms.filter fun m => !ws.contains m
        let c1 := { c with body := .moving left caps, bytes := min c.count (c.bytes + here) }
        if left.isEmpty then s1.movedCmd n c1
        else ({ s1 with cmds := s1.cmds.set n c1 }).retire n true (left.map fun (m : Move) => m.addr / 128)
      | _ => s1

/-- A command block's operation, which takes a step. -/
def runBlock (opc : Nat) (cmd : Nat) (s : State) : Res :=
  match s.cmds.get? cmd with
  | some c => if c.opcode = 0xB6 && c.opc = opc then .next (s.advanceCmd cmd) else skipEvent s
  | none => skipEvent s

def execCmdCopy (cmd : Nat) (s : State) : Res := runBlock 0x01 cmd s
def execCmdTcopy (cmd : Nat) (s : State) : Res := runBlock 0x02 cmd s
def execCmdTcopyp (cmd : Nat) (s : State) : Res := runBlock 0x03 cmd s
def execCmdFill (cmd : Nat) (s : State) : Res := runBlock 0x04 cmd s

/-- XPULL_RECORD_READ (R301): the record is read once the phase differs from its phase bit; an empty record reads as zero
(log entry 29). -/
def State.pubOf (s : State) (c : Cmd) (cb src : Nat) : PubRec :=
  (s.ctx c.ctx).pubs.getD ((c.core / 8 * 4 + cb) * 8 + src) ⟨0, 0, false, 0⟩

def State.pullDue (s : State) (c : Cmd) : Bool :=
  match c.state, c.body with
  | .running, .pull cb src _ none => barPhase (s.barGet (.cluster c.ctx (c.core / 8) cb)) != (s.pubOf c cb src).phase
  | _, _ => false

def execXpullRecordRead (cmd : Nat) (s : State) : Res :=
  match s.cmds.get? cmd with
  | some c => match s.pullDue c, c.body with
    | true, .pull cb src dest none =>
      let r := s.pubOf c cb src
      .next { s with cmds := s.cmds.set cmd { c with body := .pull cb src dest (some r), count := r.len } }
    | _, _ => skipEvent s
  | none => skipEvent s

/-! ## Issue -/

/-- A command created (R290): its issue is a release by the issuing thread (R245). -/
def State.putCmd (s : State) (l : Nat) (opcode : Byte) (count : Nat) (block : Option ((Quad × Bool) × Nat)) (body : CmdBody) (comp : Comp) :
    State × Nat :=
  let c := s.laneCtx l
  let (k, s1) := (s.flushAll (s.unitOf c s.cur.core) c).takeNum
  let x : Cmd :=
    { core := s.cur.core
      ctx := c
      team := s.laneTeam l
      tid := (s.lane l).tid
      opcode := opcode
      opc := 0
      block := block
      body := body
      count := count
      comp := comp
      state := .queued
      code := 0
      failAddr := 0
      bytes := 0
      engine := 0
      moved := false
      joined := false
      buf := [] }
  ({ s1 with cmds := s1.cmds.set k (s.siftCmd x) }, k)

/-- A completion as an instruction names it (R292): a barrier, or a value word in the team's pad, whose offset and value are
in a uniform pair. -/
def compOf (f : FmtX) (r : BitVec 9) (s : State) (l : Nat) : Except Flt Comp :=
  if !f.xo.getLsbD 1 then .ok (.barrier f.bar.toNat)
  else
    let m := s.team (s.laneTeam l)
    let off := (s.reg l r 1).toNat
    let a := BitVec.ofNat 64 (m.padAddr off)
    if off < 256 then .error ⟨Code.capPerm, a, Kind.pad, 0⟩
    else if off % 4 ≠ 0 then .error ⟨Code.align, a, 0, 0⟩
    else if m.padLen < off + 4 then .error ⟨Code.capBounds, a, Kind.pad, 0⟩
    else .ok (.padWord off (s.reg l r 0))

/-- A range that lies in the pad of a core, in banks that the context holds there (R266). -/
def State.coversPad (s : State) (c core : Nat) (k : Cap) (n : Nat) : Bool :=
  let lo := padBase + core * 0x100000
  let p := k.cur
  k.kind ≠ Kind.remote && lo ≤ p && p + n ≤ lo + 0x100000 && (List.range 16).all fun i =>
    !(p - lo < (i + 1) * 0x10000 && i * 0x10000 < p - lo + n) || s.holdsPad c core (i * 0x10000)

/-- A tile in the issuing core's pad, as an instruction names it (R266, R297). -/
def State.padTile (s : State) (l : Nat) (q : Quad × Bool) (n : Nat) (perm : BitVec 12) : Option Flt :=
  let k := Cap.ofQuad q.1
  match checkAccess q (s.laneColour l) accData perm k.cur n with
  | some f => some f
  | none => if s.coversPad (s.laneCtx l) s.cur.core k n then none else some ⟨Code.addressHole, addrInfo k.cur, 0, 0⟩

/-- An instruction that creates a command through its acting lane, or faults there. -/
def cmdOnce (r : Except Flt State) (s : State) : State × LaneRes :=
  match r with
  | .error e => (s, .error e)
  | .ok s1 => (s1, .ok [])

/-- The entry and coordinate block of a tensor command (R296, R297). -/
def boxOf (f : FmtX) (s : State) (l : Nat) : Except Flt (TnEntry × BitVec 256) :=
  let e := (s.team (s.laneTeam l)).tn f.tid.toNat
  let b := BitVec.ofNat 256 (s.regsNat l f.a 8)
  if !e.valid then .error (valueFlt f.tid.toNat)
  else if !boxOk e.rank b then .error (valueFlt 0)
  else .ok (e, b)

/-- Where a fault ranks by its item of R364, below the decode faults. -/
def faultItem (code : Byte) : Nat :=
  if code.toNat < 0x10 then 2
  else if code.toNat < 0x17 then 3
  else if 0x20 ≤ code.toNat && code.toNat ≤ 0x22 then 4
  else 5

/-- Of the faults that the operands of an instruction give, in the order of its rule, the first in rank (R364). -/
def firstRanked (l : List (Option Flt)) : Option Flt := minBy (fun (e : Flt) => faultItem e.code) (l.filterMap id)

/-- ALIGN to 16 of the cursor of a quad. -/
def cursorAlign (q : Quad × Bool) : Option Flt :=
  if (Cap.ofQuad q.1).cur % 16 ≠ 0 then some ⟨Code.align, addrInfo (Cap.ofQuad q.1).cur, 0, 0⟩ else none

/-- XCOPY and XCOPYP (R297, R298). -/
def xcopyOnce (f : FmtX) (opcode : Byte) (blocks : Bool) (s : State) (l : Nat) : State × LaneRes :=
  cmdOnce (do
    let (e, b) ← boxOf f s l
    let st := f.xo.getLsbD 0
    let size := imageSize e.fmt b
    let p := s.quad l f.d
    let q := s.quad l f.b
    let tile := (s.padTile l p size (if st then Perm.ld else Perm.st)).or (cursorAlign p)
    let table :=
      if blocks then (checkAccess q (s.laneColour l) accData Perm.ld (Cap.ofQuad q.1).cur 16).or (cursorAlign q) else none
    let comp := compOf f f.c s l
    match firstRanked [tile, table, (match comp with | .error x => some x | .ok _ => none)] with
    | some x => throw x
    | none => pure ()
    let comp ← comp
    pure (s.putCmd l opcode size none (.tcopy e b p st (if blocks then some q else none)) comp).1) s

def execXcopy (f : FmtX) (s : State) : Res := onceInstr (.xcopy f) (xcopyOnce f 0xB0 false) s
def execXcopyp (f : FmtX) (s : State) : Res := onceInstr (.xcopyp f) (xcopyOnce f 0xB1 true) s

/-- XSTORE (R299): every guard-true lane supplies its row. -/
def xstoreOnce (f : FmtX) (s : State) (l : Nat) : State × LaneRes :=
  cmdOnce (do
    let (e, b) ← boxOf f s l
    let regs := rowBytes e.fmt b / 4
    if boxLen b 2 ≠ 1 || boxLen b 3 ≠ 1 || boxLen b 4 ≠ 1 || 64 < boxLen b 1 then throw (valueFlt 0)
    if s.allocation (groupOf l) < f.d.toNat + regs then
      throw ⟨Code.illegalOperand, BitVec.ofNat 64 (27 * 2 ^ 56 + f.d.toNat), 0, 0⟩
    let comp ← compOf f f.c s l
    let rows := ((s.guardTrue f.g).filter fun lk => posOf lk < boxLen b 1).map fun lk =>
      (posOf lk, (List.range regs).map fun k => (s.reg lk f.d k, s.regsBad lk f.d k 1))
    pure (s.putCmd l 0xB2 (imageSize e.fmt b) none (.xstore e b rows) comp).1) s

/-- XSTORE reads the tile's registers whatever their poison: the data reaches its destination poisoned (R294). -/
def execXstore (f : FmtX) (s : State) : Res := onceInstr (.xstore f) (xstoreOnce f) s

/-- XBULK (R302). -/
def xbulkOnce (f : FmtX) (s : State) (l : Nat) : State × LaneRes :=
  let n := (s.reg1 l f.b).toNat
  let q := s.quad l f.a
  let a := (Cap.ofQuad q.1).cur
  cmdOnce (do
    if n % 16 ≠ 0 || n < 16 || 256 < n then throw (valueFlt 0)
    if 0x140 < f.d.toNat + n / 4 then throw ⟨Code.illegalOperand, BitVec.ofNat 64 (27 * 2 ^ 56 + f.d.toNat), 0, 0⟩
    match checkAccess q (s.laneColour l) [Kind.remote] Perm.st a n with
    | some x => throw x
    | none => pure ()
    if a % 16 ≠ 0 then throw ⟨Code.align, addrInfo a, 0, 0⟩
    match (List.range (n / 4)).find? fun k => s.regsBad l f.d k 1 with
    | some k => throw ⟨Code.poison, BitVec.ofNat 64 (f.d.toNat + k), 0, 0⟩
    | none => pure ()
    let data := natBytes n (s.regsNat l f.d (n / 4))
    pure (s.putCmd l 0xB3 n none (.bulk q.1 data f.bar.toNat) .none).1) s

def execXbulk (f : FmtX) (s : State) : Res := onceInstr (.xbulk f) (xbulkOnce f) s

/-- XPUB (R300): the record, then one arrival, a release at .clus. -/
def xpubOnce (f : FmtX) (s : State) (l : Nat) : State × LaneRes :=
  let n := (s.reg1 l f.b).toNat
  let q := s.quad l f.a
  let p := Cap.ofQuad q.1
  if n % 16 ≠ 0 || n < 16 || 1048576 < n then (s, .error (valueFlt 0))
  else match s.padTile l q n Perm.ld with
    | some x => (s, .error x)
    | none =>
      if p.cur % 16 ≠ 0 then (s, .error ⟨Code.align, addrInfo p.cur, 0, 0⟩)
      else
        let c := s.laneCtx l
        let cl := s.cur.core / 8
        let i := f.xo.toNat % 4
        let loc := BarLoc.cluster c cl i
        let r : PubRec := ⟨(p.cur - padBase) % 0x100000, n, barPhase (s.barGet loc), p.perm⟩
        let u := s.unitOf c s.cur.core
        let s1 := if u = s.cur.core then s.flushAll u c else s
        let s2 := s1.modCtx c fun x => { x with pubs := x.pubs.set ((cl * 4 + i) * 8 + s.cur.core % 8) r }
        (s2.barUpdate loc (s.laneTeam l) Bar.threadArrive, .ok [])

def execXpub (f : FmtX) (s : State) : Res := onceInstr (.xpub f) (xpubOnce f) s

/-- XPULL (R301): the destination is checked at issue without a length, which the record gives later. -/
def xpullOnce (f : FmtX) (s : State) (l : Nat) : State × LaneRes :=
  let k := (s.reg1 l f.b).toNat
  let q := s.quad l f.d
  if 8 ≤ k then (s, .error (valueFlt 0))
  else match s.padTile l q 0 Perm.st with
    | some x => (s, .error x)
    | none => ((s.putCmd l 0xB5 0 none (.pull (f.xo.toNat % 4) k q none) (.barrier f.bar.toNat)).1, .ok [])

def execXpull (f : FmtX) (s : State) : Res := onceInstr (.xpull f) (xpullOnce f) s

/-- XFILL (R303). -/
def xfillOnce (f : FmtX) (s : State) (l : Nat) : State × LaneRes :=
  let n := (s.pair l f.b).toNat
  let q := s.quad l f.a
  let a := (Cap.ofQuad q.1).cur
  cmdOnce (do
    if n % 16 ≠ 0 || n < 16 || 2 ^ 40 - 16 < n then throw (valueFlt 0)
    if a % 16 ≠ 0 then throw ⟨Code.align, addrInfo a, 0, 0⟩
    match checkAccess q (s.laneColour l) accData Perm.st a n with
    | some x => throw x
    | none => pure ()
    let comp ← compOf f f.d s l
    pure (s.putCmd l 0xB7 n none (.fill q n (s.reg1 l f.c)) comp).1) s

def execXfill (f : FmtX) (s : State) : Res := onceInstr (.xfill f) (xfillOnce f) s

/-- An XSIG arrival (R217, R304): discarded, with its bytes, where no arrival is expected. -/
def Bar.signal (b : Bar) (n : Nat) : BarRes :=
  if b.arrExp = 0 then ⟨{ b with err := true }, true, false⟩
  else
    let sum := b.byteCnt + n
    { b with byteCnt := min sum byteMax, arrCnt := (b.arrCnt + 1) % 2 ^ 13 }.test (byteMax < sum)

/-- XSIG (R304): an eager release at .dev, then the arrival or the credit. -/
def xsigOnce (f : FmtX) (s : State) (l : Nat) : State × LaneRes :=
  let q := s.quad l f.a
  let a := (Cap.ofQuad q.1).cur
  let n := (s.reg1 l f.b).toNat
  match checkAccess q (s.laneColour l) [Kind.barr] Perm.st a 16 with
  | some x => (s, .error x)
  | none =>
    if a % 16 ≠ 0 then (s, .error ⟨Code.align, addrInfo a, 0, 0⟩)
    else match s.barrierAt a with
      | none => (s, .error ⟨Code.addressHole, addrInfo a, 0, 0⟩)
      | some (t, i) =>
        let c := s.laneCtx l
        (((s.flushAll (s.unitOf c s.cur.core) c).seenBy (.team t i) s.cur.core).barUpdate (.team t i) t fun b =>
          if f.xo.getLsbD 0 then b.credit n else b.signal n, .ok [])

def execXsig (f : FmtX) (s : State) : Res := onceInstr (.xsig f) (xsigOnce f) s

/-! ## Command blocks (R305 to R309) -/

/-- The check of a CMD capability: its block's address. -/
def blockCheck (f : FmtX) (perm : BitVec 12) (s : State) (l : Nat) : Except Flt Nat :=
  let q := s.quad l f.a
  let a := (Cap.ofQuad q.1).cur
  match checkAccess q (s.laneColour l) [Kind.cmd] perm a 128 with
  | some x => .error x
  | none => if a % 128 ≠ 0 then .error ⟨Code.align, addrInfo a, 0, 0⟩ else .ok a

/-- A command that has not ended. -/
def Cmd.unfinished (c : Cmd) : Bool := c.state = .queued || c.state = .running

/-- A new status record of a core: it replaces the one of its block, and only the last 256 blocks keep one (R308). -/
def State.putXRec (s : State) (r : XRec) : State :=
  let (mine, other) := s.xrecs.partition fun x => x.core = r.core && x.ctx = r.ctx
  let kept := mine.filter fun x => x.block ≠ r.block
  let kept := kept.drop (kept.length - 255)
  let s1 := { s with xrecs := other ++ kept ++ [r] }
  { s1 with cmds := s1.cmds.filter fun p => p.2.unfinished || p.2.owesError || s1.xrecs.any fun x => x.cmd = p.1 }

/-- The command of a block that is queued, paused or running, whoever has issued it (R307, R309). -/
def State.blockOwner (s : State) (a : Nat) : Option (Nat × Cmd) :=
  s.cmds.find? fun p => p.2.unfinished && (match p.2.block with | some b => b.2 = a | none => false)

/-- XRUN (R307). -/
def xrunOnce (f : FmtX) (s : State) (l : Nat) : State × LaneRes :=
  match blockCheck f Perm.cmd s l with
  | .error e => (s, .error e)
  | .ok a =>
    let c := s.laneCtx l
    if (s.blockOwner a).isSome then (s, okReg f.d 1)
    else
      let (s1, k) := s.putCmd l 0xB6 0 (some (s.quad l f.a, a)) .block .none
      (s1.putXRec ⟨s.cur.core, c, a, k⟩, okReg f.d 0)

def execXrun (f : FmtX) (s : State) : Res := onceInstr (.xrun f) (xrunOnce f) s

/-- The latest command of a block, as this core's status records tell. -/
def State.blockCmd (s : State) (c core a : Nat) : Option (Nat × Cmd) :=
  (s.xrecs.find? fun r => r.core = core && r.ctx = c && r.block = a).bind fun r =>
    (s.cmds.get? r.cmd).map fun x => (r.cmd, x)

/-- STATE of R308. -/
def State.xstatState (s : State) (c : Cmd) : Nat :=
  match c.state with
  | .queued => if (s.ctx c.ctx).state = .active then 1 else 3
  | .running => 2
  | .done => 4
  | .faulted => 5
  | .cancelled => 6

/-- XSTAT (R308). -/
def xstatOnce (f : FmtX) (s : State) (l : Nat) : State × LaneRes :=
  match blockCheck f 0 s l with
  | .error e => (s, .error e)
  | .ok a =>
    let v := match s.blockCmd (s.laneCtx l) s.cur.core a with
      | some (_, c) => c.bytes % 2 ^ 32 * 2 ^ 32 + c.code.toNat * 2 ^ 8 + s.xstatState c
      | none => 0
    (s, okRegs f.d v 2)

def execXstat (f : FmtX) (s : State) : Res := onceInstr (.xstat f) (xstatOnce f) s

/-! ### The header (R305) -/

/-- `n` bits of the header from bit `b`. -/
def hdrField (h : Quad) (b n : Nat) : Nat := h.toNat / 2 ^ b % 2 ^ n

def Hdr.opc (h : Quad) : Nat := hdrField h 0 8
def Hdr.rop (h : Quad) : Nat := hdrField h 8 4
def Hdr.cmode (h : Quad) : Nat := hdrField h 12 4
def Hdr.fmt (h : Quad) : Nat := hdrField h 16 8
def Hdr.ofmt (h : Quad) : Nat := hdrField h 24 8
def Hdr.value (h : Quad) : Word := h.extractLsb' 32 32
def Hdr.count (h : Quad) : Nat := hdrField h 64 32
def Hdr.root (h : Quad) : Nat := hdrField h 96 16
def Hdr.sfmt (h : Quad) : Nat := hdrField h 112 4
def Hdr.comm (h : Quad) : Nat := hdrField h 116 12

/-- The granules that an operation reads, beside the header and the completion (R306). -/
def opcGranules (opc : Nat) : Option (List Nat) :=
  match opc with
  | 0x01 => some [1, 2]
  | 0x02 => some [2, 3, 6, 7]
  | 0x03 => some [2, 3, 4, 6, 7]
  | 0x04 => some [2, 6]
  | 0x10 | 0x11 => some [1, 2, 3, 7]
  | 0x12 | 0x13 => some [1, 2, 7]
  | _ => none

/-- Fields and granules that must be zero are (R306). -/
def blockTidy (g : List (Quad × Bool)) (used : List Nat) : Bool :=
  let h := (g.getD 0 (0, false)).1
  let at_ := fun i => (g.getD i (0, false)).1
  let o := Hdr.opc h
  let coll := 0x10 ≤ o
  ((List.range 8).all fun i => i = 0 || used.contains i || (i = 5 && Hdr.cmode h ≠ 0) || at_ i == 0) &&
  (Hdr.cmode h = 2 || Hdr.value h == 0) &&
  (coll || (Hdr.comm h = 0 && Hdr.sfmt h = 0 && Hdr.ofmt h = 0 && Hdr.fmt h = 0)) &&
  (o = 0x13 || Hdr.root h = 0) && (o = 0x10 || o = 0x11 || Hdr.rop h = 0) &&
  (!(o = 0x02 || o = 0x03) || (Hdr.count h = 0 && at_ 3 &&& ~~~0x13F == 0)) &&
  (o ≠ 0x04 || (at_ 6).toNat < 2 ^ 32) && (!coll || (at_ 7).toNat < 2 ^ 32) && (o < 0x12 || Hdr.sfmt h = 0)

/-- The completion that a block names; a needed capability without a tag is no completion. -/
def blockComp (h : Quad) (g5 : Quad × Bool) : Comp :=
  match Hdr.cmode h with
  | 1 => .barCap g5
  | 2 => .word g5 (Hdr.value h)
  | _ => .none

/-- Elements of a block of a residue format that share a scale (R75). -/
def fmtBlock (fmt : Nat) : Nat := if fmt = Fmt.tri8 then 64 else 32

/-- Elements that a collective writes on one of `n` ranks (R311). -/
def collElems (h : Quad) (n : Nat) : Nat :=
  match Hdr.opc h with
  | 0x11 => Hdr.count h / n
  | 0x12 => n * Hdr.count h
  | _ => Hdr.count h

/-- A reduction that writes E8 scales (R312). -/
def writesScales (h : Quad) : Bool := (Hdr.opc h = 0x10 || Hdr.opc h = 0x11) && isResidue (Hdr.ofmt h) && Hdr.sfmt h = 1

/-- Destination bytes that a collective writes on one of `n` ranks (R306). -/
def collBytes (h : Quad) (n : Nat) : Nat :=
  let k := collElems h n
  let b := fmtBlock (Hdr.ofmt h)
  k * fmtSize (Hdr.ofmt h) + (if writesScales h then (k + b - 1) / b else 0)

/-- The checks that XCOPY makes on its tile at issue (R297), for an engine: those of the capability and of R215, the hole, then
ALIGN (R89). -/
def State.blockTile (s : State) (g : Eng) (pad : Quad × Bool) (n : Nat) (st : Bool) : Option EngBad :=
  let k := Cap.ofQuad pad.1
  match s.engineCheck g pad accData (if st then Perm.ld else Perm.st) k.cur n (!st) with
  | .error b => some b
  | .ok _ =>
    if !s.coversPad g.ctx g.core k n then some (Code.addressHole, k.cur)
    else if k.cur % 16 ≠ 0 then some (Code.align, k.cur) else none

/-- The checks that XCOPYP makes on its table at issue (R298), for an engine. -/
def State.blockTable (s : State) (g : Eng) (q : Quad × Bool) : Option EngBad :=
  let a := (Cap.ofQuad q.1).cur
  match s.engineCheck g q accData Perm.ld a 16 false with
  | .error b => some b
  | .ok _ => if a % 16 ≠ 0 then some (Code.align, a) else none

/-- The body and byte count of a block command, or why the block cannot run. The byte count of a block whose operation is
unknown, or whose tensor entry or communicator is, is stated nowhere and is a free value (log entry 30). -/
def State.parseBlock (s : State) (c : Cmd) (g : List (Quad × Bool)) : Except EngBad CmdBody × Nat :=
  let at_ := fun i => g.getD i (0, false)
  let h := (at_ 0).1
  let blk := match c.block with | some b => b.2 | none => 0
  let o := Hdr.opc h
  let n := Hdr.count h
  let free := (Config.freeDWord s.tick).toNat % 2 ^ 40
  let eng : Eng := ⟨c.core, c.ctx, (s.ctx c.ctx).colour, c.team, 0, []⟩
  let bad : Except EngBad CmdBody := .error (Code.engineFault, blk)
  match opcGranules o with
  | none => (bad, free)
  | some used =>
    let caps := [1, 2, 4].filter used.contains ++ (if Hdr.cmode h = 1 || Hdr.cmode h = 2 then [5] else [])
    let tid := (at_ 3).1.toNat % 64
    let e := (s.team c.team).tn tid
    let box := (at_ 7).1 ++ (at_ 6).1
    let size := if o = 0x02 || o = 0x03 then (if e.valid then imageSize e.fmt box else free) 
      else if 0x10 ≤ o then (match s.comms.get? (Hdr.comm h) with | some x => collBytes h x.ranks.length | none => free)
      else n
    if 2 < Hdr.cmode h || 2 < Hdr.rop h || !blockTidy g used then (bad, size)
    else match caps.find? fun i => !(at_ i).2 with
      | some i => (.error (Code.capTag, (Cap.ofQuad (at_ i).1).cur), size)
      | none =>
        match o with
        | 0x01 => (if n % 16 = 0 then .ok (.copy (at_ 1) (at_ 2) n) else bad, n)
        | 0x04 => (if n % 16 = 0 && 16 ≤ n then .ok (.fill (at_ 2) n ((at_ 6).1.setWidth 32)) else bad, n)
        | 0x02 | 0x03 =>
          let st := (at_ 3).1.getLsbD 8
          let table := if o = 0x03 then some (at_ 4) else none
          if !e.valid || !boxOk e.rank box then (bad, size)
          else match (s.blockTile eng (at_ 2) size st).or (table.bind (s.blockTable eng)) with
          | some b => (.error b, size)
          | none => (.ok (.tcopy e box (at_ 2) st table), size)
        | _ => (.ok (.coll h (at_ 1) (at_ 2) (at_ 3).1 ((at_ 7).1.toNat % 2 ^ 32) [] []), size)

/-! ## Start (R290, R293) -/

/-- The granules of a block, read through its CMD capability. -/
def Cmd.blockPieces (c : Cmd) : List Piece :=
  match c.block with
  | some (q, a) => (List.range 8).map fun i => ⟨q, a + 16 * i, 16, false⟩
  | none => []

/-- How a queued command begins. -/
inductive StartStep where
  | enter (rs : List Req)
  | ask (asks : List (Acc × GateRes))
  | go
  deriving DecidableEq, Repr

/-- The next step of a queued command towards its start: a block is read first, at once. -/
def State.startStep (s : State) (n : Nat) (c : Cmd) : Option StartStep :=
  if c.block.isNone then some .go
  else
    let e := s.cmdEng n c
    let ts := pieceTouches c.blockPieces
    let new := s.newReqs e false ts
    let g := s.gather e c.blockPieces
    if g.bad.isSome then some .go
    else if !new.isEmpty then some (.enter new)
    else if s.readsOwed n || !s.paid e false ts then none
    else if !g.asks.isEmpty then some (.ask (joinAll g.asks))
    else if g.stall then none else some .go

/-- The command of a core that starts next: the oldest queued one whose context is not gated; before it, one that has been cancelled
and whose block can be read now (R309). -/
def State.headCmd (s : State) (core : Nat) : Option (Nat × Cmd) :=
  match s.cmds.find? fun p => p.2.core = core && p.2.comp = .unread && (s.startStep p.1 p.2).isSome with
  | some p => some p
  | none => s.cmds.find? fun p => p.2.core = core && p.2.state = .queued && (s.ctx p.2.ctx).state = .active

/-- Whether a queued command can start, or go on towards its start, now. -/
def State.startDue (s : State) (core : Nat) : Bool :=
  match s.headCmd core with
  | none => false
  | some (n, c) => (s.startStep n c).isSome

/-- The granules of a block as they were read. -/
def State.blockGrans (s : State) (n : Nat) (c : Cmd) : List (Quad × Bool) :=
  (s.gather (s.cmdEng n c) c.blockPieces).vals.map fun v => (v.val, s.filtered v.val v.tag)

/-- A command with the completion and byte count that its block gives it, once the block has been read (R291, R309); a block that may
not be read gives none. -/
def State.readBlock (s : State) (n : Nat) (c : Cmd) : Cmd :=
  if !((c.state = .queued && c.block.isSome) || c.comp = .unread) then c
  else
    let g := s.gather (s.cmdEng n c) c.blockPieces
    if g.bad.isSome then { c with comp := .none }
    else if !g.ready then { c with comp := .unread }
    else
      let gs := s.blockGrans n c
      { c with comp := blockComp (gs.getD 0 (0, false)).1 (gs.getD 5 (0, false)), count := (s.parseBlock c gs).2 }

/-- A cancelled command whose block has been read: the completion in error that it then owes, or its end. -/
def State.settleRead (s : State) (n : Nat) (c : Cmd) : State :=
  if c.owesError then { s with cmds := s.cmds.set n c } else s.settleCmd n c

/-- XCANCEL (R309). -/
def xcancelOnce (f : FmtX) (s : State) (l : Nat) : State × LaneRes :=
  match blockCheck f 0 s l with
  | .error e => (s, .error e)
  | .ok a =>
    match s.blockOwner a with
    | some (n, c) =>
      if c.joined then (s, okReg f.d 2) else (s.stopCmd n (s.readBlock n c) .cancelled 0 0, okReg f.d 0)
    | none => (s, okReg f.d 1)

def execXcancel (f : FmtX) (s : State) : Res := onceInstr (.xcancel f) (xcancelOnce f) s

/-- A command started: its engine is named (R290), and a block is parsed. One that has been cancelled learns its completion. -/
def State.startCmd (s : State) (n : Nat) (c : Cmd) : State :=
  if c.comp = .unread then s.settleRead n { s.readBlock n c with buf := [] }
  else
  let c := { c with state := .running, engine := Config.engineOf n % 8 }
  match c.body with
  | .block =>
    let g := s.gather (s.cmdEng n c) c.blockPieces
    match g.bad with
    | some b => s.failCmd n c b.1 b.2
    | none =>
      let gs := s.blockGrans n c
      let h := (gs.getD 0 (0, false)).1
      let (body, count) := s.parseBlock c gs
      let c := { c with
        opc := Hdr.opc h
        count := count
        comp := blockComp h (gs.getD 5 (0, false))
        buf := []
        engine := if 0x10 ≤ Hdr.opc h then 8 else c.engine }
      match body with
      | .error b => s.failCmd n c b.1 b.2
      | .ok x => ({ s with cmds := s.cmds.set n { c with body := x } }).retire n false []
  | _ => { s with cmds := s.cmds.set n c }

/-- ENGINE_COMMAND_START (R290, R307). -/
def execEngineCommandStart (core : Nat) (s : State) : Res :=
  match s.headCmd core with
  | none => skipEvent s
  | some (n, c) => match s.startStep n c with
    | none => skipEvent s
    | some (.enter rs) => .next (s.enterAll rs)
    | some (.ask asks) => .next (asks.foldl (fun s p => s.sendEngine p.1 p.2) s)
    | some .go => .next (s.startCmd n c)

end Sys2Proof.Machine
end

