-- ==== Sys2Proof/Machine/Collective.lean ====
section
/-! DEFINITION. Collectives (R310 to R312, R79, R80): a command joins its communicator with its source data; once every rank
has joined under one key, the results are computed and each command writes its own. -/

namespace Sys2Proof.Machine

/-! ## Reductions -/

/-- What one rank brings: its rank, the header fields that must agree, and its source and scale bytes with their poison. -/
structure RankIn where
  rank : Nat
  params : List Nat
  (data scl : List (Byte × Bool))
  deriving DecidableEq, Repr

/-- Element `k` of `z` bytes, and whether it is poisoned. -/
def elemBytes (z : Nat) (d : List (Byte × Bool)) (k : Nat) : Nat × Bool :=
  let x := (d.drop (z * k)).take z
  (bytesNat (x.map Prod.fst), x.any Prod.snd)

/-- The exponent of a block of a rank (R79, R80): scale code 0 behaves as 127. -/
def blockE (sfmt : Nat) (x : RankIn) (b : Nat) : Nat := if sfmt = 1 then (elemBytes 1 x.scl b).1 else 127

/-- The integer contribution of an element (R79). -/
def contribution (q : Int) (d : Nat) : Int :=
  let k : Int := roundInt 0 (q < 0) q.natAbs (32 - (d : Int))
  if q < 0 then -k else k

/-- The exact reduced value of an element over the ranks, with block exponents in two phases (R79). A residue NaN makes it
NaN (log entry 31). -/
def reduceE8 (t16 : Bool) (sfmt : Nat) (xs : List RankIn) (k : Nat) : FV :=
  let b := k / (if t16 then 32 else 64)
  let es := xs.map fun x => blockE sfmt x b
  if es.contains 255 then .nan
  else
    let emax := es.foldl max 0
    let z := if t16 then 2 else 1
    let ts := xs.map fun x => (triVal t16 (elemBytes z x.data k).1).map fun q => contribution q (emax - blockE sfmt x b)
    if ts.contains none then .nan
    else
      let t := ts.foldl (fun a x => a + x.getD 0) (0 : Int)
      .fin (t < 0) t.natAbs ((emax : Int) - 159)

/-- A residue element with an F32 scale converted to F32 (R80, R70). -/
def scaledF32 (t16 : Bool) (x : RankIn) (k : Nat) : FV :=
  let z := if t16 then 2 else 1
  match triVal t16 (elemBytes z x.data k).1 with
  | none => .nan
  | some q =>
    let sc := Machine.f32.val (elemBytes 4 x.scl (k / (if t16 then 32 else 64))).1
    Machine.f32.val (Machine.f32.ofV 0 false ((FV.ofInt q).mul sc))

/-- Whether an element of the result rests on poisoned data (R294). -/
def reduceBad (h : Quad) (xs : List RankIn) (k : Nat) : Bool :=
  let b := k / fmtBlock (Hdr.fmt h)
  xs.any fun x =>
    (elemBytes (fmtSize (Hdr.fmt h)) x.data k).2 || (Hdr.sfmt h = 1 && (elemBytes 1 x.scl b).2) ||
      (Hdr.sfmt h = 2 && (elemBytes 4 x.scl b).2)

/-- Element `k` of a reduction in the format OFMT, but for results with E8 scales (R312). -/
def reduceElem (h : Quad) (xs : List RankIn) (k : Nat) : Nat :=
  let fmt := Hdr.fmt h
  let out := fmtF (Hdr.ofmt h)
  let t16 := decide (fmt = Fmt.tri16)
  if isResidue fmt then
    if Hdr.sfmt h = 2 then out.sumV 0 false (xs.map fun x => scaledF32 t16 x k)
    else out.ofV 0 false (reduceE8 t16 (Hdr.sfmt h) xs k)
  else
    let f := fmtF fmt
    let vs := xs.map fun x => (elemBytes (fmtSize fmt) x.data k).1
    match Hdr.rop h, vs with
    | 0, vs => out.sumV 0 false (vs.map f.val)
    | _, [] => 0
    | o, v :: vs => out.ofV 0 false (f.val (vs.foldl (fun a b => f.minMax (o = 2) a b) v))

/-- The bytes of elements with their poison. -/
def elemsBytes (z : Nat) (l : List (Nat × Bool)) : List (Byte × Bool) :=
  l.flatMap fun p => (natBytes z p.1).map fun b => (b, p.2)

/-- Elements `lo` to `lo + n` − 1 of a reduction, and their E8 scales where the result has them (R312, R76). -/
def reduceRange (h : Quad) (xs : List RankIn) (lo n : Nat) : List (Byte × Bool) × List (Byte × Bool) :=
  let ks := (List.range n).map (lo + ·)
  let z := fmtSize (Hdr.ofmt h)
  if writesScales h then
    let t16 := decide (Hdr.fmt h = Fmt.tri16)
    let w := fmtBlock (Hdr.fmt h)
    let blocks := (List.range ((n + w - 1) / w)).map fun j => (ks.drop (j * w)).take w
    let qs := blocks.map fun b => (quantise t16 (b.map fun k => reduceE8 t16 1 xs k) none, b.map (reduceBad h xs))
    (qs.flatMap fun q => elemsBytes z (q.1.2.zip q.2), qs.map fun q => (BitVec.ofNat 8 q.1.1, q.2.any id))
  else (elemsBytes z (ks.map fun k => (reduceElem h xs k, reduceBad h xs k)), [])

/-- What rank `r` of `n` writes to its destination: bytes and scales (R311). -/
def collResult (h : Quad) (xs : List RankIn) (r n : Nat) : List (Byte × Bool) × List (Byte × Bool) :=
  match Hdr.opc h with
  | 0x10 => reduceRange h xs 0 (Hdr.count h)
  | 0x11 => reduceRange h xs (r * (Hdr.count h / n)) (Hdr.count h / n)
  | 0x12 => ((sortBy (fun a b => a.rank ≤ b.rank) xs).flatMap (·.data), [])
  | _ => (match xs.find? fun x => x.rank = Hdr.root h with | some x => x.data | none => [], [])

/-- The pairings that R311 and R312 allow. -/
def collOk (h : Quad) (n : Nat) : Bool :=
  let fmt := Hdr.fmt h
  let o := Hdr.ofmt h
  let reduce := Hdr.opc h = 0x10 || Hdr.opc h = 0x11
  if reduce then
    (isFloat fmt || isResidue fmt) && (o = fmt || o = Fmt.f32) &&
    (if isResidue fmt then Hdr.rop h = 0 && Hdr.sfmt h ≤ 2 && (o = Fmt.f32 || Hdr.sfmt h = 1) else Hdr.sfmt h = 0) &&
    (Hdr.opc h = 0x10 || Hdr.count h % (n * if isResidue fmt then fmtBlock fmt else 1) = 0)
  else (isFloat fmt || isResidue fmt || fmt = Fmt.s8) && o = fmt && (Hdr.opc h = 0x12 || Hdr.root h < n)

/-! ## Joining -/

/-- The communicator of a command and its rank in it (R310). -/
def State.commOf (s : State) (c : Cmd) (h : Quad) : Option (Comm × Nat) :=
  match s.comms.get? (Hdr.comm h) with
  | none => none
  | some m => if m.ended then none else (m.ranks.findIdx? (· = (s.parish, c.ctx))).map fun r => (m, r)

/-- Bytes of the scale array of a source. -/
def sourceScales (h : Quad) : Nat :=
  let b := (Hdr.count h + fmtBlock (Hdr.fmt h) - 1) / fmtBlock (Hdr.fmt h)
  if 0x12 ≤ Hdr.opc h || !isResidue (Hdr.fmt h) then 0
  else if Hdr.sfmt h = 1 then b else if Hdr.sfmt h = 2 then 4 * b else 0

/-- The ranges of a source (R310, R312): its data at the cursor of granule 1, its scales from the base (log entry 32). A rank
that is not the root of a BROADCAST reads nothing. -/
def sourceRanges (h : Quad) (src : Quad × Bool) (scales : Quad) (rank : Nat) : List (Int × Nat) :=
  let q := Cap.ofQuad src.1
  let n := if Hdr.opc h = 0x13 && rank ≠ Hdr.root h then 0 else Hdr.count h * fmtSize (Hdr.fmt h)
  let m := sourceScales h
  [((q.cur : Int), n), (if m = 0 then (q.cur : Int) else q.base + (scales.extractLsb' 0 64).toNat, m)]

/-- What a collective does next, before it has joined. -/
inductive JoinStep where
  | stop (b : EngBad)
  | enter (rs : List Req)
  | ask (asks : List (Acc × GateRes))
  | got (vs : List (Nat × AccVal))
  | join (data scl : List (Byte × Bool))
  deriving DecidableEq, Repr

/-- The bytes of pieces with their poison. -/
def piecesPoison : List Nat → List AccVal → List (Byte × Bool)
  | n :: ns, v :: vs => (natBytes n v.val.toNat).map (fun b => (b, v.poison)) ++ piecesPoison ns vs
  | _, _ => []

def State.joinStep (s : State) (n : Nat) (c : Cmd) : Option JoinStep :=
  match c.body with
  | .coll h src _ scales _ _ _ =>
    if c.state ≠ .running || c.joined || s.readsOwed n then none
    else match s.commOf c h with
      | none => some (.stop (Code.engineFault, (Cap.ofQuad src.1).cur))
      | some (_, r) =>
        let g := s.cmdEng n c
        let rs := sourceRanges h src scales r
        match firstBad (rs.map fun x => s.engineCheck g src accLocal Perm.ld x.1 x.2 false) with
        | some b => some (.stop b)
        | none =>
          let ps := rs.map fun x => granRange x.1.toNat x.2
          let k := (ps.getD 0 []).length
          let all := ps.flatten
          let pieces := all.map fun p => (⟨src, p.1, p.2, false⟩ : Piece)
          if pieces.all g.has then
            let vals := (s.gather g pieces).vals
            let lens := all.map Prod.snd
            some (.join (piecesPoison (lens.take k) (vals.take k)) (piecesPoison (lens.drop k) (vals.drop k)))
          else (s.readAll g pieces).map fun r => match r with
            | .stop b => JoinStep.stop b
            | .enter rs => .enter rs
            | .ask asks => .ask asks
            | .got vs => .got vs
  | _ => none

/-! ## Running (R310) -/

/-- The fields of a header that every rank must share. -/
def collParams (h : Quad) : List Nat :=
  [Hdr.opc h, Hdr.rop h, Hdr.fmt h, Hdr.sfmt h, Hdr.ofmt h, Hdr.count h, Hdr.root h]

def CollPart.toIn (p : CollPart) : RankIn :=
  ⟨p.rank, [p.opc, p.rop, p.fmt, p.sfmt, p.ofmt, p.count, p.root], p.data, p.scales⟩

/-- The first of a list for each rank. -/
def firstOfRank {α : Type} (rank : α → Nat) (l : List α) : List α :=
  l.foldl (fun a x => if a.any fun y => rank y = rank x then a else a ++ [x]) []

/-- The commands of this device that take part in a collective: for each rank the one that joined the communicator under the key first
(log entry 93): number, rank and what each brings. -/
def State.joinedRanks (s : State) (m : Comm) (comm key : Nat) : List (Nat × RankIn) :=
  firstOfRank (fun x => x.2.rank) (s.cmds.filterMap fun p => match p.2.body with
    | .coll h _ _ _ k data scl =>
      if p.2.joined && p.2.state = .running && Hdr.comm h = comm && k = key then
        (m.ranks.findIdx? (· = (s.parish, p.2.ctx))).map fun r => (p.1, ⟨r, collParams h, data, scl⟩)
      else none
    | _ => none)

/-- The result of a rank put into its command, or the end of it. -/
def State.giveResult (s : State) (xs : List RankIn) (n : Nat) (ok : Bool) (p : Nat × RankIn) : State :=
  match s.cmds.get? p.1 with
  | none => s
  | some c => match c.body with
    | .coll h _ dst scales _ _ _ =>
      if !ok then s.failCmd p.1 c Code.engineFault (Cap.ofQuad dst.1).cur
      else
        let (data, scl) := collResult h xs p.2.rank n
        let q := Cap.ofQuad dst.1
        let parts := (q.cur, data) ::
          (if writesScales h then [((q.base + (scales.extractLsb' 64 64).toNat).toNat, scl)] else [])
        { s with cmds := s.cmds.set p.1 { c with body := .result dst parts } }
    | _ => s

/-- What ranks on other devices bring is noted. -/
def State.noteParts (s : State) (comm key : Nat) (parts : List CollPart) : State :=
  { s with parts := s.parts ++ parts.map fun p => ⟨comm, key, p⟩ }

/-- What ranks on other devices have brought to a communicator under a key. -/
def State.farParts (s : State) (m : Comm) (comm key : Nat) : List CollPart :=
  firstOfRank (·.rank) ((s.parts.filter fun x => x.comm = comm && x.key = key &&
    (match m.ranks[x.part.rank]? with | some r => r.1 ≠ s.parish | none => false)).map (·.part))

/-- Of what other ranks have brought, the first of each rank is used up. -/
def State.spendParts (s : State) (comm key : Nat) (used : List CollPart) : State :=
  { s with parts := used.foldl (fun l p => l.erase ⟨comm, key, p⟩) s.parts }

/-- The collective runs when each rank is present, here or among the parts of other devices; a mismatch or a pairing that is
not allowed ends every rank's command. -/
def State.runColl (s : State) (comm key : Nat) : Option State :=
  match s.comms.get? comm with
  | none => none
  | some m =>
    let mine := s.joinedRanks m comm key
    let far := s.farParts m comm key
    let xs := mine.map Prod.snd ++ far.map CollPart.toIn
    let n := m.ranks.length
    if m.ended || mine.isEmpty || !(List.range n).all (fun r => xs.any fun x => x.rank = r) then none
    else
      let same := xs.all fun x => xs.all fun y => x.params = y.params
      let ok := same && (match mine.head?.bind fun p => s.cmds.get? p.1 with
        | some c => (match c.body with | .coll h .. => collOk h n | _ => false)
        | none => false)
      some (mine.foldl (fun s p => s.giveResult xs n ok p) (s.spendParts comm key far))

/-- What a rank on another device brings arrives: the collective runs if it was the last. -/
def State.takePart (s : State) (comm key : Nat) (p : CollPart) : State :=
  let s1 := s.noteParts comm key [p]
  (s1.runColl comm key).getD s1

/-- COLLECTIVE_RUN (R310): what ranks on other devices bring arrives. -/
def execCollectiveRun (cmd : Nat) (parts : List CollPart) (s : State) : Res :=
  match s.cmds.get? cmd with
  | some c => match c.body with
    | .coll h _ _ _ key _ _ =>
      if !c.joined then skipEvent s
      else
        let s1 := s.noteParts (Hdr.comm h) key parts
        .next ((s1.runColl (Hdr.comm h) key).getD s1)
    | _ => skipEvent s
  | none => skipEvent s

/-- What a rank brings, sent to each other device of its communicator: over the links to one of this parish (site 0), and over the
scale-out ports to another, sealed under the pair's key (R420). -/
def State.sendPart (s : State) (m : Comm) (comm key : Nat) (p : CollPart) : State :=
  let devs := ((m.ranks.map Prod.fst).filter (· ≠ s.parish)).eraseDups
  devs.foldl (fun s d =>
    if d < 1024 then s.sendBody d (.part p comm key)
    else s.send (.part p comm key (d / 1024) (d % 1024) (((s.keys.get? d).bind (·.cur)).getD 0))) s

/-- A collective's next step: it reads its source and joins (R310); other devices' ranks are sent what it brings. When all
ranks are here it runs at once. -/
def State.advanceColl (s : State) (n : Nat) : State :=
  match s.cmds.get? n with
  | none => s
  | some c => match s.joinStep n c, c.body with
    | some (.stop b), _ => s.failCmd n c b.1 b.2
    | some (.ask asks), _ => asks.foldl (fun s p => s.sendEngine p.1 p.2) s
    | some (.enter rs), _ => s.enterAll rs
    | some (.got vs), _ => { s with cmds := s.cmds.set n { c with buf := addRead c.buf vs } }
    | some (.join data scl), .coll h src dst scales key _ _ =>
      let s0 := { s with cmds := s.cmds.set n { c with joined := true, buf := [], body := .coll h src dst scales key data scl } }
      let s1 := s0.retire n false []
      match s.commOf c h with
      | none => s1
      | some (m, r) =>
        let part : CollPart :=
          ⟨r, Hdr.opc h, Hdr.rop h, Hdr.fmt h, Hdr.sfmt h, Hdr.ofmt h, Hdr.count h, Hdr.root h, data, scl⟩
        let s2 := s1.sendPart m (Hdr.comm h) key part
        (s2.runColl (Hdr.comm h) key).getD s2
    | _, _ => s

/-- One of the collective operations of a command block, which joins, or writes its result once it has run. -/
def runCollBlock (opc cmd : Nat) (s : State) : Res :=
  match s.cmds.get? cmd with
  | some c =>
    if c.opcode ≠ 0xB6 || c.opc ≠ opc then skipEvent s
    else match c.body with
      | .coll .. => .next (s.advanceColl cmd)
      | _ => .next (s.advanceCmd cmd)
  | none => skipEvent s

def execCmdAllreduce (cmd : Nat) (s : State) : Res := runCollBlock 0x10 cmd s
def execCmdReducescatter (cmd : Nat) (s : State) : Res := runCollBlock 0x11 cmd s
def execCmdAllgather (cmd : Nat) (s : State) : Res := runCollBlock 0x12 cmd s
def execCmdBroadcast (cmd : Nat) (s : State) : Res := runCollBlock 0x13 cmd s

/-- The end of a communicator (R310): every command that waits on it ends. -/
def State.endComm (s : State) (comm : Nat) : State :=
  let s1 := { s with
    comms := s.comms.modify comm fun m => { m with ended := true }
    parts := s.parts.filter fun x => x.comm ≠ comm }
  (s1.cmds.filter fun p => match p.2.body with | .coll h .. => p.2.state = .running && Hdr.comm h = comm | _ => false).foldl
    (fun s p => s.failCmd p.1 p.2 Code.engineFault 0) s1

/-- The event by which a running command of a block goes on. -/
def blockDue (opc n : Nat) : List Due :=
  match opc with
  | 0x01 => [.cmdCopy n]
  | 0x02 => [.cmdTcopy n]
  | 0x03 => [.cmdTcopyp n]
  | 0x04 => [.cmdFill n]
  | 0x10 => [.cmdAllreduce n]
  | 0x11 => [.cmdReducescatter n]
  | 0x12 => [.cmdAllgather n]
  | 0x13 => [.cmdBroadcast n]
  | _ => []

/-- Command events that are due. -/
def State.commandDue (s : State) : List Due :=
  (((s.cmds.filter fun p => p.2.state = .queued || p.2.comp = .unread).map fun p => p.2.core).eraseDups.filter s.startDue).map Due.engineCommandStart ++
  s.cmds.flatMap fun (p : Nat × Cmd) =>
    (if p.2.opcode = 0xB6 && ((s.cmdStep p.1 p.2).isSome || (s.joinStep p.1 p.2).isSome) then blockDue p.2.opc p.1 else []) ++
    (if s.pullDue p.2 then [.xpullRecordRead p.1] else []) ++
    (if s.cmdEndDue p.1 p.2 then [.engineCommandEnd p.1] else [])

/-- What a load reads next. -/
def State.loadStep (s : State) (n : Nat) (w : WLoad) : Option ReadStep :=
  if s.readsOwed n then none else s.readAll (s.loadEng n w) w.pieces

/-- Commands of the instructions, and loads, whose engine has something to read or write. -/
def State.pumpDue (s : State) : List Nat :=
  ((s.cmds.filter fun p => p.2.opcode ≠ 0xB6 && (s.cmdStep p.1 p.2).isSome).map Prod.fst) ++
  ((s.wloads.filter fun p => (s.loadStep p.1 p.2).isSome).map Prod.fst)

/-- A step of a load: requests admitted or sent, a granule read, or its refusal (R452). -/
def State.pumpLoad (s : State) (n : Nat) (w : WLoad) : State :=
  match s.loadStep n w with
  | none => s
  | some (.stop b) => s.refuseLoad n w b.1 b.2 (s.loadGot n w)
  | some (.enter rs) => s.enterAll rs
  | some (.ask asks) => asks.foldl (fun s p => s.sendEngine p.1 p.2) s
  | some (.got vs) =>
    let w1 := { w with buf := addRead w.buf vs }
    ({ s with wloads := s.wloads.set n w1 }).retireRead (s.loadEng n w1) w.pieces

/-- An engine goes on: a command or a load. -/
def State.pump (s : State) (n : Nat) : State :=
  if (s.cmds.get? n).isSome then s.advanceCmd n
  else match s.wloads.get? n with
    | some w => s.pumpLoad n w
    | none => s

end Sys2Proof.Machine
end

