-- ==== Sys2Proof/Machine/Page.lean ====
section
/-! DEFINITION. Frames (R378 to R391): writes to the frame state table, FSTSET and FSTGET, scrubbing, retirement, and errors in
stored data (R376, R377). -/

namespace Sys2Proof.Machine

/-! ## Writing an entry -/

/-- The largest global frame number (R378). -/
abbrev maxFrame : Nat := 655359

/-- An entry written; one that is all zero is not listed. -/
def State.setEntry (s : State) (g : Nat) (e : DWord) : State :=
  { s with frames := if e = 0 then s.frames.erase g else s.frames.set g e }

/-- Next(n): the number of the pass after pass n (R117). -/
def nextPass (n : Nat) : Nat := if n = 0xFFFFFFFF then 1 else n + 1

/-- Every record and notice of a frame's granules promoted (R243). -/
def State.promoteFrame (s : State) (g : Nat) : State :=
  let inF := fun (r : SyncRec) => r.granule * 16 / 0x200000 = g
  let s1 := ((s.sync ++ s.notices).filter inF).foldl (fun s r => s.flushAll r.unit r.ctx) s
  { s1 with sync := s1.sync.filter fun r => !inF r, notices := s1.notices.filter fun r => !inF r }

/-- The entry of a frame that goes to QUARANTINE (R118, R381). -/
def State.quarantine (s : State) (g : Nat) (e : DWord) : State :=
  let s1 := if g < 393216 then s.promoteFrame g else s
  s1.setEntry g (Fst.mk (nextPass s1.sweepCur) 0 (Fst.tier e) (Fst.nocache e) (Fst.tagsum e) (Fst.colour e) Fst.quarantine)

/-- The end of a scrub (R381): NEXT and NEXTCOL take effect. -/
def scrubbed (e : DWord) : DWord :=
  Fst.mk 0 0 (Fst.tier e) (Fst.nocache e) false (scrubNextCol e) (if scrubNext e = 1 then Fst.owned else Fst.free)

/-- The entry of a frame that goes to SCRUB. A window frame only drops its lines, and is scrubbed at once (R382). -/
def State.toScrub (s : State) (g : Nat) (e : DWord) (next nextCol : Nat) : State :=
  let x := Fst.mk (next * 2 ^ 28 + nextCol * 2 ^ 16) 0 (Fst.tier e) (Fst.nocache e) (Fst.tagsum e) (Fst.colour e) Fst.scrub
  if g < 393216 then s.setEntry g x
  else (s.mscDrop (frameAddr g) (frameAddr g + 0x200000)).setEntry g (scrubbed x)

/-! ## Lease records that end with their window frames (R393, R397) -/

/-- A LEASE_STATE event (R315). -/
def State.postLease (s : State) (r : Lease) (st : Nat) : State :=
  s.postFw Ev.leaseState 0
    (BitVec.ofNat 12 r.id ++ BitVec.ofNat 4 st ++ BitVec.ofBool (!r.asLender) ++
      BitVec.ofNat 10 (if r.asLender then r.borrower else r.lender) ++ 0#149)
    srcLease

/-- A record freed: its generation advances (R393). -/
def State.freeLease (s : State) (n : Nat) : State :=
  match s.leases.get? n with
  | none => s
  | some r =>
    ({ s with leases := s.leases.erase n, leaseGens := s.leaseGens.set n ((r.gen + 1) % 2 ^ 32) }).postLease r 0

/-- A window frame has gone to QUARANTINE; with the last one of a lease the borrower's record is freed. -/
def State.settleLease (s : State) (g : Nat) : State :=
  match s.leases.find? fun p => !p.2.asLender && p.2.left.contains g with
  | none => s
  | some p =>
    let left := p.2.left.erase g
    if left.isEmpty then s.freeLease p.1 else { s with leases := s.leases.set p.1 { p.2 with left := left } }

/-- A frame has left SCRUB; with the last one of a returned extent the lender's record is freed (R396). -/
def State.settleReturned (s : State) (g : Nat) : State :=
  match s.leases.find? fun p => p.2.asLender && p.2.state = 5 && p.2.left.any fun x => liveFrame s.frames x = g with
  | none => s
  | some p =>
    let left := p.2.left.filter fun x => liveFrame s.frames x ≠ g
    if left.isEmpty then s.freeLease p.1 else { s with leases := s.leases.set p.1 { p.2 with left := left } }

/-! ## FSTSET and FSTGET -/

/-- Rows of R381 that FSTSET makes. -/
def fstRow (e n : DWord) : Bool :=
  let a := Fst.state e
  let b := Fst.state n
  let live := a = Fst.owned || a = Fst.shared
  (a = Fst.free && (b = Fst.owned || b = Fst.shared)) ||
  (((a = Fst.owned && b = Fst.shared) || (a = Fst.shared && b = Fst.owned)) && Fst.colour e = Fst.colour n) ||
  (live && (b = Fst.quarantine || b = Fst.scrub)) ||
  ((a = Fst.demoted || a = Fst.absent) && b = Fst.quarantine)

/-- Reserved ARG bits of a new entry (R390). -/
def fstArgBad (n : DWord) : Bool :=
  Fst.state n = Fst.scrub && (Fst.arg n / 64 % 2 ^ 10 ≠ 0 || 1 < scrubNext n)

/-- The entry that FSTSET writes. The data of a host window frame lie in host memory: TIER 2 (R379; log entry 64). -/
def State.fstWrite (s : State) (g : Nat) (e n : DWord) : State :=
  let x := Fst.mk 0 0 (if 524288 ≤ g then 2 else Fst.tier e) (Fst.nocache n) (Fst.tagsum e) (Fst.colour n) (Fst.state n)
  if Fst.state n = Fst.quarantine then (s.quarantine g x).settleLease g
  else if Fst.state n = Fst.scrub then s.toScrub g x (scrubNext n) (scrubNextCol n)
  else s.setEntry g (if 524288 ≤ g then Fst.setArg x (Fst.arg n) else x)

/-- FSTSET (R390): an eager release at .dev first. -/
def fstsetOnce (f : FmtT) (s : State) (l : Nat) : State × LaneRes :=
  let c := s.laneCtx l
  let s1 := s.flushAll (s.unitOf c s.cur.core) c
  let g0 := (s.reg1 l f.b).toNat
  let n := s.pair l f.a
  let g := liveFrame s1.frames g0
  let e := frameEntry s1.frames g
  if maxFrame < g0 then (s1, okReg f.d 2)
  else if Fst.lease n ≠ 0 || Fst.tier n ≠ 0 || Fst.tagsum n || 12 ≤ Fst.state n || fstArgBad n then (s1, okReg f.d 3)
  else if f.mod.getLsbD 0 && Fst.state e ≠ (s.reg1 l f.c).toNat % 16 then (s1, okReg f.d 1)
  else if !fstRow e n then (s1, okReg f.d 2)
  else (s1.fstWrite g e n, okReg f.d 0)

def execFstset (f : FmtT) (s : State) : Res := onceInstr (.fstset f) (fstsetOnce f) s

/-- FSTGET (R391). -/
def fstgetOnce (f : FmtT) (s : State) (l : Nat) : State × LaneRes :=
  let g := (s.reg1 l f.b).toNat
  let e := if maxFrame < g then BitVec.allOnes 64
    else frameEntry s.frames (if f.mod.getLsbD 0 then liveFrame s.frames g else g)
  (s, okRegs f.d e.toNat 2)

def execFstget (f : FmtT) (s : State) : Res := onceInstr (.fstget f) (fstgetOnce f) s

/-! ## Scrubbing (R382) -/

/-- An access that has passed a gate is to be performed in a frame and has not been yet, whether its address lies there or in a frame
whose fallback it is (R381). -/
def State.passedGate (s : State) (g : Nat) : Bool :=
  s.outst.any fun p =>
    p.2.peer.isNone && (match p.2.passed, frameOf p.2.home with | some (.go _ _), some x => liveFrame s.frames x = g | _, _ => false)

/-- A sub-frame to clear. -/
def State.scrubDue (s : State) (g : Nat) : Bool :=
  Fst.state (frameEntry s.frames g) = Fst.scrub && !s.passedGate g

/-- SCRUB_SUBFRAME: the next 64 KiB of a frame are zeroed; after sub-frame 31 the frame takes its next state. -/
def execScrubSubframe (frame : Nat) (s : State) : Res :=
  if !s.scrubDue frame then skipEvent s
  else
    let e := frameEntry s.frames frame
    let d := scrubDone e
    let s1 := if frame < 393216 then s.zeroRange (frameAddr frame + d * 0x10000) 0x10000 else s
    let e1 := frameEntry s1.frames frame
    if 31 ≤ d then .next ((s1.setEntry frame (scrubbed e1)).settleReturned frame)
    else .next (s1.setEntry frame (Fst.setArg e1 (Fst.arg e1 / 64 * 64 + d + 1)))

/-! ## Retirement (R383, R384) -/

/-- A frame's bytes, tags and poison copied to another frame. -/
def State.copyFrame (s : State) (f g : Nat) : State :=
  let a := frameAddr f
  let b := frameAddr g
  let s1 := s.zeroRange b 0x200000
  let mv := fun (k : Nat) => k - a / 16 + b / 16
  let inF := fun (k : Nat) => a ≤ 16 * k && 16 * k < a + 0x200000
  let cells := s.mem.filter fun c => a ≤ c.1 && c.1 < a + 0x200000
  { s1 with
    mem := cells.foldl (fun m c => m.setByte (c.1 - a + b) c.2) s1.mem
    tags := (s.tags.filter inF).foldl (fun t k => insertNat t (mv k)) s1.tags
    poison := (s.poison.filter inF).foldl (fun t k => insertNat t (mv k)) s1.poison
    sync := s1.sync.map fun (r : SyncRec) => if inF r.granule then { r with granule := mv r.granule } else r
    notices := s1.notices.map fun (r : SyncRec) => if inF r.granule then { r with granule := mv r.granule } else r }

/-- Whether a frame can serve as a spare. -/
def State.spareOk (s : State) (f g : Nat) : Bool :=
  g < 393216 && g ≠ f && Fst.state (frameEntry s.frames g) = Fst.free && !s.spares.contains g

/-- The entry of a RETIRED frame. -/
def retiredEntry (e : DWord) (g : Nat) : DWord :=
  Fst.mk g 0 (Fst.tier e) (Fst.nocache e) (Fst.tagsum e) (Fst.colour e) Fst.retired

/-- FRAME_RETIRE (R383). -/
def execFrameRetire (frame spare : Nat) (s : State) : Res :=
  let e := frameEntry s.frames frame
  if !(frame < 393216 && Fst.state e ≤ Fst.quarantine && !s.spares.contains frame && s.spareOk frame spare) then skipEvent s
  else
    let s1 := s.copyFrame frame spare
    .next ({ s1 with spares := insertNat s1.spares spare }.setEntry spare e |>.setEntry frame (retiredEntry e spare))

/-- SPARE_REPLACE (R384): the spare that failed is withdrawn and stays out of use; of its entry TAGSUM alone stands, which nothing but a
scrub clears (R107). -/
def execSpareReplace (frame spare : Nat) (s : State) : Res :=
  let e := frameEntry s.frames frame
  let old := Fst.arg e % 2 ^ 19
  if !(Fst.state e = Fst.retired && s.spareOk frame spare) then skipEvent s
  else
    let x := frameEntry s.frames old
    let s1 := s.copyFrame old spare
    .next ((({ s1 with spares := insertNat s1.spares spare }.setEntry spare x).setEntry frame (retiredEntry e spare)).setEntry old
      (Fst.mk 0 0 0 false (Fst.tagsum x) 0 Fst.free))

/-- ROUTE_REPLACE (R389): affected accesses stall meanwhile; none is lost or duplicated, and nothing else is to be seen. -/
def execRouteReplace (_die _stack : Nat) (s : State) : Res := .next s

/-! ## Errors (R376, R377) -/

/-- The die that an error is counted for: of a core, or of the stacks that hold an address. -/
def State.die (s : State) (d : Nat) : Die := s.dies.getD d ⟨0, 0, false, false, 0, 0⟩
def State.modDie (s : State) (d : Nat) (f : Die → Die) : State := { s with dies := s.dies.set d (f (s.die d)) }

/-- CORRECTABLE_ERROR (R376): corrected in place and counted. -/
def execCorrectableError (die : Nat) (s : State) : Res :=
  .next ((s.modDie die fun d => { d with corrected := d.corrected + 1 }).measure die 6 1)

/-- The die where an error falls. -/
def State.errorDie (s : State) (loc : ErrLoc) : Nat :=
  match loc with
  | .reg lane _ => coreOf (groupOf lane) / 256
  | .uniform group _ => coreOf group / 256
  | .sector unit _ line _ => sliceCore unit line / 256
  | .granule a => if regionOf a = .pad then (a - padBase) / 0x100000 / 256 else stackOf (s.homeAddr a) / 2
  | .slot core _ _ _ => core / 256
  | .network n => (match s.outst.get? n, s.cmds.get? n, s.wloads.get? n with
    | some x, _, _ => x.core
    | none, some c, _ => c.core
    | none, none, some w => w.core
    | none, none, none => 0) / 256

/-- A packet of an access, or of a command or weight load, has failed eight times: refused as DATA_LOST (R365, R376). -/
def State.loseOnNetwork (s : State) (n : Nat) : State :=
  match s.outst.get? n, s.cmds.get? n, s.wloads.get? n with
  | some x, _, _ => if x.team ≠ 0 then s.refuseAcc n x Code.dataLost (s.stateAt x.addr) else s
  | none, some c, _ => if c.state = .running then s.failCmd n c Code.dataLost 0 else s
  | none, none, some w => s.refuseLoad n w Code.dataLost w.addr (s.loadGot n w)
  | none, none, none => s

/-- UNCORRECTABLE_ERROR (R376, R377): the register, the L1 sector or granule, with its tag clear, or the weight granule is
poisoned, and what is lost on the on-die network is refused. -/
def execUncorrectableError (loc : ErrLoc) (s0 : State) : Res :=
  let s := s0.measure (s0.errorDie loc) 7 1
  match loc with
  | .reg lane r => .next (s.modLane lane fun l => { l with poison := insertNat l.poison r })
  | .uniform group r => .next (s.modGroup group fun g => { g with spoison := insertNat g.spoison r })
  | .sector unit c line sec => .next { s with l1 := s.l1.map fun l =>
      if l.unit = unit && l.ctx = c && l.line = line then
        { l with sectors := l.sectors.modify sec fun x => { x with poison := true, tag := false } } else l }
  | .granule a =>
    let k := s.homeAddr a / 16
    if regionOf a = .borrowed && (s.sliceGran a).own.isSome then .next (s.sliceSpoil a)
    else if regionOf a = .borrowed then .next s
    else .next { s with poison := insertNat s.poison k, tags := dropNat s.tags k }
  | .slot core c n g => .next (s.modCtx c fun x =>
      let k := core * 256 + n
      match x.slots.get? k with
      | some w => { x with slots := x.slots.set k { w with poison := insertNat w.poison g } }
      | none => x)
  | .network n => .next (s0.loseOnNetwork n)

/-- Page events that are due. -/
def State.pageDue (s : State) : List Due :=
  ((s.frames.map Prod.fst).filter fun g => g < 393216 && s.scrubDue g).map Due.scrubSubframe

end Sys2Proof.Machine
end

