-- ==== Sys2Proof/Machine/Kernel.lean ====
section
/-! DEFINITION. The match-and-replace table (R330, R331), the loader (R324 to R329), code versions and kernel records (R332,
R333). -/

namespace Sys2Proof.Machine

/-- `n` bytes of a list from offset `o`, as a little-endian number. -/
def leAt (b : List Byte) (o n : Nat) : Nat := bytesNat ((b.drop o).take n)

/-- Whether bytes `o` to `o + n − 1` of a list are all zero. -/
def zeroAt (b : List Byte) (o n : Nat) : Bool := ((b.drop o).take n).all (· == 0)

/-! ## The match-and-replace table (R330) -/

/-- An entry: MASK, MATCH and the substitute words. -/
structure MrtEntry where
  (mask matchv : DWord)
  subs : List DWord
  deriving DecidableEq, Repr

/-- COUNT of a table image. -/
def mrtCount (b : List Byte) : Nat := leAt b 4 2

/-- Entry `i` of a table image; its substitute words end before the first zero word. -/
def mrtEntry (b : List Byte) (i : Nat) : MrtEntry :=
  let w := fun k => BitVec.ofNat 64 (leAt b (64 + 48 * i + 8 * k) 8)
  ⟨w 0, w 1, [w 2, w 3, w 4, w 5].takeWhile (· != 0)⟩

/-- The rules of an entry: SUB0 is nonzero, every word after the first zero word is zero, MATCH lies inside MASK. -/
def mrtEntryOk (b : List Byte) (i : Nat) : Bool :=
  let e := mrtEntry b i
  !e.subs.isEmpty && zeroAt b (64 + 48 * i + 16 + 8 * e.subs.length) (32 - 8 * e.subs.length) && (e.matchv &&& ~~~e.mask) == 0

/-- Bytes of a table image's header and entries, and of its signature. -/
def mrtBody (b : List Byte) : List Byte := b.take (64 + 48 * mrtCount b)
abbrev sigBytes : Nat := 29792

/-- A table image that the reeve accepts: MAGIC, COUNT, reserved bytes, entry rules, signature. -/
def mrtOk (b : List Byte) : Bool :=
  let n := mrtCount b
  b.take 4 == [0x4F, 0x54, 0x4D, 0x52] && n ≤ 64 && zeroAt b 8 56 && b.length = 64 + 48 * n + sigBytes &&
    (List.range n).all (mrtEntryOk b) && Config.signatureOk (mrtBody b) (b.drop (64 + 48 * n))

/-- The substitute words for an instruction word: of the lowest-numbered entry that selects it (R45, R330). -/
def State.substitutes (s : State) (w : DWord) : Option (List DWord) :=
  (List.range (mrtCount s.mrt)).findSome? fun i =>
    let e := mrtEntry s.mrt i
    if (w &&& e.mask) = e.matchv then some e.subs else none

/-- LEVELS of the loaded table (R326). -/
def State.mrtLevel (s : State) (k : Nat) : Bool := k < 16 && (leAt s.mrt 6 2).testBit k

/-- A context of nonzero colour has a team placed on the device (R331). -/
def State.tenantRuns (s : State) : Bool := s.teams.any fun t => (s.ctx t.2.ctx).colour ≠ 0

/-- MRTLOAD at issue (R331): the checks of the header; then the lane set sleeps until the reeve answers. -/
def mrtloadOnce (f : FmtT) (s : State) (l : Nat) : State × LaneRes :=
  let q := s.quad l f.a
  match s.accPre (s.laneColour l) q accData Perm.ld (Cap.ofQuad q.1).cur 64 64 false with
  | .error e => (s, .error e)
  | .ok _ =>
    let (n, s1) := s.takeNum
    let w : Waiter := ⟨groupOf l, posOf l, lanesMask ((s.guardTrue f.g).map posOf), f.d, f.b, [], s.laneCtx l, false⟩
    ({ s1 with jobs := s1.jobs.set n ⟨w, .mrt q, [], none⟩ }, .ok [.sleep (.reeve n)])

def execMrtload (f : FmtT) (s : State) : Res := onceInstr (.mrtload f) (mrtloadOnce f) s

/-! ## Choosing an image (R324 to R327) -/

/-- An image table entry. -/
structure ImgEntry where
  (nkern ktab isize ioff feat rev level : Nat)
  ok : Bool
  deriving DecidableEq, Repr

/-- The entry at offset `o` of an object of `size` bytes, and whether it is well formed (R325). -/
def imgEntry (b : List Byte) (size o : Nat) : ImgEntry :=
  let nkern := leAt b (o + 28) 2
  let ktab := leAt b (o + 24) 4
  let isize := leAt b (o + 16) 8
  let ioff := leAt b (o + 8) 8
  { nkern := nkern
    ktab := ktab
    isize := isize
    ioff := ioff
    feat := leAt b (o + 4) 4
    rev := leAt b (o + 2) 2
    level := leAt b o 1
    ok := zeroAt b (o + 1) 1 && zeroAt b (o + 30) 2 && 1 ≤ nkern && nkern ≤ 4096 && ktab % 128 = 0 && ioff % 128 = 0 &&
      ioff + isize ≤ size && ktab + 128 * nkern ≤ isize }

/-- The header of a fat code object breaks R324 or lies outside the object (R327). -/
def objMalformed (b : List Byte) : Bool :=
  let size := leAt b 16 8
  let nimg := leAt b 6 2
  let itab := leAt b 8 8
  !(64 ≤ b.length && b.take 4 == [0x4F, 0x54, 0x58, 0x46] && leAt b 4 2 = 1 && 1 ≤ nimg && nimg ≤ 64 && itab % 8 = 0 &&
    zeroAt b 24 40 && size ≤ b.length && itab + 32 * nimg ≤ size)

/-- The device's features, bits 0 to 5, and whether an image needs no other (R325, R326). -/
def featuresOk (e : ImgEntry) : Bool := e.feat < 64

/-- The entry of a list with the largest measure, the first of them on a tie. -/
def maxBy {α : Type} (f : α → Nat) : List α → Option α
  | [] => none
  | a :: t => match maxBy f t with
    | none => some a
    | some b => some (if f b ≤ f a then a else b)

/-- The image that the loader selects (R326): none of a revision above the device's, of whatever level. -/
def State.selectImage (s : State) (es : List ImgEntry) : Option ImgEntry :=
  let ok := es.filter fun e => e.ok && featuresOk e
  let rev := Config.revision.toNat
  let l1 := ok.filter fun e => e.level = 1
  match l1.find? fun e => e.rev = rev with
  | some e => some e
  | none => match maxBy (·.rev) (l1.filter fun e => e.rev < rev) with
    | some e => some e
    | none => maxBy (·.rev) (ok.filter fun e => e.level = 0 && e.rev ≤ rev && s.mrtLevel 0)

/-! ## Kernel descriptors (R328) -/

/-- A descriptor of 128 bytes. A kernel without `.role` has one role whose group count is zero (log entry 35); its register
byte counts as any role's does. -/
def kdesc (b : List Byte) : KDesc :=
  let f := leAt b 22 1
  { entry := leAt b 0 8
    base := 8 * leAt b 16 1
    ext := 8 * leAt b 17 1
    padKb := leAt b 18 2
    nbar := leAt b 20 1
    roles := (List.range (leAt b 21 1)).map fun k =>
      (leAt b (24 + 2 * k) 1, let r := leAt b (25 + 2 * k) 1; 8 * (if r = 0 then leAt b 16 1 else r))
    fused := f.testBit 0
    inherit := f.testBit 1
    inhLo := leAt b 32 1
    inhHi := leAt b 33 1
    carry := BitVec.ofNat 256 (leAt b 64 32) }

/-- A kernel declares no role. -/
def KDesc.noRole (k : KDesc) : Bool := match k.roles with | [(0, _)] => true | _ => false

/-- A descriptor keeps R328, in an image of `isize` bytes. -/
def kdescOk (b : List Byte) (isize : Nat) : Bool :=
  let k := kdesc b
  let n := k.roles.length
  let blocks := k.roles.map Prod.snd
  zeroAt b 23 1 && zeroAt b 34 30 && zeroAt b 96 32 && leAt b 22 1 < 4 && k.entry % 8 = 0 && k.entry < isize &&
    8 ≤ k.base && k.base ≤ 256 && k.ext ≤ 248 && 1 ≤ k.padKb && k.padKb ≤ 1024 && k.nbar ≤ 16 && 1 ≤ n && n ≤ 4 &&
    zeroAt b (24 + 2 * n) (8 - 2 * n) &&
    (k.noRole || (k.roles.all fun r => 1 ≤ r.1 && r.1 ≤ 64)) && sumBy Prod.fst k.roles ≤ 64 &&
    blocks.all (fun r => r + k.ext ≤ 256 && k.carry.toNat < 2 ^ r) &&
    (!k.inherit || (k.inhLo ≤ k.inhHi && blocks.all fun r => k.inhHi < r))

/-! ## Placing an image (R329) -/

/-- A FREE local frame that is no spare. -/
def State.frameFree (s : State) (g : Nat) : Bool := Fst.state (frameEntry s.frames g) = Fst.free && !s.spares.contains g

/-- A kernel record is named by an address in some frames: no other image may lie there while the record lives (R329). -/
def State.namesKernel (s : State) (g n : Nat) : Bool :=
  s.records.any fun p => frameAddr g ≤ p.2.addr && p.2.addr < frameAddr (g + n)

/-- Contiguous FREE frames; the manual leaves their choice to the loader (log entry 36). -/
def State.freeRun (s : State) (n : Nat) : Option Nat :=
  let start := Config.pick s.tick % 393216
  ((List.range 393216).map fun i => (i + start) % 393216).find? fun g =>
    g + n ≤ 393216 && ((List.range n).all fun i => s.frameFree (g + i)) && !s.namesKernel g n

/-- The image copied to frames from `g` on, which become OWNED; the rest of them is zero. -/
def State.placeImage (s : State) (g n colour : Nat) (img : List Byte) : State :=
  let s1 := s.zeroRange (frameAddr g) (n * 0x200000)
  let s2 := { s1 with mem := s1.mem.setBytes (frameAddr g) img }
  (List.range n).foldl (fun s i => s.setEntry (g + i) (Fst.mk 0 0 0 false false colour Fst.owned)) s2

/-- CALIGN.rlen of a length (R102). -/
def rlen (n : Nat) : Nat := let e := expFor n; (n + 2 ^ e - 1) / 2 ^ e * 2 ^ e

/-- A kernel record's slot that is not in use. -/
def State.freeRecord (s : State) : Option Nat := (List.range 4096).find? fun k => (s.records.get? k).isNone

/-- The next version number: 32 bits, not zero, of no version that the device holds (R332). -/
def State.nextVer (s : State) : Nat :=
  (((List.range (s.vers.length + 1)).map fun i => (s.lastVer + i) % 0xFFFFFFFF + 1).find? fun v => (s.vers.get? v).isNone).getD 0

/-- One kernel registered (R329, R332): a record, a new code version that is CURRENT, and the kernel capability. -/
def State.register (s : State) (c colour base isize frames desc : Nat) (k : KDesc) : State × Option Quad :=
  match s.freeRecord with
  | none => (s, none)
  | some r =>
    let v := s.nextVer
    let cap := Cap.make Kind.code colour Perm.exec base (rlen isize) desc
    let x : KVer := ⟨.current, r, c, colour, base, base + frames * 0x200000, cap, k, none⟩
    ({ s with records := s.records.set r ⟨desc, v⟩, vers := s.vers.set v x, lastVer := v }, some cap)

/-- The launch key ID of a context, which the image of a saved one holds. -/
def State.launchKeyId (s : State) (c : Nat) : Nat :=
  match (s.ctx c).state, s.images.get? c with
  | .saved, some m => m.ctx.keyId
  | _, _ => (s.ctx c).keyId

/-- A kernel capability sealed for the host under the launch key of its context (R337). -/
def State.launchBlob (s : State) (c : Nat) (cap : Quad) : BitVec 256 :=
  let id := s.launchKeyId c
  sealBlob (Config.launchKey c id) (blobHeader s.parish s.parish id c) cap

/-- The load of an object for a context: the state, the status of R327 and the blobs of the kernels in order. -/
def State.load (s : State) (c : Nat) (b : List Byte) : State × Nat × List (BitVec 256) :=
  if objMalformed b then (s, 1, [])
  else match s.selectImage ((List.range (leAt b 6 2)).map fun i => imgEntry b (leAt b 16 8) (leAt b 8 8 + 32 * i)) with
    | none => (s, 2, [])
    | some e =>
      let img := (b.drop e.ioff).take e.isize
      let descs := (List.range e.nkern).map fun k => (img.drop (e.ktab + 128 * k)).take 128
      let n := (e.isize + 0x1FFFFF) / 0x200000
      if !descs.all (kdescOk · e.isize) then (s, 3, [])
      else match (if s.records.length + e.nkern ≤ 4096 then s.freeRun n else none) with
        | none => (s, 4, [])
        | some g =>
          let colour := (s.ctx c).colour
          let base := frameAddr g
          let step := fun (p : State × List (BitVec 256)) (k : Nat) =>
            match p.1.register c colour base e.isize n (base + e.ktab + 128 * k) (kdesc (descs.getD k [])) with
            | (s, some cap) => (s, p.2 ++ [s.launchBlob c cap])
            | (s, none) => (s, p.2)
          let (s1, blobs) := (List.range e.nkern).foldl step (s.placeImage g n colour img, [])
          (s1, 0, blobs)

/-- A context that exists. -/
def Ctx.exists (x : Ctx) : Bool := x.state ≠ .free && x.state ≠ .resetting

/-- LOAD_CODE_OBJECT (R327). -/
def execLoadCodeObject (ctx : Nat) (obj : List Byte) (s : State) : Res :=
  if (s.ctx ctx).exists then
    let (s1, st, blobs) := s.load ctx obj
    .next (s1.send (.loaded ctx st blobs))
  else skipEvent s

/-! ## Code versions (R332) -/

/-- A wave is bound to a version: a launch on this device, or in the image of a saved context, whose teams are not all
retired. -/
def State.waveBound (s : State) (v : Nat) : Bool :=
  let bound := fun (ls : Tbl Launch) (ts : Tbl Team) =>
    ls.any (fun p => p.2.ver = v && p.2.state ≠ .ended) || ts.any fun p => p.2.ver = v
  bound s.launches s.teams || s.images.any fun m => bound m.2.launches m.2.work.teams

/-- Another version that is not FREED lies in the frames of an image. -/
def State.imageShared (s : State) (v : Nat) (x : KVer) : Bool :=
  s.vers.any fun p => p.1 ≠ v && p.2.imgBase = x.imgBase && p.2.state ≠ .freed

/-- A version becomes FREED: its frames go to QUARANTINE once no version needs them (log entry 37). -/
def State.freeVersion (s : State) (v : Nat) : State :=
  match s.vers.get? v with
  | none => s
  | some x =>
    let s1 := { s with vers := s.vers.set v { x with state := .freed } }
    if s1.imageShared v x then s1
    else
      (List.range ((x.imgTop - x.imgBase) / 0x200000)).foldl (fun s i =>
        let g := liveFrame s.frames (x.imgBase / 0x200000 + i)
        let e := frameEntry s.frames g
        if (Fst.state e = Fst.owned || Fst.state e = Fst.shared) && Fst.colour e = x.colour then s.quarantine g e else s) s1

/-- A SUPERSEDED version whose last wave has retired is FREED. -/
def State.settleVersion (s : State) (v : Nat) : State :=
  match s.vers.get? v with
  | some x => if x.state = .superseded && !s.waveBound v then s.freeVersion v else s
  | none => s

/-- Waves have gone without retiring: every SUPERSEDED version that has none left is FREED. -/
def State.settleVersions (s : State) : State := (s.vers.map Prod.fst).foldl State.settleVersion s

/-- A CURRENT version loses its record. -/
def State.supersede (s : State) (v : Nat) : State :=
  ({ s with vers := s.vers.modify v fun x => { x with state := .superseded } }).settleVersion v

/-- KERNEL_RECORD_RELEASE (R332). -/
def execKernelRecordRelease (record : Nat) (s : State) : Res :=
  match s.records.get? record with
  | some r => .next (({ s with records := s.records.erase record }).supersede r.ver)
  | none => skipEvent s

/-- The record that a kernel capability names, by the address of the descriptor with which it was made; no two that live share one. -/
def State.recordAt (s : State) (a : Nat) : Option (Nat × KRec) := s.records.find? fun p => p.2.addr = a

/-- The access check of a kernel capability. -/
def State.kernelAccess (s : State) (l : Nat) (q : Quad × Bool) : Option Flt :=
  checkAccess q (s.laneColour l) accExec Perm.exec (Cap.ofQuad q.1).cur 128

/-- The checks of a kernel capability (R333, R336). -/
def State.kernelCheck (s : State) (l : Nat) (q : Quad × Bool) : Except Flt Nat :=
  let c := Cap.ofQuad q.1
  match s.kernelAccess l q with
  | some e => .error e
  | none => if c.cur % 128 = 0 then .ok c.cur else .error ⟨Code.align, addrInfo c.cur, 0, 0⟩

/-- A's record takes B's version; B's own record is released. -/
def State.versionNew (s : State) (a b : Nat × KRec) : State :=
  let recs := (s.records.erase b.1).set a.1 { a.2 with ver := b.2.ver }
  ({ s with records := recs, vers := s.vers.modify b.2.ver fun x => { x with record := a.1 } }).supersede a.2.ver

/-- CVERNEW (R333): both access checks come before the alignment of either cursor. -/
def cvernewOnce (f : FmtT) (s : State) (l : Nat) : State × LaneRes :=
  match s.kernelAccess l (s.quad l f.a), s.kernelAccess l (s.quad l f.b), s.kernelCheck l (s.quad l f.a),
      s.kernelCheck l (s.quad l f.b) with
  | some e, _, _, _ => (s, .error e)
  | none, some e, _, _ => (s, .error e)
  | _, _, .error e, _ => (s, .error e)
  | _, _, .ok _, .error e => (s, .error e)
  | _, _, .ok a, .ok b =>
    match s.recordAt a with
    | none => (s, okReg f.d 1)
    | some ra => match s.recordAt b with
      | none => (s, okReg f.d 2)
      | some rb =>
        let colour := fun (r : KRec) => match s.vers.get? r.ver with | some v => v.colour | none => 0
        if ra.1 = rb.1 || colour ra.2 ≠ colour rb.2 then (s, okReg f.d 2)
        else (s.versionNew ra rb, okReg f.d 0)

def execCvernew (f : FmtT) (s : State) : Res := onceInstr (.cvernew f) (cvernewOnce f) s

end Sys2Proof.Machine
end

