-- ==== Sys2Proof/Machine/Launch.lean ====
section
/-! DEFINITION. Launches (R334 to R344): LAUNCH, host launch messages, the launch queue and its levels, placement, launches on
several devices, retirement and the end of a launch. -/

namespace Sys2Proof.Machine

/-! ## The launch block (R335) -/

/-- Group count and registers of each role, for a number of threads (R335); a kernel without roles takes its groups from
the launch. -/
def KDesc.shape (k : KDesc) (threads : Nat) : List (Nat × Nat) :=
  if k.noRole then [((threads + 63) / 64, ((k.roles.head?.map Prod.snd).getD k.base))] else k.roles

/-- Groups of a team. -/
def groupsOf (roles : List (Nat × Nat)) : Nat := sumBy Prod.fst roles

/-- Octs of the base blocks of a team (R203). -/
def octsOf (roles : List (Nat × Nat)) : Nat := sumBy (fun r => r.1 * (r.2 / 8)) roles

/-- The launch block as its words give it. -/
structure Block where
  (nx ny nz threads prio comm ndev : Nat)
  (multi fused reserved : Bool)
  deriving DecidableEq, Repr

def Block.ofWords (w : List Word) : Block :=
  let f := w.getD 3 0
  { nx := (w.getD 0 0).toNat
    ny := (w.getD 1 0).toNat
    nz := (w.getD 2 0).toNat
    threads := (w.getD 4 0).toNat
    prio := (f.extractLsb' 0 3).toNat
    comm := (f.extractLsb' 16 12).toNat
    ndev := (f.extractLsb' 10 6).toNat + 1
    multi := f.getLsbD 4
    fused := f.getLsbD 3
    reserved := f.extractLsb' 28 4 != 0 || f.extractLsb' 5 5 != 0 }

/-- The rules of R335 that need no kernel. -/
def Block.ok (b : Block) : Bool :=
  let n := fun x => 1 ≤ x && x ≤ 65535
  n b.nx && n b.ny && n b.nz && !b.reserved

/-- The rule of R335 on THREADS for a kernel. -/
def Block.threadsOk (b : Block) (k : KDesc) : Bool :=
  let g := groupsOf (k.shape b.threads)
  if b.threads = 0 then !k.noRole else 64 * (g - 1) < b.threads && b.threads ≤ 64 * g

/-! ## Where a team fits (R338) -/

/-- The KiB of a pad that a context's banks hold and no team uses. -/
def State.padFree (s : State) (c core kib : Nat) : Bool :=
  s.holdsPad c core (kib * 1024) &&
    !s.teams.any fun p => p.2.core = core && p.2.padOff ≤ kib * 1024 && kib * 1024 < p.2.padOff + p.2.padLen

/-- The lowest offset in KiB of a free run of pad. -/
def State.padRun (s : State) (c core n : Nat) : Option Nat :=
  (List.range 1024).find? fun o => o + n ≤ 1024 && (List.range n).all fun i => s.padFree c core (o + i)

/-- Group slots of a core that hold a team. -/
def State.occupied (s : State) (core : Nat) : List Nat := (List.range 64).filter fun g => s.teamOf (core * 64 + g) ≠ 0

/-- A cluster can run fused for a context now (R264, R338). -/
def State.fusible (s : State) (c cluster : Nat) : Bool :=
  s.clusterOwned c cluster &&
    ((s.ctx c).fused.contains cluster || !s.teams.any fun p => p.2.ctx = c && p.2.core / 8 = cluster)

/-- A team of a shape fits on a core. Banks lent to spill leases count as free, since the lender takes them back when it needs them
for a launch (R209; log entry 86). -/
def State.fits (s : State) (c core : Nat) (roles : List (Nat × Nat)) (padKb : Nat) (fused : Bool) : Bool :=
  match (s.ctx c).alloc.get? core with
  | none => false
  | some a =>
    a.member && !a.drain && !a.moving && (s.ctxGroups c core).length + groupsOf roles ≤ a.quota &&
      (s.occupied core).length + groupsOf roles ≤ 64 && octsOf roles ≤ s.octsCould c core && (s.padRun c core padKb).isSome &&
      (!fused || s.fusible c (core / 8))

/-- A team of a shape could fit on a core of the context with nothing else on it. -/
def State.everFits (s : State) (c core : Nat) (roles : List (Nat × Nat)) (padKb : Nat) (fused : Bool) : Bool :=
  match (s.ctx c).alloc.get? core with
  | none => false
  | some a =>
    let held := fun kib => a.pbanks.getLsbD (kib / 64)
    a.member && groupsOf roles ≤ a.quota && octsOf roles ≤ s.octsHeld c core &&
      (List.range 1024).any (fun o => o + padKb ≤ 1024 && (List.range padKb).all fun i => held (o + i)) &&
      (!fused || s.clusterOwned c (core / 8))

/-! ## The launch queue (R313, R339) -/

def State.levelOf (s : State) (n : Nat) : Nat := (s.launch n).level

/-- The queue with its head first and the others in order of acceptance. A head stays before entries of its own level; where
it does not stay, the oldest entry of the highest level is the head. -/
def State.orderQueue (s : State) (lq : List Nat) (stays : Bool) : List Nat :=
  let top := lq.foldl (fun m n => max m (s.levelOf n)) 0
  let byAge := sortBy (fun a b => a ≤ b) lq
  let first := byAge.find? fun n => s.levelOf n = top
  let h := match lq with
    | h :: _ => if stays && s.levelOf h = top then some h else first
    | [] => none
  match h with
  | some h => h :: byAge.erase h
  | none => []

def State.setQueueOf (s : State) (c : Nat) (lq : List Nat) (stays : Bool) : State :=
  s.modCtx c fun x => { x with lq := s.orderQueue lq stays }

/-- An entry leaves its queue. -/
def State.unqueue (s : State) (n : Nat) : State :=
  let c := (s.launch n).ctx
  let lq := (s.ctx c).lq
  s.setQueueOf c (lq.erase n) (lq.head? ≠ some n)

/-- When the next rise of a queued entry's level falls due. -/
def State.ageDue (s : State) (n : Nat) : Bool :=
  let l := s.launch n
  (s.ctx l.ctx).lq.contains n && l.level < 7 && l.queuedAt + 1048576 * (l.level - l.prio + 1) ≤ s.now

/-- LAUNCH_LEVEL_AGE (R339). -/
def execLaunchLevelAge (launch : Nat) (s : State) : Res :=
  if !s.ageDue launch then skipEvent s
  else
    let s1 := s.modLaunch launch fun l => { l with level := l.level + 1 }
    let c := (s.launch launch).ctx
    .next (s1.setQueueOf c (s1.ctx c).lq true)

/-! ## Accepting an entry (R336, R341) -/

/-- What an entry is made from: context, issuing core, kernel record, arguments, completion capability, block, cookie. -/
structure Request where
  (ctx core : Nat)
  kernel : Option (Nat × KRec)
  args : Quad × Bool
  comp : Option (Quad × Bool)
  block : Block
  cookie : Nat
  deriving DecidableEq, Repr

/-- The version that a record points at. -/
def State.versionOf (s : State) (k : Option (Nat × KRec)) : Option (Nat × KVer) :=
  k.bind fun r => (s.vers.get? r.2.ver).map fun v => (r.2.ver, v)

/-- This device's rank in the communicator of a block, when the launch of R341 can go to it. -/
def State.multiRank (s : State) (r : Request) : Option Nat :=
  match s.comms.get? r.block.comm with
  | some m =>
    let k := m.ranks.findIdx fun x => x = (s.parish, r.ctx)
    if !m.ended && k < m.ranks.length && r.block.ndev ≤ m.ranks.length && k < r.block.ndev &&
        (!r.args.2 || (Cap.ofQuad r.args.1).len ≤ 4096) then some k else none
  | none => none

/-- The status of R336. -/
def State.launchStatus (s : State) (r : Request) : Nat :=
  if !r.block.ok then 2
  else match s.versionOf r.kernel with
    | none => 3
    | some (_, v) =>
      let roles := v.desc.shape r.block.threads
      let fused := r.block.fused || v.desc.fused
      if !r.block.threadsOk v.desc then 2
      else if !(s.ctx r.ctx).coreSet.any (fun k => s.everFits r.ctx k roles v.desc.padKb fused) then 3
      else if r.block.multi && (s.multiRank r).isNone then 4
      else if 256 ≤ (s.ctx r.ctx).lq.length then 1
      else 0

/-- A byte of an argument block as the context reads it now; one that another device holds is not known here (log
entry 5). -/
def State.peek (s : State) (c core colour a : Nat) : Byte :=
  match s.accPlace c core colour a 1 false false true with
  | .ok (.go p _) => s.mem.byte p
  | .ok (.host h) => s.hostMem.byte h
  | .ok .zero => 0
  | _ => (Config.freeWord (s.tick * 2 ^ 64 + a)).setWidth 8

/-- Argument bytes copied into the argument area of a context, at its lowest 4 KiB place that no launch uses (R337; log
entry 39): the capability for sq0. -/
def State.copyArgs (s : State) (c : Nat) (bytes : List Byte) : State × Quad :=
  let x := s.ctx c
  let at_ := fun k => x.area + 4096 * k
  let used := fun k => s.launches.any fun p =>
    p.2.ctx = c && p.2.state ≠ .ended && p.2.args.2 && (Cap.ofQuad p.2.args.1).base = (at_ k : Nat)
  let a := at_ (((List.range (s.launches.length + 1)).find? fun k => !used k).getD 0)
  (s.storeBytes (s.homeAddr a) bytes,
    Cap.make Kind.data x.colour (Perm.ld ||| Perm.glob ||| Perm.cache) a (max 1 bytes.length) a)

/-- The team indices of rank `k` of `n`, of `t` in all (R341). -/
def rankRange (t k n : Nat) : Nat × Nat := (k * t / n, (k + 1) * t / n)

/-- The entry of a request, not MULTI. -/
def State.newEntry (s : State) (r : Request) (v gen : Nat) : Launch :=
  { Launch.empty with
    ctx := r.ctx
    gen := gen
    ver := v
    core := r.core
    args := (r.args.1, s.filtered r.args.1 r.args.2)
    comp := r.comp.map fun q => (q.1, s.filtered q.1 q.2)
    nx := r.block.nx
    ny := r.block.ny
    nz := r.block.nz
    threads := r.block.threads
    prio := r.block.prio
    fused := r.block.fused
    state := .queued
    hi := r.block.nx * r.block.ny * r.block.nz
    queuedAt := s.now
    level := r.block.prio
    issuer := s.parish
    issuerCtx := r.ctx
    cookie := r.cookie }

/-- An entry put into its context's queue. -/
def State.enqueue (s : State) (l : Launch) : State :=
  let (n, s1) := s.takeNum
  let s2 := s1.setLaunch n l
  s2.setQueueOf l.ctx ((s2.ctx l.ctx).lq ++ [n]) true

/-- The next generation (R336). -/
def nextGen (g : Nat) : Nat := if g = 0xFFFFFFFF then 1 else g + 1

/-- The ranks of a MULTI launch other than this device's. -/
def State.otherRanks (s : State) (l : Launch) : List (Nat × Nat × Nat) :=
  match s.comms.get? l.comm with
  | some m => ((List.range l.ndev).zip m.ranks).filter fun x => x.1 ≠ l.rank
  | none => []

/-- A message of R341 from a context to a rank. -/
def State.tell (s : State) (peer : Nat) (msg : LaunchMsg) (srcCtx ctx gen : Nat) : State :=
  s.sendBody peer (.launch msg srcCtx ⟨ctx, gen⟩)

/-- A message from the issuing rank of a MULTI launch to every other rank. -/
def State.tellOthers (s : State) (l : Launch) (msg : LaunchMsg) : State :=
  (s.otherRanks l).foldl (fun s x => s.tell x.2.1 msg l.ctx x.2.2 l.gen) s

/-- The entry sent to the other ranks (R341, step 1). -/
def State.sendEntries (s : State) (l : Launch) (record : Nat) (block : List Word) (args : List Byte) : State :=
  (s.otherRanks l).foldl (fun s x => s.sendBody x.2.1 (.entry ⟨s.parish, l.ctx, l.gen, x.2.2, x.1, l.ndev, record, block, args⟩)) s

/-- A request accepted (R336): the entry is queued with its generation and bound to the current version. The argument block
of a MULTI launch is copied for each rank, this one too (log entry 40). -/
def State.accept (s : State) (r : Request) (v : Nat) (words : List Word) : State :=
  let g := (s.ctx r.ctx).gen
  let s1 := s.modCtx r.ctx fun x => { x with gen := nextGen x.gen }
  let e := s.newEntry r v g
  match (if r.block.multi then s.multiRank r else none) with
  | none => s1.enqueue e
  | some k =>
    let c := Cap.ofQuad r.args.1
    let bytes := if r.args.2 then
        (List.range c.len).map fun i => s1.peek r.ctx r.core (s1.ctx r.ctx).colour (c.base.toNat + i)
      else []
    let (s2, q) := if r.args.2 then s1.copyArgs r.ctx bytes else (s1, r.args.1)
    let (lo, hi) := rankRange e.hi k r.block.ndev
    let e2 := { e with
      args := (q, r.args.2)
      comm := r.block.comm
      ndev := r.block.ndev
      rank := k
      multi := true
      lo := lo
      hi := hi
      next := lo }
    (s2.enqueue e2).sendEntries e2 ((r.kernel.map Prod.fst).getD 0) words bytes

/-! ## LAUNCH and host launch messages (R334, R336, R337) -/

/-- The capability checks of LAUNCH, in order: the descriptor's address. -/
def launchCheck (f : FmtT) (s : State) (l : Nat) : Except Flt Nat :=
  let b := s.quad l f.b
  let d := s.quad l f.d
  let cb := Cap.ofQuad b.1
  let cd := Cap.ofQuad d.1
  match s.kernelCheck l (s.quad l f.a) with
  | .error e => .error e
  | .ok a =>
    match (if f.b.toNat = 0x140 then none else checkAccess b (s.laneColour l) accLocal Perm.ld cb.cur 1) with
    | some e => .error e
    | none =>
      if f.b.toNat ≠ 0x140 && !cb.has Perm.glob then .error (cursorFlt Code.capLocal cb)
      else if f.d.toNat = 0x140 then .ok a
      else match checkAccess d (s.laneColour l) accLocal Perm.st cd.cur 8 with
        | some e => .error e
        | none => if cd.cur % 8 = 0 then .ok a else .error ⟨Code.align, addrInfo cd.cur, 0, 0⟩

/-- LAUNCH (R336): a release at .dev when it succeeds. Without an argument block sq0 is no capability (log entry 80). -/
def launchOnce (f : FmtT) (s : State) (l : Nat) : State × LaneRes :=
  match launchCheck f s l with
  | .error e => (s, .error e)
  | .ok a =>
    let c := s.laneCtx l
    let words := (List.range 5).map fun k => s.reg l f.c k
    let r : Request :=
      { ctx := c
        core := s.cur.core
        kernel := s.recordAt a
        args := if f.b.toNat = 0x140 then (0, false) else s.quad l f.b
        comp := if f.d.toNat = 0x140 then none else some (s.quad l f.d)
        block := Block.ofWords words
        cookie := 0 }
    let st := s.launchStatus r
    match st, s.versionOf r.kernel with
    | 0, some (v, _) =>
      let s1 := s.flushAll (s.unitOf c s.cur.core) c
      (s1.accept r v words, .ok [.rw (.reg f.c 5 0), .rw (.reg f.c 6 (BitVec.ofNat 32 (s.ctx c).gen))])
    | _, _ => (s, .ok [.rw (.reg f.c 5 (BitVec.ofNat 32 st))])

def execLaunch (f : FmtT) (s : State) : Res := onceInstr (.launch f) (launchOnce f) s

/-- The payload of LAUNCH_DONE (R315). -/
def launchPayload (gen code cookie : Nat) (full : Bool) : BitVec 176 :=
  BitVec.ofNat 32 gen ++ BitVec.ofNat 8 code ++ BitVec.ofNat 64 cookie ++ (if full then Code.queueFault else 0) ++ 0#64

/-- The tag of a host launch message (R337). -/
def hostTag (c keyId : Nat) (b : List Byte) (n : Nat) : List Byte :=
  gcmTag (Config.launchKey c keyId) ((b.drop 52).take 4 ++ (b.drop 64).take 8) (b.take (72 + n))

/-- The kernel record that a host message's blob names, by the rules of R104 as R337 changes them. -/
def State.hostKernel (s : State) (c : Nat) (b : List Byte) : Option (Nat × KRec) :=
  let x := s.ctx c
  let blob := BitVec.ofNat 256 (leAt b 0 32)
  let ok := (blob.extractLsb' 236 10).toNat = s.parish && blob.extractLsb' 192 20 == 0 &&
    (blob.extractLsb' 224 12).toNat = x.keyId && (blob.extractLsb' 212 12).toNat = c
  match (if ok then openBlob (Config.launchKey c x.keyId) blob else none) with
  | none => none
  | some q =>
    let k := Cap.ofQuad q
    if k.colour = x.colour && (checkAccess (q, true) x.colour accExec Perm.exec k.cur 128).isNone && k.cur % 128 = 0 then
      s.recordAt k.cur
    else none

/-- HOST_LAUNCH_MESSAGE (R337). A blob or capability that fails gives status 3, nonzero bytes 56 to 59 status 2 (log
entry 42); one to a SAVED context returns full (R349; log entry 87). One with ARGLEN 0 gives sq0 no capability (log entry 80). -/
def execHostLaunchMessage (msg : List Byte) (s : State) : Res :=
  let c := leAt msg 52 4
  let n := leAt msg 60 4
  let x := s.ctx c
  let runs := x.state = .active || x.state = .gated
  if !((runs || x.state = .saved) && n ≤ 1024 && msg.length = 88 + n &&
      hostTag c (s.launchKeyId c) msg n = msg.drop (72 + n)) then
    .next { s with discarded := s.discarded + 1 }
  else if !runs then .next (s.post c Ev.launchDone 2 (launchPayload 0 1 (leAt msg 64 8) true) srcHost)
  else
    let words := (List.range 5).map fun k => BitVec.ofNat 32 (leAt msg (32 + 4 * k) 4)
    let cookie := leAt msg 64 8
    let r : Request :=
      { ctx := c
        core := 0
        kernel := s.hostKernel c msg
        args := (0, false)
        comp := none
        block := Block.ofWords words
        cookie := cookie }
    let st := if !zeroAt msg 56 4 then 2 else s.launchStatus r
    match st, s.versionOf r.kernel with
    | 0, some (v, _) =>
      let (s1, q) := s.copyArgs c ((msg.drop 72).take n)
      .next (s1.accept { r with args := (q, 0 < n) } v words)
    | _, _ => .next (s.post c Ev.launchDone 2 (launchPayload 0 st cookie (st = 1)) srcHost)

/-! ## Placement (R340) -/

/-- The group slot that a new group takes. -/
def nextSlot (occ : List Nat) : Option Nat :=
  let count := fun k => (occ.filter fun g => g % 4 = k).length
  match minBy count ((List.range 4).filter fun k => count k < 16) with
  | some k => ((List.range 16).map fun i => 4 * i + k).find? fun g => !occ.contains g
  | none => none

/-- The group slots of `n` groups in order. -/
def takeSlots : Nat → List Nat → List Nat
  | 0, _ => []
  | n + 1, occ => match nextSlot occ with
    | some g => g :: takeSlots n (g :: occ)
    | none => []

/-- The role of each group, in group-number order (R11). -/
def groupRoles (roles : List (Nat × Nat)) : List Nat :=
  (List.range roles.length).flatMap fun r => List.replicate ((roles.getD r (0, 0)).1) r

/-- An L1 is written back and emptied for a context (R264). -/
def State.emptyL1 (s : State) (u c : Nat) : State :=
  let s1 := s.flushAll u c
  { s1 with l1 := s1.l1.filter fun l => !(l.unit = u && l.ctx = c) }

/-- Fusion begins or ends in a cluster where no team of the context runs (R264; log entry 38). -/
def State.setFusion (s : State) (c cluster : Nat) (on : Bool) : State :=
  let is := (s.ctx c).fused.contains cluster
  let busy := s.teams.any fun p => p.2.ctx = c && p.2.core / 8 = cluster
  if is = on || busy then s
  else
    let s1 :=
      if on then (List.range 8).foldl (fun s k => s.emptyL1 (cluster * 8 + k) c) s else s.emptyL1 (2048 + cluster) c
    s1.modCtx c fun x => { x with fused := putNat x.fused cluster on }

/-- The pad root of a team (R92). -/
def State.padRoot (s : State) (c core off len : Nat) : Quad :=
  Cap.make Kind.pad (s.ctx c).colour
    (Perm.ld ||| Perm.st ||| Perm.ldc ||| Perm.stc ||| Perm.glob ||| Perm.atom ||| Perm.cache)
    (padBase + core * 0x100000 + off) len (padBase + core * 0x100000 + off)

/-- A thread at its launch (R130): inherited registers as handed over, with the load filter applied to their tags (R121,
R214). -/
def State.newLane (s : State) (tid : Nat) (entry : DWord) (snap : Option HandSnap) : Lane :=
  let h := snap.getD ⟨[], [], []⟩
  let quad := fun (q : Nat) =>
    let w := fun k => h.regs.getD (4 * q + k) (0 : Word)
    (w 3 ++ w 2 ++ w 1 ++ w 0 : Quad)
  { Lane.empty with
    state := .active
    pc := entry
    regs := h.regs
    tags := h.tags.filter fun q => s.filtered (quad q) true
    poison := h.poison
    tid := tid
    lastIssue := s.now }

/-- A group at its launch (R130). -/
def State.newGroup (s : State) (t number role prio index : Nat) (l : Launch) (root : Quad) : Group :=
  let g := { Group.empty with team := t, number := number, role := role, prio := prio, lastIssue := s.now }
  let g1 := (g.setQuad 0 l.args.1 (s.filtered l.args.1 l.args.2)).setQuad 1 root true
  [(8, index), (9, l.nx), (10, l.ny), (11, l.nz)].foldl (fun g p => g.setReg p.1 (BitVec.ofNat 32 p.2)) g1

/-- A team of a launch placed on a core that fits. -/
def State.placeTeam (s : State) (n core : Nat) (v : KVer) : State :=
  let l := s.launch n
  let c := l.ctx
  let roles := v.desc.shape l.threads
  let grps := groupsOf roles
  let threads := if l.threads = 0 then 64 * grps else l.threads
  let fused := l.fused || v.desc.fused
  let (t, s0) := (s.revoke c core (octsOf roles)).takeNum
  let s1 := s0.setFusion c (core / 8) fused
  let off := 1024 * (s1.padRun c core v.desc.padKb).getD 0
  let len := 1024 * v.desc.padKb
  let slots := takeSlots grps (s1.occupied core)
  let index := l.next
  let team : Team :=
    { Team.empty with
      ctx := c
      core := core
      launch := n
      index := index
      padOff := off
      padLen := len
      ver := l.ver
      nteam := (l.nx, l.ny, l.nz)
      roles := roles
      slots := slots
      held := l.multi && l.state ≠ .running }
  let root := s1.padRoot c core off len
  let snaps := l.hand.getD core []
  let entry := BitVec.ofNat 64 (v.imgBase + v.desc.entry)
  let s2 := (s1.zeroRange (padBase + core * 0x100000 + off) len).setTeam t team
  let put := fun (s : State) (g : Nat × Nat × Nat) =>
    let (number, gslot, role) := g
    let gk := core * 64 + gslot
    let s' := s.setGroup gk (s.newGroup t number role l.prio index l root)
    let s'' := (List.range 64).foldl (fun s p =>
      let tid := 64 * number + p
      if tid < threads then s.setLane (gk * 64 + p) (s.newLane tid entry (snaps.get? tid)) else s) s'
    s''.modISlot (core * 4 + gslot % 4) fun i =>
      { i with rotation := rotateBottom (fun g => (s''.group (core * 64 + g)).prio) i.rotation gslot }
  let s3 := ((List.range grps).zip (slots.zip (groupRoles roles))).foldl put s2
  let s4 := s3.modLaunch n fun l =>
    { l with
      next := l.next + 1
      live := l.live + 1
      lastCore := some core
      hand := l.hand.erase core
      state := if l.multi then l.state else .running }
  s4.discardClean (s4.unitOf c core) c

/-- The cores of a context in the order in which a launch's next team tries them (R339). -/
def State.searchOrder (s : State) (l : Launch) : List Nat :=
  let cores := (s.ctx l.ctx).coreSet
  match l.lastCore with
  | none => cores
  | some k => cores.filter (fun c => k < c) ++ cores.filter (fun c => c ≤ k)

/-- The core for the next team of a launch. -/
def State.nextCore (s : State) (l : Launch) : Option Nat :=
  match s.vers.get? l.ver with
  | none => none
  | some v =>
    (s.searchOrder l).find? fun k => s.fits l.ctx k (v.desc.shape l.threads) v.desc.padKb (l.fused || v.desc.fused)


/-! ## The end of a launch (R344) -/

/-- The engine view with which the completion record is written. -/
def State.recordEng (s : State) (n : Nat) (l : Launch) : Eng := ⟨l.core, l.ctx, (s.ctx l.ctx).colour, 0, n, []⟩

/-- Where the completion record goes, when it may be written now. -/
def State.recordAddr (s : State) (n : Nat) (l : Launch) : Except EngBad (Option (Nat × GateRes)) :=
  match l.comp with
  | none => .ok none
  | some q =>
    let e := s.recordEng n l
    match s.engineCheck e q accLocal Perm.st (Cap.ofQuad q.1).cur 8 true with
    | .error b => .error b
    | .ok a => match s.engineGate e (e.acc s q .store a 8) false with
      | .error b => .error b
      | .ok g => .ok (some (a, g))

/-- The completion record written, LAUNCH_DONE posted and the launch ENDED. A record whose address is refused is not
written. -/
def State.endLaunch (s : State) (n code : Nat) : State :=
  let l := s.launch n
  let word := BitVec.ofNat 32 l.gen ++ BitVec.ofNat 32 code
  let s1 := match l.comp, s.recordAddr n l with
    | some q, .ok (some (a, _)) => s.engineWrite (s.recordEng n l) q a 8 (word.setWidth 128) false false
    | _, _ => s
  let s2 := s1.post l.ctx Ev.launchDone 0 (launchPayload l.gen code l.cookie false) srcReeve
  (s2.modLaunch n fun l => { l with state := .ended, hand := [] }).settleVersion l.ver

/-- END of a launch whose teams here have retired. What other ranks of a MULTI launch report is not known here (log
entry 34). -/
def State.endCode (s : State) (l : Launch) : Nat :=
  match l.ending with
  | some c => c
  | none => if l.forced then 3 else if l.faulted then 2 else if l.multi && 1 < l.ndev then 1 + Config.pick s.tick % 3 else 1

/-- Every team of a launch on this device has retired. -/
def Launch.finished (l : Launch) : Bool := l.state = .running && l.hi ≤ l.next && l.live = 0

/-- A launch may end: its record can be written, and, for one on several devices, the others are done, which may be at any
time (log entry 34). -/
def State.endDue (s : State) (l : Launch) (n : Nat) : Bool :=
  l.finished && (!l.own || ((match s.recordAddr n l with | .ok (some (_, .stall)) => false | _ => true) &&
    (l.ending.isSome || !(l.multi && 1 < l.ndev) || Config.freeBool s.tick)))

/-- A launch that may end does. -/
def State.settleLaunch (s : State) (n : Nat) : State :=
  let l := s.launch n
  if !s.endDue l n then s
  else if l.own then s.endLaunch n (s.endCode l)
  else (s.modLaunch n fun l => { l with state := .ended, hand := [] }).settleVersion l.ver

/-- Launches that may end. -/
def State.launchesOver (s : State) : List Nat := (s.launches.filter fun p => s.endDue p.2 p.1).map Prod.fst

/-! ## Teams that leave -/

/-- A lane set of a group waits no more: for a queue, an event, a register block, the reeve or a lease. -/
def State.forgetGroup (s : State) (gk : Nat) : State :=
  let keep := fun (w : Waiter) => decide (w.gkey ≠ gk)
  { s with
    queues := s.queues.map fun p => (p.1, { p.2 with prod := p.2.prod.filter keep, cons := p.2.cons.filter keep })
    fwWait := s.fwWait.filter keep
    jobs := s.jobs.filter fun p => keep p.2.who
    leases := s.leases.map fun p => (p.1, { p.2 with who := p.2.who.filter keep })
    ctxs := s.ctxs.map fun p =>
      (p.1, { p.2 with
        evWait := p.2.evWait.filter keep
        regq := p.2.regq.map fun q => (q.1, q.2.filter keep) }) }

/-- A lane position that its team has left: EMPTY, with undefined registers whose tags are clear (R4, R126; log entry 5). -/
def State.emptiedLane (s : State) (lk alloc : Nat) : Lane :=
  { Lane.empty with
    regs := (List.range alloc).foldl (fun t n => putWord t n (freeReg s lk n)) []
    preds := (freeReg s lk 256).setWidth 8 }

/-- A group slot that its team has left, with undefined uniform registers (R4, R173; log entry 5). -/
def State.emptiedGroup (s : State) (gk : Nat) : Group :=
  { Group.empty with sregs := (List.range 64).foldl (fun t n => putWord t n (freeReg s (gk * 64) (257 + n))) [] }

/-- A group slot becomes FREE (R173); its registers are undefined afterwards. -/
def State.freeSlot (s : State) (gk : Nat) : State :=
  let s1 := s.forgetGroup gk
  let g := gk % 64
  let other := fun (c : Option Clause) => c.filter fun c => c.gslot ≠ g
  let s2 := (groupLanes gk).foldl (fun s' lk => s'.setLane lk (s.emptiedLane lk (s.allocation gk))) s1
  (s2.setGroup gk (s.emptiedGroup gk)).modISlot (gk / 64 * 4 + g % 4) fun i =>
      { i with
        rotation := i.rotation.erase g
        c0 := other i.c0
        c1 := other i.c1
        parked := (i.parked.map fun (p : Parked) => (⟨other p.c0, other p.c1, p.yieldDue⟩ : Parked)).filter fun p => p.c0.isSome || p.c1.isSome }

/-- A team's slots, pad and records freed. -/
def State.removeTeam (s : State) (t : Nat) : State :=
  let m := s.team t
  let s1 := m.slots.foldl (fun s g => s.freeSlot (m.core * 64 + g)) s
  { s1 with
    teams := s1.teams.erase t
    outst := s1.outst.filter fun p => p.2.team ≠ t
    fences := s1.fences.filter fun p => p.2.team ≠ t }

/-- A core leaves the core set of a context (R359): its banks are scrubbed and given back. -/
def State.leaveCore (s : State) (c core : Nat) : State :=
  let s1 := s.emptyL1 core c
  let p := padBase + core * 0x100000
  let banks := match (s1.ctx c).alloc.get? core with | some a => a.pbanks | none => 0
  let s2 := (List.range 16).foldl (fun s b => if banks.getLsbD b then s.zeroRange (p + b * 0x10000) 0x10000 else s) s1
  ({ s2 with reqs := s2.reqs.filter fun r => !(r.2.ctx = c && r.2.core = core) }).modCtx c fun x =>
    { x with
      alloc := x.alloc.erase core
      buckets := x.buckets.erase core
      slots := x.slots.filter fun q => q.1 / 256 ≠ core
      spans := x.spans.filter fun q => q.1 / 4 ≠ core
      mrow := x.mrow.filter fun q => q.1 / 4 ≠ core
      mcol := x.mcol.filter fun q => q.1 / 4 ≠ core }

/-- Fusion of a cluster that is the context's no more ends with the last team that runs in it (R264). -/
def State.endFusion (s : State) (c cluster : Nat) : State :=
  if s.clusterOwned c cluster then s else s.setFusion c cluster false

/-- A draining core that has lost its last team is out (R359). -/
def State.settleDrain (s : State) (c core : Nat) : State :=
  let s1 := match (s.ctx c).alloc.get? core with
    | some a =>
      if a.drain && !s.teams.any fun p => p.2.ctx = c && p.2.core = core then (s.leaveCore c core).send (.service .drain c 0)
      else s
    | none => s
  s1.endFusion c (core / 8)

/-- What holds a team's retirement (R343). -/
def State.retireDue (s : State) (t : Nat) : Bool :=
  let m := s.team t
  0 < m.padLen && m.slots.all (fun g => s.groupDone (m.core * 64 + g)) && m.rg.isNone && m.treePend.isNone && !m.held &&
    !s.outst.any (fun p => p.2.team = t && p.2.kind ≠ .load) &&
    !s.cmds.any (fun p => p.2.team = t && p.2.unfinished) && !s.wloads.any (fun p => p.2.team = t) &&
    !s.mma.any (fun p => p.2.writes.any fun w => s.laneTeam w.1 = t)

/-- TEAM_RETIRE (R343, R214). -/
def execTeamRetire (team : Nat) (s : State) : Res :=
  if !s.retireDue team then skipEvent s
  else
    let m := s.team team
    let s1 := s.flushAll (s.unitOf m.ctx m.core) m.ctx
    let s2 := s1.modLaunch m.launch fun l =>
      { l with
        live := l.live - 1
        hand := if m.snaps.isEmpty then l.hand
          else l.hand.set m.core (m.snaps.foldl (fun t p => t.set p.1 p.2) (l.hand.getD m.core [])) }
    .next (((s2.removeTeam team).settleDrain m.ctx m.core).settleLaunch m.launch)

/-! ## Launches on several devices (R341, R342) -/

/-- The launches of a context that a message from an issuing device and context names by its generation: the messages of
R341 carry both contexts, since generations count by context (R336; log entry 88). -/
def State.multiNamed (s : State) (src srcCtx ctx gen : Nat) (own : Bool) : List Nat :=
  (s.launches.filter fun p => p.2.multi && p.2.own = own && p.2.issuer = src && p.2.issuerCtx = srcCtx && p.2.ctx = ctx &&
    p.2.gen = gen && (p.2.state = .queued || p.2.state = .armed)).map Prod.fst

/-- The launch of this device's context that an answer of a rank to it names. -/
def State.answered1 (s : State) (src srcCtx ctx gen : Nat) : Option Nat :=
  (s.multiNamed s.parish ctx ctx gen true).find? fun n =>
    (s.otherRanks (s.launch n)).any fun x => x.2.1 = src && x.2.2 = srcCtx

/-- An entry dropped before it ran: it leaves the queue, and its held teams are freed. -/
def State.dropEntry (s : State) (n : Nat) : State :=
  let s1 := s.unqueue n
  let ts := (s1.teams.filter fun p => p.2.launch = n).map Prod.fst
  let s2 := ts.foldl (fun s t => let m := s.team t; (s.removeTeam t).settleDrain m.ctx m.core) s1
  (s2.modLaunch n fun l => { l with next := l.hi, live := 0 })

/-- A launch on several devices aborted by its issuing device (R341, step 4): it ends as soon as its completion record can be written. -/
def State.abortLaunch (s : State) (n code : Nat) : State :=
  let l := s.launch n
  (((s.tellOthers l .abort).dropEntry n).modLaunch n fun l => { l with state := .running, ending := some code }).settleLaunch n

/-- A message for a launch of a saved context waits in its image. -/
def State.keepLate (s : State) (c src : Nat) (b : MsgBody) : State :=
  { s with images := s.images.modify c fun m => { m with late := m.late ++ [(src, b)] } }

/-- A message for a launch of a context: at once, or kept while the context is SAVED. -/
def State.lateOr (s : State) (src : RankRef) (m : LaunchMsg) (e : EntryRef) (r : Res) : Res :=
  if (s.ctx e.ctx).state = .saved then .next (s.keepLate e.ctx src.dev (.launch m src.ctx e)) else r

/-- The teams of a launch start. -/
def State.startTeams (s : State) (n : Nat) : State :=
  let s1 := s.modLaunch n fun l => { l with state := .running }
  ({ s1 with teams := s1.teams.map fun (p : Nat × Team) => if p.2.launch = n then (p.1, { p.2 with held := false }) else p }).settleLaunch n

/-- GO (R341, step 3): the issuing device's own teams are placed, and every other rank has answered ARMED. -/
def State.goLaunch (s : State) (n : Nat) : State :=
  let l := s.launch n
  if l.own && l.state = .armed && (s.otherRanks l).all (fun x => l.armed.contains (x.2.1, x.2.2)) then
    (s.tellOthers l .go).startTeams n
  else s

/-- All local teams are placed: the entry leaves the queue, and a MULTI launch is ARMED and says so, its issuing rank to itself
(R341, R342). -/
def State.placed (s : State) (n : Nat) : State :=
  let l := s.launch n
  if l.next < l.hi then s
  else
    let s1 := s.unqueue n
    if l.multi && l.state = .queued then
      let s2 := s1.modLaunch n fun l => { l with state := .armed }
      if l.own then s2.goLaunch n else s2.tell l.issuer .armed l.ctx l.issuerCtx l.gen
    else s1

/-! ## Placement by the scheduler -/

/-- The scheduler can place a team of the head entry of a context. -/
def State.placeDue (s : State) (c : Nat) : Bool :=
  let x := s.ctx c
  (x.state = .active || x.state = .gated) &&
    (match x.lq with
     | n :: _ => let l := s.launch n; l.hi ≤ l.next || (s.nextCore l).isSome
     | [] => false)

/-- TEAM_PLACEMENT (R339, R340). -/
def execTeamPlacement (ctx : Nat) (s : State) : Res :=
  if !s.placeDue ctx then skipEvent s
  else match (s.ctx ctx).lq with
    | n :: _ =>
      let l := s.launch n
      match (if l.next < l.hi then s.nextCore l else none), s.vers.get? l.ver with
      | some k, some v => .next ((s.placeTeam n k v).placed n)
      | _, _ => .next (s.placed n)
    | [] => skipEvent s

/-- MULTI_LAUNCH_ENTRY: accepted and queued, or refused. -/
def execMultiLaunchEntry (e : MultiEntry) (s : State) : Res :=
  let b := Block.ofWords e.block
  let r : Request :=
    { ctx := e.ctx
      core := 0
      kernel := (s.records.get? e.record).map fun k => (e.record, k)
      args := (0, false)
      comp := none
      block := { b with multi := false }
      cookie := 0 }
  let x := s.ctx e.ctx
  match (if x.state = .active || x.state = .gated then s.launchStatus r else 1), s.versionOf r.kernel with
  | 0, some (v, _) =>
    let (s1, q) := if e.args.isEmpty then (s, 0) else s.copyArgs e.ctx e.args
    let l := s1.newEntry r v e.gen
    let (lo, hi) := rankRange l.hi e.rank e.n
    .next (s1.enqueue { l with
      args := (q, !e.args.isEmpty)
      comm := b.comm
      ndev := e.n
      rank := e.rank
      multi := true
      own := false
      issuer := e.src
      issuerCtx := e.srcCtx
      lo := lo
      hi := hi
      next := lo })
  | _, _ => .next (s.tell e.src .refusal e.ctx e.srcCtx e.gen)

/-- MULTI_ARMED: the last answer brings GO; a rank answers once. -/
def execMultiArmed (src : RankRef) (e : EntryRef) (s : State) : Res :=
  match s.answered1 src.dev src.ctx e.ctx e.gen with
  | some n =>
    .next ((s.modLaunch n fun l =>
      { l with armed := if l.armed.contains (src.dev, src.ctx) then l.armed else l.armed ++ [(src.dev, src.ctx)] }).goLaunch n)
  | none => s.lateOr src .armed e (skipEvent s)

/-- MULTI_GO. -/
def execMultiGo (src : RankRef) (e : EntryRef) (s : State) : Res :=
  s.lateOr src .go e <| .next ((s.multiNamed src.dev src.ctx e.ctx e.gen false).foldl (fun s n => if (s.launch n).state = .armed then s.startTeams n else s) s)

/-- MULTI_ABORT. -/
def execMultiAbort (src : RankRef) (e : EntryRef) (s : State) : Res :=
  s.lateOr src .abort e <| .next ((s.multiNamed src.dev src.ctx e.ctx e.gen false).foldl (fun s n =>
    let v := (s.launch n).ver
    ((s.dropEntry n).modLaunch n fun l => { l with state := .ended }).settleVersion v) s)

/-- A MULTI launch without every ARMED answer after 16,777,216 cycles. -/
def State.armedLate (s : State) (n : Nat) : Bool :=
  let l := s.launch n
  l.multi && l.own && (l.state = .queued || l.state = .armed) && l.queuedAt + 16777216 ≤ s.now

/-- MULTI_ARMED_TIMEOUT. -/
def execMultiArmedTimeout (launch : Nat) (s : State) : Res :=
  if s.armedLate launch then .next (s.abortLaunch launch 4) else skipEvent s

/-- MULTI_REFUSAL: a rank's refusal reaches the issuing device. -/
def execMultiRefusal (src : RankRef) (e : EntryRef) (s : State) : Res :=
  match s.answered1 src.dev src.ctx e.ctx e.gen with
  | some n => .next (s.abortLaunch n 4)
  | none => s.lateOr src .refusal e (skipEvent s)

/-- A message of a multi-device launch runs its row. -/
def State.takeLaunch (s : State) (src : Nat) (b : MsgBody) : State :=
  let r := match b with
    | .entry e => execMultiLaunchEntry e s
    | .launch .armed c e => execMultiArmed ⟨src, c⟩ e s
    | .launch .go c e => execMultiGo ⟨src, c⟩ e s
    | .launch .abort c e => execMultiAbort ⟨src, c⟩ e s
    | .launch .refusal c e => execMultiRefusal ⟨src, c⟩ e s
    | _ => .next s
  match r with | .next t => t | _ => s

/-! ## Firmware's part -/

/-- LAUNCH_END_SERVICE (R342): the launch's lanes become EXITED, no further team is placed, and it ends with status 3; one on
several devices that has not started is aborted, and one of a saved context ends when it is restored. -/
def execLaunchEndService (launch : Nat) (s : State) : Res :=
  match s.launches.get? launch with
  | none => .next { s with images := s.images.map fun p =>
      if (p.2.launches.get? launch).isSome then (p.1, { p.2 with ended := p.2.ended ++ [launch] }) else p }
  | some l =>
    if l.state = .ended then skipEvent s
    else
      let s0 := s.send (.service .endLaunch l.ctx 0)
      if l.multi && l.own && l.state ≠ .running then .next (s0.abortLaunch launch 3)
      else
        let ts := (s0.teams.filter fun p => p.2.launch = launch).map Prod.fst
        let s1 := ts.foldl (fun s t =>
          let m := s.team t
          let s' := m.slots.foldl (fun s g => s.forgetGroup (m.core * 64 + g)) s
          let s'' := ((s'.threads t).foldl (fun s lk => s.pullLane lk) s').endLanes t (s'.threads t)
          s''.modTeam t fun m => { m with rg := none, held := false }) s0
        let s2 := (s1.unqueue launch).modLaunch launch fun l => { l with next := l.hi, forced := true, state := .running }
        .next (s2.settleLaunch launch)

/-- LAUNCH_KEY_REPLACE (R337): the next key ID. -/
def execLaunchKeyReplace (ctx : Nat) (s : State) : Res :=
  if (s.ctx ctx).exists then
    let id := (s.launchKeyId ctx + 1) % 4096
    let s1 := s.modCtx ctx fun x => { x with keyId := id }
    .next ({ s1 with images := s1.images.modify ctx fun m => { m with ctx := { m.ctx with keyId := id } } }.send (.key ctx id))
  else skipEvent s

/-- Launch events that are due. -/
def State.launchDue (s : State) : List Due :=
  ((s.ctxs.map Prod.fst).filter s.placeDue).map Due.teamPlacement ++
  ((s.launches.map Prod.fst).filter s.ageDue).map Due.launchLevelAge ++
  ((s.teams.map Prod.fst).filter s.retireDue).map Due.teamRetire ++
  ((s.launches.map Prod.fst).filter s.armedLate).map Due.multiArmedTimeout

end Sys2Proof.Machine
end

