-- ==== Sys2Proof/Machine/Queues.lean ====
section
/-! DEFINITION. Message queues and event queues as instructions see them (R316 to R322), the end of a queue, and the
chairlift probe of the internal queues (R323). -/

namespace Sys2Proof.Machine

/-! ## Message queues -/

/-- The message of QPUT: sixteen registers of the acting lane, a granule's tag kept as R316 says. -/
def State.message (s : State) (l : Nat) (b : BitVec 9) (stc : Bool) : List (Quad × Bool) :=
  (List.range 4).map fun k =>
    let q := s.quadBits l b k
    (q, s.filtered q (s.quadTag l b k && stc && (Cap.ofQuad q).has Perm.glob))

/-- What a QGET writes: the message, and status 0. -/
def messageWrites (w : Waiter) (msg : List (Quad × Bool)) : List RegWrite :=
  (List.range 4).map (fun k => let x := msg.getD k (0, false); .quad w.b k x.1 (x.2 && w.keep)) ++ [.reg w.d 0 0]

/-- The tags of a message after a filter of the sweep pass in progress (R121, R123). -/
def State.siftMsg (s : State) (msg : List (Quad × Bool)) : List (Quad × Bool) := msg.map fun x => (x.1, s.filtered x.1 x.2)

def State.setQueue (s : State) (q : Nat) (x : MsgQueue) : State := { s with queues := s.queues.set q x }

/-- The acquire at .dev of a QGET that returns a message, the release at .dev of a QPUT that succeeds (R318). -/
def State.acquireDev (s : State) (c gk : Nat) : State := s.discardClean (s.unitOf c (coreOf gk)) c
def State.releaseDev (s : State) (c gk : Nat) : State := s.flushAll (s.unitOf c (coreOf gk)) c

/-- A message goes to the oldest sleeping consumer, or into the queue (R317, R318). -/
def State.putMessage (s : State) (q : Nat) (x : MsgQueue) (msg : List (Quad × Bool)) : State :=
  match x.cons with
  | w :: ws =>
    ((s.setQueue q { x with cons := ws }).wakeMask w.gkey w.mask (onceWrites w.acting (messageWrites w (s.siftMsg msg)))).acquireDev w.ctx w.gkey
  | [] => s.setQueue q { x with msgs := x.msgs ++ [msg] }

/-- The oldest sleeping producer's message follows a message that was removed. -/
def State.refillQueue (s : State) (q : Nat) (x : MsgQueue) : State :=
  match x.prod with
  | w :: ws =>
    ((s.setQueue q { x with prod := ws, msgs := x.msgs ++ [s.siftMsg w.msg] }).wakeMask w.gkey w.mask
      (onceWrites w.acting [.reg w.d 0 0])).releaseDev w.ctx w.gkey
  | [] => s.setQueue q x

/-- The check of a QUEUE capability (R320). -/
def queueCheck (f : FmtT) (perm : BitVec 12) (s : State) (l : Nat) : Except Flt (Cap × Option MsgQueue) :=
  let q := s.quad l f.a
  let c := Cap.ofQuad q.1
  match checkAccess q (s.laneColour l) [Kind.queue] perm c.cur 0 with
  | some e => .error e
  | none => .ok (c, (s.queues.get? c.cur).bind fun x => if x.state = .free then none else some x)

/-- QPUT (R317, R320). -/
def qputOnce (f : FmtT) (s : State) (l : Nat) : State × LaneRes :=
  match queueCheck f Perm.st s l with
  | .error e => (s, .error e)
  | .ok (_, none) => (s, okReg f.d 2)
  | .ok (c, some x) =>
    let msg := s.message l f.b (c.has Perm.stc)
    if x.state = .closed then (s, okReg f.d 2)
    else if x.msgs.length < x.depth then
      ((s.releaseDev (s.laneCtx l) (groupOf l)).putMessage c.cur x msg, okReg f.d 0)
    else if f.mod.getLsbD 0 then
      (s.setQueue c.cur { x with prod := x.prod ++ [{ s.waiter f.g l f.d f.b with msg := msg }] }, .ok [.sleep (.queue c.cur)])
    else (s, okReg f.d 1)

def execQput (f : FmtT) (s : State) : Res := onceInstr (.qput f) (qputOnce f) s

/-- QGET (R317, R320). -/
def qgetOnce (f : FmtT) (s : State) (l : Nat) : State × LaneRes :=
  match queueCheck f Perm.ld s l with
  | .error e => (s, .error e)
  | .ok (_, none) => (s, okReg f.d 2)
  | .ok (c, some x) =>
    let w := { s.waiter f.g l f.d f.b with keep := c.has Perm.ldc }
    match x.msgs with
    | m :: ms =>
      ((s.refillQueue c.cur { x with msgs := ms }).acquireDev w.ctx w.gkey, .ok ((messageWrites w (s.siftMsg m)).map .rw))
    | [] =>
      if x.state = .closed then (s, okReg f.d 2)
      else if f.mod.getLsbD 0 then (s.setQueue c.cur { x with cons := x.cons ++ [w] }, .ok [.sleep (.queue c.cur)])
      else (s, okReg f.d 1)

def execQget (f : FmtT) (s : State) : Res := onceInstr (.qget f) (qgetOnce f) s

/-- The value of QSTAT (R320). -/
def MsgQueue.stat (x : MsgQueue) : Nat :=
  min x.prod.length 4095 * 2 ^ 40 + min x.cons.length 4095 * 2 ^ 28 +
    (match x.state with | .opened => 1 | .closed => 2 | .free => 0) * 2 ^ 26 + x.msgs.length * 2 ^ 13 + x.depth

/-- QSTAT (R320). -/
def qstatOnce (f : FmtT) (s : State) (l : Nat) : State × LaneRes :=
  match queueCheck f 0 s l with
  | .error e => (s, .error e)
  | .ok (_, x) => (s, okRegs f.d (match x with | some x => x.stat | none => 0) 2)

def execQstat (f : FmtT) (s : State) : Res := onceInstr (.qstat f) (qstatOnce f) s

/-- A queue closes (R317): its sleepers wake with status 2. -/
def State.closeQueue (s : State) (q : Nat) : State :=
  match s.queues.get? q with
  | none => s
  | some x =>
    if x.state ≠ .opened then s
    else
      (x.prod ++ x.cons).foldl (fun s w => s.wakeMask w.gkey w.mask (onceWrites w.acting [.reg w.d 0 2]))
        (s.setQueue q { x with state := .closed, prod := [], cons := [] })

/-- QUEUE_FREE (R317): firmware frees the last capability of a CLOSED queue; its area is scrubbed. -/
def execQueueFree (queue : Nat) (s : State) : Res :=
  match s.queues.get? queue with
  | some x => if x.state = .closed then .next (s.setQueue queue { x with state := .free, msgs := [] }) else skipEvent s
  | none => skipEvent s

/-! ## Event queues -/

/-- EVGET (R321): the oldest record; a context of colour 0 reads the firmware event queue (R314). -/
def evgetOnce (f : FmtT) (s : State) (l : Nat) : State × LaneRes :=
  let c := s.laneCtx l
  let x := s.ctx c
  let w := s.waiter f.g l f.d f.b
  let q := if x.colour = 0 then s.fwq else x.evq
  match q.recs with
  | r :: rs =>
    let q1 := { q with recs := rs }
    (if x.colour = 0 then { s with fwq := q1 } else s.setCtx c { x with evq := q1 }, .ok ((evgetWrites w r).map .rw))
  | [] =>
    if f.mod.getLsbD 0 then
      (if x.colour = 0 then { s with fwWait := s.fwWait ++ [w] } else s.setCtx c { x with evWait := x.evWait ++ [w] },
        .ok [.sleep .event])
    else (s, okReg f.b 1)

def execEvget (f : FmtT) (s : State) : Res := onceInstr (.evget f) (evgetOnce f) s

/-! ## The chairlift probe (R323) -/

/-- An internal queue with nothing in it. -/
def State.iqueue (s : State) (q : Nat) : IQueue := s.iqueues.getD q ⟨[], max 1 (Config.queueSlots q), none, none, false, s.now⟩

/-- Every slot but the reserve slot is taken. -/
def IQueue.full (x : IQueue) : Bool := x.cap ≤ (x.entries.filter fun e => x.reserve ≠ some e).length

/-- The head of a queue departs; with its entry the reserve slot becomes free. -/
def IQueue.depart (x : IQueue) (now : Nat) : IQueue :=
  { x with
    entries := x.entries.drop 1
    reserve := if x.reserve = x.entries.head? then none else x.reserve
    down := none
    since := now }

/-- What time brings to the internal queues: an entry enters a queue, or the head of one goes on to another queue, waits on it while
that is full, or leaves (log entry 85). -/
def State.queueTraffic (s : State) (op : Nat) : State :=
  let q := op / 3 % 65536
  let x := s.iqueue q
  let put := fun (s : State) (k : Nat) (x : IQueue) => { s with iqueues := s.iqueues.set k x }
  if op % 3 = 0 then (if x.full then s else let (n, s1) := s.takeNum; put s1 q { x with entries := x.entries ++ [n] })
  else match x.entries with
    | [] => s
    | e :: _ =>
      let j := match x.down with | some j => j | none => op / 3 / 65536 % 65536
      let y := s.iqueue j
      if op % 3 = 1 && j ≠ q then
        if y.full then put s q { x with down := some j, since := if x.down.isSome then x.since else s.now }
        else put (put s q (x.depart s.now)) j { y with entries := y.entries ++ [e] }
      else if x.down.isNone then put s q (x.depart s.now) else s

/-- What a probe of queue `q` comes to as it is passed on from queue `k`: whether it finds `q` again. `n` bounds the walk by
the number of queues. -/
def State.probeFinds (s : State) (q : Nat) : Nat → Nat → Bool
  | 0, _ => false
  | n + 1, k =>
    if k = q then true
    else
      let x := s.iqueue k
      if !x.full || x.reserve.isSome || (x.probing && k < q) then false
      else match x.down with
        | some j => s.probeFinds q n j
        | none => false

/-- A full queue whose head has waited 2,048 cycles on a full downstream queue, or whose probe is on its way. -/
def State.probeDue (s : State) (q : Nat) : Bool :=
  match s.iqueues.get? q with
  | none => false
  | some x => x.probing || (x.full && x.since + 2048 ≤ s.now &&
      (match x.down with | some j => (s.iqueue j).full | none => false))

/-- CHAIRLIFT_PROBE (R323): a probe is sent, or ends. One that finds its queue again moves the head into the reserve slot of the
downstream queue; after any other the queue waits anew. -/
def execChairliftProbe (queue : Nat) (s : State) : Res :=
  if !s.probeDue queue then skipEvent s
  else
    let x := s.iqueue queue
    let put := fun (s : State) (k : Nat) (x : IQueue) => { s with iqueues := s.iqueues.set k x }
    if !x.probing then .next (put s queue { x with probing := true })
    else
      let x1 := { x with probing := false, since := s.now }
      match x.down, x.entries with
      | some d, e :: _ =>
        let y := s.iqueue d
        if y.full && y.reserve.isNone && d ≠ queue && s.probeFinds queue (s.iqueues.length + 1) d then
          .next (put (put s queue (x1.depart s.now)) d { y with entries := y.entries ++ [e], reserve := some e })
        else .next (put s queue x1)
      | _, _ => .next (put s queue x1)

/-- Probes that are due. -/
def State.probesDue (s : State) : List Due := ((s.iqueues.map Prod.fst).filter s.probeDue).map Due.chairliftProbe

end Sys2Proof.Machine
end

