-- ==== Sys2Proof/Machine/Context.lean ====
section
/-! DEFINITION. Contexts (R345 to R362): CTXGATE and SHARESET, the token buckets and counters, and the services that create, drain,
save, restore, discard and reset a context; the governor's step (R174). -/

namespace Sys2Proof.Machine

/-! ## CTXGATE (R350) -/

/-- The state code of a context. -/
def CtxState.code : CtxState → Nat
  | .free => 0
  | .active => 1
  | .gated => 2
  | .saved => 3
  | .resetting => 4

/-- A context is gated (R348, R356). -/
def State.gateCtx (s : State) (c : Nat) : State := s.modCtx c fun x => { x with state := .gated, gatedAt := s.now }

/-- Cycles spent GATED are counted on every core of the core set (R357). -/
def State.countGate (s : State) (c : Nat) : State :=
  let x := s.ctx c
  x.coreSet.foldl (fun s k => s.count c k 5 (s.now - x.gatedAt)) s

/-- A gate ends. -/
def State.ungateCtx (s : State) (c : Nat) : State := (s.countGate c).modCtx c fun x => { x with state := .active }

/-- The status of CTXGATE.gate and .ungate before R348 applies. -/
def State.gateStatus (s : State) (l n : Nat) (already : CtxState) : Nat :=
  let st := (s.ctx n).state
  if 1023 < n || st = .free || st = .saved || st = .resetting then 2
  else if n = s.laneCtx l then 3
  else if st = already then 1
  else 0

def ctxgateGateOnce (f : FmtS) (s : State) (l : Nat) : State × LaneRes :=
  let n := (s.reg1 l f.a).toNat
  let st := s.gateStatus l n .gated
  (if st = 0 then s.gateCtx n else s, okReg f.d (BitVec.ofNat 32 st))

def execCtxgateGate (f : FmtS) (s : State) : Res := onceInstr (.ctxgateGate f) (ctxgateGateOnce f) s

def ctxgateUngateOnce (f : FmtS) (s : State) (l : Nat) : State × LaneRes :=
  let n := (s.reg1 l f.a).toNat
  let st := s.gateStatus l n .active
  (if st = 0 then s.ungateCtx n else s, okReg f.d (BitVec.ofNat 32 st))

def execCtxgateUngate (f : FmtS) (s : State) : Res := onceInstr (.ctxgateUngate f) (ctxgateUngateOnce f) s

def ctxgateStateOnce (f : FmtS) (s : State) (l : Nat) : State × LaneRes :=
  let n := (s.reg1 l f.a).toNat
  (s, okReg f.d (if 1023 < n then 0xFFFFFFFF else BitVec.ofNat 32 (s.ctx n).state.code))

def execCtxgateState (f : FmtS) (s : State) : Res := onceInstr (.ctxgateState f) (ctxgateStateOnce f) s

/-! ## Shares (R352 to R355) -/

/-- POOL of a port, in force at the next refill. -/
def State.poolNext (s : State) (core : Nat) : Nat :=
  match s.pools.get? core with | some (p, n) => n.getD p | none => 4096

/-- SHARE of a context at a port, in force at the next refill. -/
def Ctx.shareNext (x : Ctx) (core : Nat) : Nat :=
  match x.buckets.get? core with | some b => b.newShare.getD b.share | none => 0

/-- The sum of SHAREs at a port at the next refill, without one context. -/
def State.shareSum (s : State) (core : Nat) (but : Option Nat) : Nat :=
  sumBy (fun p => if some p.1 = but then 0 else p.2.shareNext core) s.ctxs

/-- A new SHARE that waits for the refill. -/
def State.putShare (s : State) (c core v : Nat) : State :=
  s.modCtx c fun x =>
    { x with buckets := x.buckets.set core { x.buckets.getD core Bucket.empty with newShare := some v } }

/-- SHARESET on the cores named: its status, 1 before 2. -/
def State.shareSet (s : State) (c v : Nat) (cores : List Nat) : State × Nat :=
  let x := s.ctx c
  if 1023 < c || x.state = .free || cores.isEmpty || !cores.all x.coreSet.contains then (s, 1)
  else if v = 0 || 65535 < v || cores.any (fun k => s.poolNext k < s.shareSum k (some c) + v) then (s, 2)
  else (cores.foldl (fun s k => s.putShare c k v) s, 0)

/-- SHARESET.pool. -/
def State.poolSet (s : State) (core v : Nat) : State × Nat :=
  if 2047 < core then (s, 1)
  else if v < 256 || 65535 < v || v < s.shareSum core none then (s, 2)
  else
    let p := match s.pools.get? core with | some (p, _) => p | none => 4096
    ({ s with pools := s.pools.set core (p, some v) }, 0)

/-- SHARESET (R355). -/
def sharesetOnce (f : FmtT) (s : State) (l : Nat) : State × LaneRes :=
  let c := (s.reg1 l f.a).toNat
  let v := (s.reg1 l f.b).toNat
  let k := (s.reg1 l f.c).toNat
  let (s1, st) :=
    if f.mod.getLsbD 1 then s.poolSet k v
    else s.shareSet c v (if f.mod.getLsbD 0 then (s.ctx c).coreSet else [k])
  (s1, okReg f.d (BitVec.ofNat 32 st))

def execShareset (f : FmtT) (s : State) : Res := onceInstr (.shareset f) (sharesetOnce f) s

/-- Whether the buckets of a context refill (R349). -/
def Ctx.refills (x : Ctx) : Bool := x.state = .active || x.state = .gated

/-- A context was throttled at a port in the period that ends: a request waited, this instant included. -/
def State.throttledAt (s : State) (c core : Nat) : Bool := (s.bucket c core).throttled || s.portWaits c core

/-- A bucket refilled, before any bonus (R353). -/
def Bucket.refill (b : Bucket) : Bucket :=
  let sh := b.newShare.getD b.share
  { b with
    share := sh
    newShare := none
    own := min (b.own + sh) (4 * sh)
    bonus := 0
    used := 0
    throttled := false }

/-- The refill of a port (R353). -/
def State.refillPort (s : State) (core : Nat) : State :=
  let bs := s.ctxs.filterMap fun p => if p.2.refills then (p.2.buckets.get? core).map fun b => (p.1, b) else none
  let thr := fun (c : Nat) => s.throttledAt c core
  let u := sumBy (fun p => if thr p.1 then 0 else p.2.share - p.2.used) bs
  let z := sumBy (fun p => if thr p.1 then p.2.refill.share else 0) bs
  let new := fun (c : Nat) (b : Bucket) =>
    let r := b.refill
    if thr c then { r with bonus := min (u * r.share / z) (4 * r.share - r.own) } else r
  let s1 := bs.foldl (fun s p => s.modCtx p.1 fun x => { x with buckets := x.buckets.set core (new p.1 p.2) }) s
  { s1 with pools := s1.pools.map fun p => if p.1 = core then (p.1, (p.2.2.getD p.2.1, none)) else p }

/-- The reference counter stands at a multiple of a period at which the work of it has not been done yet. -/
def State.atPeriod (s : State) (period last : Nat) : Bool := s.now % period = 0 && last < s.now

/-- A refill has fallen due. -/
def State.refillDue (s : State) : Bool := s.atPeriod 1024 s.lastRefill

/-- TOKEN_REFILL (R353), at a multiple of 1,024 of the reference counter. -/
def execTokenRefill (s : State) : Res :=
  if s.refillDue then
    let ports := (s.ctxs.flatMap fun p => p.2.buckets.map Prod.fst) ++ s.pools.map Prod.fst
    .next (ports.eraseDups.foldl (fun s k => s.refillPort k) { s with lastRefill := s.now })
  else skipEvent s

/-- The oldest request of a context that waits at a port. -/
def State.oldestReq (s : State) (core c : Nat) : Option (Nat × Req) :=
  s.reqs.find? fun p => p.2.ctx = c && p.2.core = core && p.2.sent.isNone

/-- The oldest request of a context that waits at a port can leave. -/
def State.sendable (s : State) (core c : Nat) : Bool :=
  match s.oldestReq core c with | some p => s.canPay p.2 | none => false

/-- PORT_REQUEST_SEND (R352): requests leave in the order of their admission. -/
def execPortRequestSend (core ctx : Nat) (s : State) : Res :=
  match s.oldestReq core ctx with
  | some (n, r) => if s.canPay r then .next (s.sendReq n r) else skipEvent s
  | none => skipEvent s

/-! ## Counters and the governor -/

/-- An update of the shared counters has fallen due (R357). -/
def State.updateDue (s : State) : Bool := s.atPeriod 1048576 s.lastUpdate

/-- SHARED_COUNTER_UPDATE (R357): reads see what the counters hold now. -/
def execSharedCounterUpdate (s : State) : Res :=
  if !s.updateDue then skipEvent s
  else
    let upd := fun (s : State) (c : Nat) => s.modCtx c fun x =>
      { x with shared := (x.counters.filter fun p => 0x10 ≤ p.1 % 32).foldl (fun t p => t.set p.1 p.2) x.shared }
    .next ((s.ctxs.map Prod.fst).foldl upd { s with lastUpdate := s.now })

/-- The governor's choice for a die has fallen due (R174). -/
def State.governorDue (s : State) (die : Nat) : Bool := s.atPeriod 8192 (s.governed.getD die 0)

/-- GOVERNOR_STEP (R174, R427): the core clock of a die takes one of seven steps, the lowest while the die is at 95 °C or more; whether it
stays capped, and whether its issue stays duty-cycled from 105 °C on, is by its temperature then (log entry 96). -/
def execGovernorStep (die step : Nat) (s : State) : Res :=
  if step < 7 && die < 8 && s.governorDue die then
    let heat := Config.dieHeat die s.tick
    .next ({ s with governed := s.governed.set die s.now }.modDie die fun d =>
      { d with step := if 95 ≤ heat then 0 else step, capped := 95 ≤ heat, duty := 105 ≤ heat })
  else skipEvent s

/-- What falls due at fixed multiples of the reference counter. -/
def State.periodDue (s : State) : List Due :=
  (if s.refillDue then [.tokenRefill] else []) ++ (if s.updateDue then [.sharedCounterUpdate] else []) ++
    ((List.range 8).filter s.governorDue).map Due.governorStep

/-! ## Create (R348) -/

/-- A core has free banks, group slots and ways for a share of it. -/
def State.coreSpace (s : State) (k : CoreShare) : Bool :=
  let as := s.ctxs.filterMap fun p => p.2.alloc.get? k.core
  let clash := fun (m : Alloc → BitVec 16) (w : BitVec 16) => as.any fun a => (m a &&& w) != 0
  k.core < 2048 && k.rbanks != 0 && k.pbanks != 0 && k.wbanks != 0 && !clash (·.rbanks) k.rbanks && !clash (·.pbanks) k.pbanks &&
    !clash (·.wbanks) k.wbanks && 1 ≤ k.quota && k.quota + sumBy (·.quota) as ≤ 64 && 1 ≤ k.ways &&
    k.ways + sumBy (fun a => a.waysM1 + 1) as ≤ 16

/-- A core has room for a share of it, its SHARE included (R352). -/
def State.coreRoom (s : State) (k : CoreShare) : Bool :=
  s.coreSpace k && 1 ≤ k.share && k.share ≤ 65535 && s.shareSum k.core none + k.share ≤ s.poolNext k.core

/-- The frames that firmware reserves for spill leases: 2 MiB for each core (R208). -/
def backingFrames (base n : Nat) : List Nat := (List.range n).map (base / 0x200000 + ·)

/-- Backing frames are kept for firmware, or given back through SCRUB (R208; log entry 77). -/
def State.reserve (s : State) (gs : List Nat) : State :=
  gs.foldl (fun s g => s.setEntry g (Fst.mk 0 0 0 false false 0 Fst.owned)) s
def State.unreserve (s : State) (gs : List Nat) : State :=
  gs.foldl (fun s f => let g := liveFrame s.frames f; s.toScrub g (frameEntry s.frames g) Fst.free 0) s

/-- Every core is named once. -/
def distinct : List Nat → Bool
  | [] => true
  | k :: ks => !ks.contains k && distinct ks

/-- The create service can succeed: the part is READY, the number is free, every core has room, and the backing area can be
reserved. -/
def State.canCreate (s : State) (p : CtxParams) : Bool :=
  s.bootstat == 1 && p.number < 1024 && p.colour < 4096 && (s.ctx p.number).state = .free && !p.cores.isEmpty &&
    distinct (p.cores.map (·.core)) && p.cores.all s.coreRoom && p.backing % 0x200000 = 0 &&
    (backingFrames p.backing p.cores.length).all fun g => g < 393216 && s.frameFree g

/-- CONTEXT_CREATE (R348): entries written, counters, CLOCK and generation set, each bucket with one refill, and a new launch
key (R337). -/
def execContextCreate (p : CtxParams) (s : State) : Res :=
  if !s.canCreate p then .next (s.send (.service .create p.number 1))
  else
    let (k, s1) := s.takeNum
    let entry := fun (t : Tbl Alloc) (c : CoreShare) =>
      t.set c.core ⟨c.rbanks, c.pbanks, c.wbanks, c.quota, c.ways - 1, false, true, false, none⟩
    let bucket := fun (t : Tbl Bucket) (c : CoreShare) => t.set c.core { Bucket.empty with share := c.share, own := c.share }
    let x : Ctx :=
      { Ctx.empty with
        state := .active
        colour := p.colour
        alloc := p.cores.foldl entry []
        clockAt := s.now
        gen := 1
        buckets := p.cores.foldl bucket []
        keyId := k % 4096
        backing := p.backing
        backs := p.cores.map (·.core)
        area := p.area }
    .next ((((s1.reserve (backingFrames p.backing p.cores.length)).setCtx p.number x).send (.service .create p.number 0)).send (.key p.number (k % 4096)))

/-! ## Taking teams off their cores and putting them back (R227, R360, R361) -/

/-- A quad of registers from `n` on. -/
def tblQuad (t : Tbl Word) (q : Nat) : Quad :=
  let w := fun k => t.getD (4 * q + k) (0 : Word)
  w 3 ++ w 2 ++ w 1 ++ w 0

/-- Writes owed to a sleeping lane, after the filter. -/
def State.siftWrite (s : State) (w : RegWrite) : RegWrite :=
  match w with
  | .quad f k v t => .quad f k v (s.filtered v t)
  | w => w

/-- A lane after the filter: its tags, by the values that they belong to, and the writes owed to it (R121, R123). -/
def State.siftLane (s : State) (quad : Nat → Quad) (l : Lane) : Lane :=
  { l with
    tags := l.tags.filter fun q => s.filtered (quad q) true
    sleep := match l.sleep with | some (.due b ws) => some (.due b (ws.map s.siftWrite)) | x => x }

/-- A lane as it is saved: one that sleeps in an instruction which issues afresh stands at it again; the sweep filter has
passed over it (R121, R227). A lane asleep in REGROUP, CVSIGN or REGACQ, and one whose wake is owed, stays as it is. -/
def State.savedLane (s : State) (lk : Nat) (l : Lane) : Lane :=
  let l1 := s.siftLane (s.taggedQuad lk) l
  let again := match l.sleep with
    | some (.bwait _ _) | some (.bclust _ _) | some (.waita _) | some (.queue _) | some .event => true
    | _ => false
  match (if again then l.site else none) with
  | some a =>
    let (pc, res) := a.ret.target true
    { l1 with
      state := if l.state = .asleep true then .trapped else .active
      pc := pc
      resume := res
      sleep := none
      site := none }
  | none => l1

/-- A group after the filter, its lease storage with it. -/
def State.siftGroup (s : State) (g : Group) : Group :=
  { g with
    stags := g.stags.filter fun q => s.filtered (tblQuad g.sregs q) true
    leaseTags := g.leaseTags.filter fun k => s.filtered (leaseQuad g k) true }

/-- A group as it is saved, with what its backing area holds; the filter has passed over its tags. -/
def State.savedGroup (s : State) (gk : Nat) : Group := { s.siftGroup (s.fromBacking gk) with bank := none }

/-- A tagged quad after the filter. -/
def State.sift (s : State) (q : Quad × Bool) : Quad × Bool := (q.1, s.filtered q.1 q.2)

/-- A HANDOFF snapshot after the filter. -/
def State.siftSnap (s : State) (h : HandSnap) : HandSnap :=
  { h with tags := h.tags.filter fun q => s.filtered (tblQuad h.regs q) true }

/-- Tags of a team's tensor entries and snapshots after the filter (R123, R272). -/
def State.siftTeam (s : State) (m : Team) : Team :=
  { m with
    tns := m.tns.map fun p => (p.1, { p.2 with tag := s.filtered (p.2.bits.extractLsb' 0 128) p.2.tag })
    snaps := m.snaps.map fun p => (p.1, s.siftSnap p.2) }

/-- A launch entry after the filter. -/
def State.siftLaunch (s : State) (l : Launch) : Launch :=
  { l with
    args := s.sift l.args
    comp := l.comp.map s.sift
    hand := l.hand.map fun p => (p.1, p.2.map fun q => (q.1, s.siftSnap q.2)) }

/-- The group keys of a team. -/
def Team.gkeys (m : Team) : List Nat := m.slots.map (m.core * 64 + ·)

/-- The clauses of one group in an issue slot. -/
def ISlot.clausesOf (i : ISlot) (g : Nat) : List Parked :=
  let own := fun (c : Option Clause) => c.filter fun c => c.gslot = g
  let now : Parked := ⟨own i.c0, own i.c1, i.yieldDue⟩
  ((now :: i.parked.map fun (p : Parked) => (⟨own p.c0, own p.c1, p.yieldDue⟩ : Parked))).filter fun p => p.c0.isSome || p.c1.isSome

/-- The image of some teams. -/
def State.teamImage (s : State) (ts : List Nat) : TeamImage :=
  let teams := s.teams.filter fun p => ts.contains p.1
  let gks := teams.flatMap fun p => p.2.gkeys
  { teams := teams.map fun p => (p.1, s.siftTeam p.2)
    groups := (s.groups.filter fun p => gks.contains p.1).map fun p => (p.1, s.savedGroup p.1)
    lanes := (s.lanes.filter fun p => gks.contains (groupOf p.1)).map fun p => (p.1, s.savedLane p.1 p.2)
    rotation := s.islots.flatMap fun p => (p.2.rotation.map (p.1 / 4 * 64 + ·)).filter gks.contains
    parked := gks.flatMap fun gk => ((s.islot (gk / 64 * 4 + gk % 4)).clausesOf (gk % 64)).map fun p => (gk, p) }

/-- Lanes that have left a parked clause because their instruction issues afresh; the words of the clause are fetched anew. -/
def TeamImage.trim (w : TeamImage) (gk : Nat) (c : Option Clause) : Option Clause :=
  (c.map fun c =>
    let here := (maskLanes c.mask).filter fun p =>
      let l := w.lanes.getD (gk * 64 + p) Lane.empty
      l.live && (match l.resume with | some r => r.hdr = c.hdr | none => false) && l.pc = c.hdr + 8 + BitVec.ofNat 64 (8 * c.idx)
    { c with mask := lanesMask here, words := [] }).filter fun c => c.mask ≠ 0

/-- Groups, lanes and clauses of an image put at new group keys, lease contents in the backing areas there. Ages go on as they stood: `away` cycles have passed since they
were taken (R361). -/
def State.putGroups (s : State) (w : TeamImage) (mv : List (Nat × Nat)) (away : Nat) : State :=
  let dst := fun (gk : Nat) => ((mv.find? fun (p : Nat × Nat) => p.1 = gk).map Prod.snd).getD gk
  let s1 := w.groups.foldl (fun s p => s.setGroup (dst p.1) { p.2 with lastIssue := p.2.lastIssue + away }) s
  let s2 := w.lanes.foldl (fun s p => s.setLane (dst (p.1 / 64) * 64 + p.1 % 64) { p.2 with lastIssue := p.2.lastIssue + away }) s1
  let rest := (w.groups.map Prod.fst).filter fun gk => !w.rotation.contains gk
  let s3 := (w.rotation ++ rest).foldl (fun s gk =>
    let k := dst gk
    s.modISlot (k / 64 * 4 + k % 4) fun i =>
      { i with rotation := rotateBottom (fun g => (s.group (k / 64 * 64 + g)).prio) i.rotation (k % 64) }) s2
  let s4 := (w.groups.filter fun p => p.2.leaseOn).foldl (fun s p => s.toBacking (dst p.1)) s3
  w.parked.foldl (fun s p =>
    let k := dst p.1
    let at_ := fun (c : Option Clause) => (w.trim p.1 c).map fun c => { c with gslot := k % 64 }
    let q : Parked := ⟨at_ p.2.c0, at_ p.2.c1, p.2.yieldDue⟩
    if q.c0.isNone && q.c1.isNone then s
    else s.modISlot (k / 64 * 4 + k % 4) fun i => { i with parked := i.parked ++ [q] }) s4

/-- The REGACQ requests of some groups in their order, at new group keys (R361). -/
def rekeyWaiters (ws : List Waiter) (c : Nat) (mv : List (Nat × Nat)) : List Waiter :=
  ws.filterMap fun w => (mv.find? fun (p : Nat × Nat) => p.1 = w.gkey).map fun p => { w with gkey := p.2, ctx := c }

/-- The group slot of a convergence register's owner at new group keys (R221). -/
def Team.rehome (m : Team) (mv : List (Nat × Nat)) : Team :=
  let home := fun (g : Nat) => match mv.find? fun (p : Nat × Nat) => p.1 = m.core * 64 + g with | some p => p.2 % 64 | none => g
  { m with cvs := m.cvs.map fun p => (p.1, { p.2 with owner := home p.2.owner }) }

/-- Nothing of a team is under way that a move or a save must wait for: accesses, commands, loads, services, clauses still in
an issue slot. -/
def State.teamQuiet (s : State) (t : Nat) : Bool :=
  let m := s.team t
  !s.outst.any (fun p => p.2.team = t) && !s.cmds.any (fun p => p.2.team = t && p.2.state = .running) &&
    !s.wloads.any (fun p => p.2.team = t) && !s.mma.any (fun p => p.2.writes.any fun w => s.laneTeam w.1 = t) &&
    m.treePend.isNone && !s.fences.any (fun p => p.2.team = t) && !s.jobs.any (fun p => m.gkeys.contains p.2.who.gkey) &&
    !s.leases.any (fun p => match p.2.who with | some w => m.gkeys.contains w.gkey | none => false) &&
    m.gkeys.all fun gk => !s.inClause gk

/-! ## Draining a core (R359, R360) -/

/-- CORE_DRAIN: no team is placed on the core from now on; the deadline lies `deadline` cycles ahead. -/
def execCoreDrain (ctx core deadline : Nat) (s : State) : Res :=
  match (s.ctx ctx).alloc.get? core with
  | some a =>
    if a.member && !a.drain && (s.ctx ctx).refills then
      let b := { a with drain := true, deadline := some (s.now + deadline) }
      .next ((s.modCtx ctx fun x => { x with alloc := x.alloc.set core b }).settleDrain ctx core)
    else skipEvent s
  | none => skipEvent s

/-- A drain's deadline has passed with teams left. -/
def State.drainLate (s : State) (c core : Nat) : Bool :=
  match (s.ctx c).alloc.get? core with
  | some a => a.drain && !a.moving && (match a.deadline with | some t => t ≤ s.now | none => false)
  | none => false

/-- DRAIN_DEADLINE: the context's groups on the core are held, to be moved. -/
def execDrainDeadline (ctx core : Nat) (s : State) : Res :=
  if s.drainLate ctx core then
    .next (s.modCtx ctx fun x => { x with alloc := x.alloc.modify core fun a => { a with moving := true, deadline := none } })
  else skipEvent s

/-- A team fits on another core at its own pad offsets (R338, R360). -/
def State.canTake (s : State) (t core : Nat) : Bool :=
  let m := s.team t
  let v := s.vers.get? m.ver
  let octs := sumBy (fun gk => s.allocation gk / 8) m.gkeys
  let roles := [(m.slots.length, 0)]
  s.fits m.ctx core roles 1 (match v with | some v => v.desc.fused || (s.launch m.launch).fused | none => false) &&
    octs ≤ s.octsFree m.ctx core &&
    (List.range (m.padLen / 1024)).all fun i => s.padFree m.ctx core (m.padOff / 1024 + i)

/-- Where a team that must leave its core can go now. -/
def State.moveTarget (s : State) (t : Nat) : Option Nat :=
  let m := s.team t
  match (s.ctx m.ctx).alloc.get? m.core with
  | some a =>
    if a.moving && s.teamQuiet t then (s.ctx m.ctx).coreSet.find? fun k => k ≠ m.core && s.canTake t k else none
  | none => none

/-- Teams to be moved now. -/
def State.movesDue (s : State) : List Nat := (s.teams.map Prod.fst).filter fun t => (s.moveTarget t).isSome

/-- A PAD capability of the old region with the new region's cursor (R360). -/
def movedCap (old new off len : Nat) (q : Quad) (tag : Bool) : Quad :=
  let c := Cap.ofQuad q
  let lo : Int := padBase + old * 0x100000 + off
  if tag && c.kind = Kind.pad && lo ≤ c.base && c.base < lo + len then
    { c with cur := ((c.cur : Int) + ((new : Int) - old) * 0x100000).toNat % 2 ^ 64 }.toQuad
  else q

/-- The words of the tagged quads of a register table rewritten. -/
def mapQuads (f : Quad → Quad) (tags : List Nat) (t : Tbl Word) : Tbl Word :=
  tags.foldl (fun t q =>
    let v := f (tblQuad t q)
    (List.range 4).foldl (fun t k => putWord t (4 * q + k) (quadWord v k)) t) t

/-- The tagged quads of lease storage rewritten. -/
def mapLease (f : Quad → Quad) (g : Group) : Group :=
  g.leaseTags.foldl (fun g k =>
    let v := f (leaseQuad g k)
    { g with lease := (List.range 4).foldl (fun t j => putWord t (k + 64 * j) (quadWord v j)) g.lease }) g

/-- The tagged quads of a lane position rewritten, each word where it stands. -/
def State.mapLane (s : State) (f : Quad → Quad) (lk : Nat) : State :=
  let m := s.team (s.laneTeam lk)
  ((s.lane lk).tags.filter fun q => m.tagStands (s.carryOf m) lk q).foldl (fun s q =>
    let v := f (s.taggedQuad lk q)
    (List.range 4).foldl (fun s k =>
      s.modLane (m.standsAt (s.carryOf m) lk (4 * q + k)) fun l => { l with regs := putWord l.regs (4 * q + k) (quadWord v k) }) s) s

/-- The tagged quads of a team's registers rewritten. -/
def State.mapTeam (s : State) (f : Quad → Quad) (t : Nat) : State :=
  let gks := (s.team t).gkeys
  let s1 := gks.foldl (fun s gk => s.modGroup gk fun g => { g with sregs := mapQuads f g.stags g.sregs }) s
  (gks.flatMap groupLanes).foldl (fun s lk => s.mapLane f lk) s1

/-- A pad region copied to another core, with tags, poison and moved capabilities. -/
def State.movePad (s : State) (old new off len : Nat) : State :=
  let a := padBase + old * 0x100000 + off
  let b := padBase + new * 0x100000 + off
  (List.range (len / 16)).foldl (fun s' i =>
    let p := a + 16 * i
    let tag := s.filtered (s.granData p) (s.granTag p)
    s'.granStore (b + 16 * i) (movedCap old new off len (s.granData p) tag) 0xFFFF tag (s.granPoison p)) (s.zeroRange b len)

/-- A team moved to another core of the core set: it keeps its index, TIDs, registers, pad contents and state. Its queued
commands go with it, and it starts there with no clean line of an L1 that others have used (R234, R235). -/
def State.moveTeam (s : State) (t : Nat) : State :=
  match s.moveTarget t with
  | none => s
  | some k =>
    let m := s.team t
    let c := m.ctx
    let f := fun q => movedCap m.core k m.padOff m.padLen q true
    let w0 := (s.mapTeam f t).teamImage [t]
    let w := { w0 with groups := w0.groups.map fun p => (p.1, mapLease f p.2) }
    let slots := takeSlots m.slots.length (s.occupied k)
    let mv := m.gkeys.zip (slots.map (k * 64 + ·))
    let waits := rekeyWaiters (s.regq c m.core) c mv
    let s1 := s.flushAll (s.unitOf c m.core) c
    let s2 := (s1.movePad m.core k m.padOff m.padLen).removeTeam t
    let fused := match s.vers.get? m.ver with | some v => v.desc.fused || (s.launch m.launch).fused | none => false
    let s3 := (s2.setFusion c (k / 8) fused).setTeam t { (m.rehome mv) with core := k, slots := slots }
    let s4 := (s3.putGroups w mv 0).modCtx c fun x => { x with regq := x.regq.set k (x.regq.getD k [] ++ waits) }
    let s5 := { s4 with cmds := s4.cmds.map fun (x : Nat × Cmd) => if x.2.team = t && x.2.unfinished then (x.1, { x.2 with core := k }) else x }
    (s5.discardClean (s5.unitOf c k) c).settleDrain c m.core

/-! ## Save (R361) -/

/-- Everything that a save waits for has ended. -/
def State.saveReady (s : State) (c : Nat) : Bool :=
  (s.ctx c).state = .gated && !s.outst.any (fun p => p.2.ctx = c) && !s.cmds.any (fun p => p.2.ctx = c && p.2.state = .running) &&
    !s.wloads.any (fun p => p.2.ctx = c) && !s.mma.any (fun p => p.2.ctx = c) && !s.jobs.any (fun p => p.2.who.ctx = c) &&
    !s.leases.any (fun p => match p.2.who with | some w => w.ctx = c | none => false) &&
    !s.reqs.any (fun p => p.2.ctx = c && p.2.sent.isNone) && s.teams.all fun p => p.2.ctx ≠ c || s.teamQuiet p.1

/-- Pad addresses that a context's banks cover. -/
def Ctx.padHeld (x : Ctx) (a : Nat) : Bool :=
  padBase ≤ a && (match x.alloc.get? ((a - padBase) / 0x100000) with
    | some e => e.pbanks.getLsbD ((a - padBase) % 0x100000 / 0x10000)
    | none => false)

/-- Another context that exists has the colour. -/
def State.colourShared (s : State) (c : Nat) : Bool :=
  let col := (s.ctx c).colour
  s.ctxs.any fun p => p.1 ≠ c && p.2.colour = col && (p.2.exists || p.2.state = .resetting)

/-- The frames of a context's colour, unless the colour is 0 or another context has it (log entry 43). -/
def State.framesOf (s : State) (c : Nat) (st : Nat → Bool) : List (Nat × DWord) :=
  let col := (s.ctx c).colour
  if col = 0 || s.colourShared c then [] else s.frames.filter fun p => Fst.colour p.2 = col && st (Fst.state p.2)

/-- The image of a context: everything that the store filter meets is filtered (R121, R361). -/
def State.imageOf (s : State) (c : Nat) : Image :=
  let x := s.ctx c
  let ts := (s.teams.filter fun p => p.2.ctx = c).map Prod.fst
  { savedAt := s.now
    ctx := { x with clock := s.clock c, evWait := [], saving := false, fused := [] }
    work := s.teamImage ts
    launches := (s.launches.filter fun p => p.2.ctx = c).map fun p => (p.1, s.siftLaunch p.2)
    cmds := (s.cmds.filter fun p => p.2.ctx = c).map fun p => (p.1, s.siftCmd p.2)
    xrecs := s.xrecs.filter fun r => r.ctx = c
    frames := (s.framesOf c fun _ => true).map Prod.fst
    pads := s.mem.filter fun b => x.padHeld b.1
    padTags := s.tags.filter fun k => x.padHeld (16 * k) && s.filtered (s.granData (16 * k)) true
    padPoison := s.poison.filter fun k => x.padHeld (16 * k)
    late := []
    ended := [] }

/-- The context leaves the device: teams, launches and commands, its cores with their banks, and its L1s. -/
def State.vacate (s : State) (c : Nat) : State :=
  let s1 := ((s.teams.filter fun p => p.2.ctx = c).map Prod.fst).foldl (fun s t => s.removeTeam t) s
  let s2 := (s1.ctx c).fused.foldl (fun s k => s.emptyL1 (2048 + k) c) s1
  let s3 := (((s2.ctx c).alloc.map Prod.fst).foldl (fun s k => s.leaveCore c k) s2)
  { s3 with
    launches := s3.launches.filter fun p => p.2.ctx ≠ c
    reqs := s3.reqs.filter fun p => p.2.ctx ≠ c
    cmds := s3.cmds.filter fun p => p.2.ctx ≠ c
    xrecs := s3.xrecs.filter fun r => r.ctx ≠ c }

/-- The save made: every record promoted, the image written, the banks scrubbed and released. -/
def State.saveCtx (s : State) (c : Nat) : State :=
  let s1 := (s.promoteCtx c).countGate c
  let img := s1.imageOf c
  let s2 := s1.vacate c
  ({ s2 with images := s2.images.set c img }.setCtx c { Ctx.empty with state := .saved, colour := img.ctx.colour }).send
    (.service .save c 0)

/-- A save that waits can be made. -/
def State.savesDue (s : State) : List Nat := (s.ctxs.filter fun p => p.2.saving && s.saveReady p.1).map Prod.fst

/-- CONTEXT_SAVE: an ACTIVE context is gated first; the save is made as soon as nothing holds it. -/
def execContextSave (ctx : Nat) (s : State) : Res :=
  let x := s.ctx ctx
  if !x.refills then skipEvent s
  else
    let s1 := if x.state = .active then s.gateCtx ctx else s
    .next (if s1.saveReady ctx then s1.saveCtx ctx else s1.modCtx ctx fun x => { x with saving := true })

/-! ## Restore and discard (R362, R348) -/

/-- Every named core has the banks, slots and ways of the image. -/
def State.restoreRoom (s : State) (m : Image) : Bool :=
  m.ctx.alloc.all fun p => s.coreSpace ⟨p.1, p.2.rbanks, p.2.pbanks, p.2.wbanks, p.2.quota, p.2.waysM1 + 1, 1⟩

/-- A frame of the image is held by another context now. -/
def State.frameTaken (s : State) (m : Image) (g : Nat) : Bool :=
  let e := frameEntry s.frames g
  (Fst.state e = Fst.owned || Fst.state e = Fst.shared) && Fst.colour e ≠ m.ctx.colour

/-- New group slots for each team of an image in order: team, core, slots. -/
def State.restoreSlots (s : State) : List (Nat × Team) → List (Nat × Nat × List Nat) → List (Nat × Nat × List Nat)
  | [], done => done
  | (t, m) :: rest, done =>
    let used := done.flatMap fun d => if d.2.1 = m.core then d.2.2 else []
    State.restoreSlots s rest (done ++ [(t, m.core, takeSlots m.slots.length (s.occupied m.core ++ used))])

/-- The status of R362 for an image that this device holds: no image of a saved context, no room. -/
def State.restoreStatus (s : State) (image ctx : Nat) : Nat :=
  match s.images.get? image with
  | none => 2
  | some m =>
    if (s.ctx image).state ≠ .saved || 1023 < ctx || !(ctx = image || (s.ctx ctx).state = .free) then 2
    else if !s.restoreRoom m || m.frames.any (s.frameTaken m) then 1 else 0

/-- An image of another part as the reeve opens it: with the code versions and kernel records that its teams and capabilities name. -/
structure Foreign where
  image : Image
  vers : Tbl KVer
  records : Tbl KRec
  deriving DecidableEq, Repr

/-- What a sealed image comes to: it fails authentication or is malformed, it needs what the part lacks, or it opens. -/
inductive Opened where
  | bad
  | level
  | image (f : Foreign)
  deriving DecidableEq, Repr, Inhabited

/-- The authentication and decryption of an image (R361) under keys that are not the model's to know; the numbers by which the model
names teams, launches and commands are not of the image, and are given from the first number on (log entry 89). -/
opaque openImage : Nat → List Byte → Opened

/-- The numbers of an image are new here: the device's own have been given already. -/
def State.fresher (s : State) (f : Foreign) : Bool :=
  let new := fun (n : Nat) => decide (s.fresh < n)
  f.image.work.teams.all (fun p => new p.1 && p.2.treePend.isNone) && (f.image.launches.map Prod.fst).all new && (f.image.cmds.map Prod.fst).all new &&
    f.vers.all (fun p => (s.vers.get? p.1).isNone) && f.records.all fun p => (s.records.get? p.1).isNone && p.1 < 4096

/-- A local frame can take a frame of an image. -/
def State.frameTakes (s : State) (colour g : Nat) : Bool :=
  let e := frameEntry s.frames (liveFrame s.frames g)
  g < 393216 && !s.spares.contains g &&
    (Fst.state e = Fst.free || ((Fst.state e = Fst.owned || Fst.state e = Fst.shared) && Fst.colour e = colour))

/-- The status of R362 for an image of another part. -/
def State.foreignStatus (s : State) (o : Opened) (ctx : Nat) (frames : List (Nat × Extent)) : Nat :=
  match o with
  | .bad => 2
  | .level => 3
  | .image f =>
    let m := f.image
    let area := backingFrames m.ctx.backing m.ctx.backs.length
    if !s.fresher f || 1023 < ctx || (s.ctx ctx).state ≠ .free then 2
    else if !s.restoreRoom m || !frames.all (fun p => s.frameTakes m.ctx.colour p.1 && !area.contains (liveFrame s.frames p.1)) ||
        !area.all fun g => g < 393216 && s.frameFree g then 1
    else 0

/-- A frame of an image copied to its address, in the spare of a RETIRED frame. -/
def State.putFrame (s : State) (colour g : Nat) (x : Extent) : State :=
  let h := liveFrame s.frames g
  let a := frameAddr h
  let s1 := s.zeroRange a 0x200000
  let inF := fun (o : Nat) => decide (o < 0x200000)
  let s2 := { s1 with
    mem := (x.cells.filter fun (c : Nat × Byte) => inF c.1).foldl (fun (m : Memory) (c : Nat × Byte) => Memory.setByte m (a + c.1) c.2) s1.mem
    poison := (x.poison.filter fun k => inF (16 * k)).foldl (fun t k => insertNat t (a / 16 + k)) s1.poison }
  let tags := (x.tags.filter fun k => inF (16 * k)).filter fun k => s2.filtered (s2.granData (a + 16 * k)) true
  { s2 with tags := tags.foldl (fun t k => insertNat t (a / 16 + k)) s2.tags }.setEntry h
    (Fst.mk 0 0 0 false (!tags.isEmpty) colour Fst.owned)

/-- Records posted while a context was SAVED follow those of its image (R314, R322). -/
def EvQueue.follow (q late : EvQueue) : EvQueue :=
  let q1 := late.recs.foldl (fun (q : EvQueue) r =>
    q.post (r.extractLsb' 0 8) (r.extractLsb' 8 8) (r.extractLsb' 80 176) (r.extractLsb' 16 16)) q
  { q1 with dropped := min (q1.dropped + late.dropped) (2 ^ 32 - 1) }

/-- The context's number in what names it by number, when a restore gives it another: message queues, communicators (R310,
R317). -/
def State.renumber (s : State) (old new : Nat) : State :=
  { s with
    vers := s.vers.map fun (p : Nat × KVer) => if p.2.ctx = old then (p.1, { p.2 with ctx := new }) else p
    queues := s.queues.map fun (p : Nat × MsgQueue) => if p.2.owner = old then (p.1, { p.2 with owner := new }) else p
    comms := s.comms.map fun (p : Nat × Comm) =>
      (p.1, { p.2 with ranks := p.2.ranks.map fun r => if r = (s.parish, old) then (s.parish, new) else r }) }

/-- A lane of a restored team after the load filter (R121). -/
def State.filterLane (s : State) (lk : Nat) : State := s.modLane lk (s.siftLane (s.taggedQuad lk))

/-- What reached the launches of a context while it was SAVED (log entry 94): messages of multi-device launches, which now name the
context by its number here, and launches that the reeve has ended. -/
def State.takeLate (s : State) (ctx : Nat) (m : Image) : State :=
  let s1 := m.late.foldl (fun s p => s.takeLaunch p.1 (match p.2 with
    | .launch b c e => .launch b c ⟨ctx, e.gen⟩
    | b => b)) s
  m.ended.foldl (fun s n => match execLaunchEndService n s with | .next t => t | _ => s) s1

/-- An image loaded as a context: GATED, its shared counters restarted. -/
def State.restoreImage (s : State) (image ctx : Nat) (m : Image) : State :=
  let new := s.restoreSlots m.work.teams []
  let slotsOf := fun (t : Nat) (e : Team) => ((new.find? fun d => d.1 = t).map (·.2.2)).getD e.slots
  let mv := m.work.teams.flatMap fun p => p.2.gkeys.zip ((slotsOf p.1 p.2).map (p.2.core * 64 + ·))
  let teams := m.work.teams.map fun p => (p.1, { s.siftTeam (p.2.rehome mv) with ctx := ctx, slots := slotsOf p.1 p.2 })
  let x : Ctx :=
    { m.ctx with
      state := .gated
      evq := m.ctx.evq.follow (s.ctx image).evq
      clockAt := s.now
      gatedAt := s.now
      counters := m.ctx.counters.filter fun p => p.1 % 32 < 0x10
      shared := []
      regq := m.ctx.regq.map fun q => (q.1, rekeyWaiters q.2 ctx mv) }
  let s0 := s.renumber image ctx
  let s1 := { s0 with images := s0.images.erase image, ctxs := (s0.ctxs.erase image).set ctx x }
  let s2 := { s1 with
    teams := teams.foldl (fun t (p : Nat × Team) => Tbl.set t p.1 p.2) s1.teams
    launches := m.launches.foldl (fun t (p : Nat × Launch) => Tbl.set t p.1
      { s1.siftLaunch p.2 with ctx := ctx, issuerCtx := if p.2.own then ctx else p.2.issuerCtx }) s1.launches
    cmds := m.cmds.foldl (fun t (p : Nat × Cmd) => Tbl.set t p.1 { s1.siftCmd p.2 with ctx := ctx }) s1.cmds
    xrecs := s1.xrecs ++ m.xrecs.map fun (r : XRec) => { r with ctx := ctx }
    mem := m.pads.foldl (fun t (b : Host.Cell) => Memory.setByte t b.1 b.2) s1.mem
    tags := (m.padTags.filter fun k =>
      s1.filtered (BitVec.ofNat 128 (m.pads.nat (16 * k) 16)) true).foldl insertNat s1.tags
    poison := m.padPoison.foldl insertNat s1.poison }
  let clean : TeamImage := { m.work with groups := m.work.groups.map fun p => (p.1, s.siftGroup p.2) }
  let s3 := (teams.flatMap fun p => p.2.gkeys.flatMap groupLanes).foldl (fun s lk => s.filterLane lk)
    (s2.putGroups clean mv (s.now - m.savedAt))
  s3.takeLate ctx m

/-- An image of another part loaded: its frames copied, its backing area reserved. -/
def State.restoreForeign (s : State) (ctx : Nat) (f : Foreign) (frames : List (Nat × Extent)) : State :=
  let m := f.image
  let s1 := frames.foldl (fun s p => s.putFrame m.ctx.colour p.1 p.2) s
  let s2 := s1.reserve (backingFrames m.ctx.backing m.ctx.backs.length)
  let top := fun (l : List Nat) (n : Nat) => l.foldl max n
  let s3 := { s2 with
    fresh := top (m.work.teams.map Prod.fst) (top (m.launches.map Prod.fst) (top (m.cmds.map Prod.fst) s2.fresh))
    vers := f.vers.foldl (fun t (p : Nat × KVer) => Tbl.set t p.1 { p.2 with ctx := ctx }) s2.vers
    records := f.records.foldl (fun t (p : Nat × KRec) => Tbl.set t p.1 p.2) s2.records }
  s3.restoreImage ctx ctx m

/-- CONTEXT_RESTORE (R362): on any status but 0 nothing changes. -/
def execContextRestore (image : ImageRef) (ctx : Nat) (s : State) : Res :=
  let answer := fun (s : State) (st : Nat) => (.next (s.send (.service .restore ctx st)) : Res)
  match image with
  | .held n =>
    match s.restoreStatus n ctx, s.images.get? n with
    | 0, some m => answer (s.restoreImage n ctx m) 0
    | st, _ => answer s st
  | .given b frames =>
    let o := openImage s.fresh b
    match s.foreignStatus o ctx frames, o with
    | 0, .image f => answer (s.restoreForeign ctx f frames) 0
    | st, _ => answer s st

/-- Kernel records of a context are released and its versions FREED, when its frames go. -/
def State.dropKernels (s : State) (c : Nat) : State :=
  if (s.ctx c).colour = 0 || s.colourShared c then s
  else
    let mine := (s.vers.filter fun p => p.2.ctx = c).map Prod.fst
    { s with
      records := s.records.filter fun p => !mine.contains p.2.ver
      vers := s.vers.map fun p => if mine.contains p.1 then (p.1, { p.2 with state := .freed }) else p }

/-- CONTEXT_DISCARD (R348): the image is destroyed, the frames go to QUARANTINE. -/
def execContextDiscard (ctx : Nat) (s : State) : Res :=
  if (s.ctx ctx).state ≠ .saved then skipEvent s
  else
    let go := fun st => st = Fst.owned || st = Fst.shared || st = Fst.demoted || st = Fst.absent
    let s1 := (s.framesOf ctx go).foldl (fun s p => (s.quarantine p.1 p.2).settleLease p.1) (s.dropKernels ctx)
    let area := match s1.images.get? ctx with | some m => backingFrames m.ctx.backing m.ctx.backs.length | none => []
    let s2 := { s1 with images := s1.images.erase ctx, ctxs := s1.ctxs.erase ctx }
    .next ((s2.unreserve area).settleVersions.send (.service .discard ctx 0))

/-! ## Reset (R348) -/

/-- CONTEXT_RESET: teams, launches and commands are discarded, queues closed, sync records and dirty lines dropped; the frames
pass through SCRUB. -/
def execContextReset (ctx : Nat) (s : State) : Res :=
  if !(s.ctx ctx).refills then skipEvent s
  else
    let s0 :=
      { s with
        l1 := s.l1.filter fun l => l.ctx ≠ ctx
        sync := s.sync.filter fun r => r.ctx ≠ ctx
        notices := s.notices.filter fun r => r.ctx ≠ ctx
        outst := s.outst.filter fun p => p.2.ctx ≠ ctx
        reqs := s.reqs.filter fun p => p.2.ctx ≠ ctx
        fences := s.fences.filter fun p => p.2.ctx ≠ ctx
        wloads := s.wloads.filter fun p => p.2.ctx ≠ ctx
        mma := s.mma.filter fun p => p.2.ctx ≠ ctx
        launches := s.launches.filter fun p => p.2.ctx ≠ ctx
        cmds := s.cmds.filter fun p => p.2.ctx ≠ ctx
        xrecs := s.xrecs.filter fun r => r.ctx ≠ ctx }
    let s1 := ((s.teams.filter fun p => p.2.ctx = ctx).map Prod.fst).foldl (fun s t => s.removeTeam t) s0
    let s2 := ((s1.queues.filter fun p => p.2.owner = ctx).map Prod.fst).foldl (fun s q => s.closeQueue q) s1
    let scrub := (s2.framesOf ctx fun st => st = Fst.owned || st = Fst.shared).foldl (fun s p =>
      (if p.1 < 393216 then s.promoteFrame p.1 else s).toScrub p.1 p.2 Fst.free 0) (s2.dropKernels ctx)
    .next (((scrub.unreserve (backingFrames (s.ctx ctx).backing (s.ctx ctx).backs.length)).settleVersions).modCtx ctx fun x =>
      { x with backs := [], state := .resetting, clock := s.clock ctx, lq := [], evWait := [], regq := [], slots := [], saving := false })

/-- CONTEXT_RESET_DONE: the banks are scrubbed, the masks cleared, and the number is free. -/
def execContextResetDone (ctx : Nat) (s : State) : Res :=
  if (s.ctx ctx).state = .resetting then
    let s1 := s.vacate ctx
    .next ({ s1 with ctxs := s1.ctxs.erase ctx }.send (.service .reset ctx 0))
  else skipEvent s

/-- Context events that are due. -/
def State.contextDue (s : State) : List Due :=
  s.ctxs.flatMap fun p =>
    (if p.2.state = .resetting then [.contextResetDone p.1] else []) ++
    ((p.2.alloc.filter fun a => s.drainLate p.1 a.1).map fun a => Due.drainDeadline p.1 a.1)

/-- Requests that wait at a port and can leave it. -/
def State.sendsDue (s : State) : List Due :=
  (s.reqs.filter fun p => p.2.sent.isNone && s.sendable p.2.core p.2.ctx).map fun p => .portRequestSend p.2.core p.2.ctx

/-- What takes place at once, before time passes: what falls due at a multiple of the reference counter, and requests whose tokens
have come (R352, R353). -/
def State.instantDue (s : State) : List Due := s.periodDue ++ s.sendsDue

end Sys2Proof.Machine
end

