-- ==== Sys2Proof/Machine/Cross.lean ====
section
/-! DEFINITION. The cross-lane instructions (R183 to R191): each combines the source values of the participating lanes, as
they stood before the instruction. -/

namespace Sys2Proof.Machine

/-- The participating lanes (R183). -/
def State.party (s : State) (g : BitVec 4) : List Nat := s.guardTrue g

/-- The mask of the lanes of a list that satisfy a test. -/
def maskOf (ls : List Nat) (p : Nat → Bool) : DWord := lanesMask ((ls.filter p).map posOf)

/-- A cross-lane instruction: beside its own operands a lane reads field A of the lanes that `takes` gives, and raises POISON for a
poisoned register that it takes there, as for one of its own (R377; log entry 83). `n` is the registers of A, 0 for a
predicate. -/
def crossInstr (i : Instr) (f : FmtT) (n : Nat) (takes : State → Nat → List Nat) (body : State → Nat → LaneRes) (s : State) :
    Res :=
  laneInstr i (fun s lk =>
    let bad := (takes s lk).findSome? fun k => s.poisonedReg k f.a n
    withPoison bad (body s lk)) s

/-- BALLOT's source in lane `i` for the requesting lane `lk` (R185). -/
def ballotSrc (f : FmtT) (s : State) (lk i : Nat) : Bool :=
  if f.mod.getLsbD 2 then (s.reg1 i f.a).getLsbD (s.regB lk f % 32) else s.pred i (f.a.toNat % 8)

/-- BALLOT (R185). -/
def ballotLane (f : FmtT) (s : State) (lk : Nat) : LaneRes :=
  let m := maskOf (s.party f.g) (ballotSrc f s lk)
  if f.ty == 4 then okRegs f.d m.toNat 2
  else okReg f.d (if f.mod.getLsbD 0 then m.extractLsb' 32 32 else m.extractLsb' 0 32)

def execBallot (f : FmtT) (s : State) : Res :=
  crossInstr (.ballot f) f (if f.mod.getLsbD 2 then 1 else 0) (fun s _ => s.party f.g) (ballotLane f) s

/-- VOTE (R186). -/
def voteLane (f : FmtT) (s : State) (_lk : Nat) : LaneRes :=
  let p := fun i => s.pred i (f.a.toNat % 8)
  let ls := s.party f.g
  okPred f.d (match modBits f.mod 1 0 with
    | 0 => ls.all p
    | 1 => ls.any p
    | _ => ls.all p || ls.all fun i => !p i)

def execVote (f : FmtT) (s : State) : Res := laneInstr (.vote f) (voteLane f) s

/-- A shuffle (R187): `src` gives the source lane position, none when out of range. -/
def shflFrom (f : FmtT) (src : Nat → Nat → Option Nat) (s : State) (lk : Nat) : Nat :=
  match src (posOf lk) (s.regB lk f) with
  | some p => let i := groupOf lk * 64 + p; if (s.party f.g).contains i then i else lk
  | none => lk

/-- The value of A in the source lane. -/
def shflLane (f : FmtT) (src : Nat → Nat → Option Nat) (s : State) (lk : Nat) : LaneRes :=
  okTy f.ty.toNat f.d (s.raw (shflFrom f src s lk) f.ty.toNat f.a)

/-- A shuffle instruction. -/
def shflInstr (i : Instr) (f : FmtT) (src : Nat → Nat → Option Nat) (s : State) : Res :=
  crossInstr i f (tyRegs f.ty.toNat) (fun s lk => [shflFrom f src s lk]) (shflLane f src) s

def execShfl (f : FmtT) (s : State) : Res := shflInstr (.shfl f) f (fun _ n => some (n % 64)) s
def execShflx (f : FmtT) (s : State) : Res := shflInstr (.shflx f) f (fun l n => some (l ^^^ (n % 64))) s
def execShflup (f : FmtT) (s : State) : Res := shflInstr (.shflup f) f (fun l n => if l < n then none else some (l - n)) s
def execShfldn (f : FmtT) (s : State) : Res := shflInstr (.shfldn f) f (fun l n => if 64 ≤ l + n then none else some (l + n)) s

/-- The lane whose A PSWAP.lane takes (R188). -/
def pswapFrom (f : FmtT) (s : State) (lk : Nat) : Nat :=
  let i := groupOf lk * 64 + (posOf lk ^^^ 1)
  if f.mod.getLsbD 0 && (s.party f.g).contains i then i else lk

/-- PSWAP's value of A before the sign flips (R188). -/
def pswapSrc (f : FmtT) (s : State) (lk : Nat) : Word :=
  if f.mod.getLsbD 0 then s.reg1 (pswapFrom f s lk) f.a
  else let a := s.reg1 lk f.a; a.extractLsb' 0 16 ++ a.extractLsb' 16 16

/-- PSWAP (R188). -/
def pswapLane (f : FmtT) (s : State) (lk : Nat) : LaneRes :=
  let n0 : Word := if f.mod.getLsbD 2 then 0x8000 else 0
  let n1 : Word := if f.mod.getLsbD 3 then 0x80000000 else 0
  okReg f.d (pswapSrc f s lk ^^^ n0 ^^^ n1)

def execPswap (f : FmtT) (s : State) : Res :=
  crossInstr (.pswap f) f 1 (fun s lk => [pswapFrom f s lk]) (pswapLane f) s

/-- MATCH (R189). -/
def matchLane (f : FmtT) (s : State) (lk : Nat) : LaneRes :=
  let v := fun i => s.raw i f.ty.toNat f.a
  okRegs f.d (maskOf (s.party f.g) fun i => v i = v lk).toNat 2

def execMatchOp (f : FmtT) (s : State) : Res :=
  crossInstr (.matchOp f) f (tyRegs f.ty.toNat) (fun s _ => s.party f.g) (matchLane f) s

/-- The rounded sum of F32 values, with the sign of an exact zero by R67 (R190). -/
def sumF32 (mode : Nat) (l : List FV) : Nat :=
  let r := f32.sumV mode false l
  if r = 0 && !(l.all fun t => t.isZero && !t.neg) then f32.withSign (zeroSign mode) 0 else r

/-- Minimum or maximum of F32 bit patterns, NaN only when every value is NaN (R190, R66). -/
def minMaxF32 (isMax : Bool) : List Nat → Nat
  | [] => f32.withSign isMax f32.infBits
  | a :: l =>
    let r := l.foldl (f32.minMax isMax) a
    if f32.val r = .nan then f32.nan else r

/-- One reduction over raw values (R190), with its identity for none. -/
def reduxOp (op ty mode : Nat) (l : List Nat) : Nat :=
  let w := elemWidth ty
  let ints := l.map (elemOf ty · 0)
  let int := fun (x : Int) => (x % 2 ^ w).toNat
  match op with
  | 0 => if ty = 3 then (if l.isEmpty then 0 else sumF32 mode (l.map f32.val)) else int (ints.foldl (· + ·) 0)
  | 1 => if ty = 3 then minMaxF32 false l else int (ints.foldl min (tyHi ty))
  | 2 => if ty = 3 then minMaxF32 true l else int (ints.foldl max (tyLo ty))
  | 3 => l.foldl (· &&& ·) (2 ^ w - 1)
  | 4 => l.foldl (· ||| ·) 0
  | _ => l.foldl (· ^^^ ·) 0

/-- GREDUX and GSCAN over the lanes that `inS` keeps (R190). -/
def reduxLane (f : FmtT) (inS : Nat → Nat → Bool) (s : State) (lk : Nat) : LaneRes :=
  let ty := f.ty.toNat
  okTy ty f.d (reduxOp (modBits f.mod 6 4) ty (modBits f.mod 1 0)
    (((s.party f.g).filter (inS lk)).map fun i => s.raw i ty f.a))

/-- A reduction instruction. -/
def reduxInstr (i : Instr) (f : FmtT) (inS : Nat → Nat → Bool) (s : State) : Res :=
  crossInstr i f (tyRegs f.ty.toNat) (fun s lk => (s.party f.g).filter (inS lk)) (reduxLane f inS) s

def execGredux (f : FmtT) (s : State) : Res := reduxInstr (.gredux f) f (fun _ _ => true) s
def execGscan (f : FmtT) (s : State) : Res :=
  reduxInstr (.gscan f) f (fun l i => if f.mod.getLsbD 7 then i < l else i ≤ l) s

/-- ACTMASK (R191). -/
def actmaskLane (f : FmtT) (s : State) (lk : Nat) : LaneRes :=
  let st := fun i => s.stateSeen i
  let m : DWord := match modBits f.mod 1 0 with
    | 0 => lanesMask (s.setLanes.map posOf)
    | 1 => maskOf (groupLanes (groupOf lk)) fun i => st i = .active || st i = .trapped
    | 2 => maskOf (groupLanes (groupOf lk)) fun i => match st i with | .asleep _ => true | _ => false
    | _ => maskOf (groupLanes (groupOf lk)) fun i => st i = .trapped || st i = .suspended
  okRegs f.d m.toNat 2

def execActmask (f : FmtT) (s : State) : Res := laneInstr (.actmask f) (actmaskLane f) s

end Sys2Proof.Machine
end

