-- ==== Sys2Proof/Machine/Services.lean ====
section
/-! DEFINITION. The services of the reeve that programs ask for (R331, R375): SVC, and the reeve's answers. -/

namespace Sys2Proof.Machine

/-! ## SVC at issue -/

/-- A service asked for (R375): a release at .dev; the lane set sleeps until the answer. -/
def svcOnce (fn : Nat) (f : FmtS) (s : State) (l : Nat) : State × LaneRes :=
  let c := s.laneCtx l
  let s1 := s.flushAll (s.unitOf c s.cur.core) c
  let (n, s2) := s1.takeNum
  let w : Waiter := ⟨groupOf l, posOf l, lanesMask ((s.guardTrue f.g).map posOf), f.d, 0x140, [], c, false⟩
  let args := (List.range 4).map fun k => s.reg l f.a k
  let cap := (s.quadBits l f.a 1, s.quadTag l f.a 1)
  ({ s2 with jobs := s2.jobs.set n ⟨w, .svc fn args cap, [], none⟩ }, .ok [.sleep (.reeve n)])

/-- WALLTIME; a service number that names no service is of this row too, and is answered as unknown. -/
def execSvcWalltime (f : FmtS) (s : State) : Res := onceInstr (.svcWalltime f) (svcOnce f.fn.toNat f) s
def execSvcQcreate (f : FmtS) (s : State) : Res := onceInstr (.svcQcreate f) (svcOnce 0x10 f) s
def execSvcQclose (f : FmtS) (s : State) : Res := onceInstr (.svcQclose f) (svcOnce 0x11 f) s
def execSvcCommcreate (f : FmtS) (s : State) : Res := onceInstr (.svcCommcreate f) (svcOnce 0x20 f) s
def execSvcCommend (f : FmtS) (s : State) : Res := onceInstr (.svcCommend f) (svcOnce 0x21 f) s
def execSvcBarrmint (f : FmtS) (s : State) : Res := onceInstr (.svcBarrmint f) (svcOnce 0x30 f) s
def execSvcGrantreq (f : FmtS) (s : State) : Res := onceInstr (.svcGrantreq f) (svcOnce 0x40 f) s

/-! ## What the reeve reads -/

/-- The reeve's reads for a job, as an engine of the asking core. -/
def State.jobEng (s : State) (n : Nat) (j : Job) : Eng :=
  ⟨coreOf j.who.gkey, j.who.ctx, (s.ctx j.who.ctx).colour, 0, n, j.buf⟩

/-- Pieces of a range read through a capability. -/
def jobPieces (cap : Quad × Bool) (n : Nat) : List Piece :=
  (granRange (Cap.ofQuad cap.1).cur n).map fun p => ⟨cap, p.1, p.2, false⟩

/-- The bytes of a range, when all of it has been read; `stop` that it cannot be. -/
inductive ReeveRead where
  | bytes (b : List Byte)
  | wait (asks : List (Acc × GateRes))
  | stop (f : Flt)
  deriving DecidableEq, Repr

def State.reeveRead (s : State) (n : Nat) (j : Job) (cap : Quad × Bool) (len : Nat) : ReeveRead :=
  let ps := jobPieces cap len
  let g := s.gather (s.jobEng n j) ps
  match g.bad with
  | some b =>
    let seen := if b.1 = Code.frameState || b.1 = Code.dataLost then BitVec.ofNat 32 (s.stateAt b.2) else 0
    .stop ⟨b.1, BitVec.ofNat 64 b.2, seen, 0⟩
  | none => match j.refused with
  | some (c, a, aux) => .stop ⟨c, BitVec.ofNat 64 a, aux, 0⟩
  | none =>
    if g.ready then .bytes (piecesBytes (ps.map (·.n)) g.vals)
    else .wait g.asks

/-! ## Results -/

/-- What a service answers: status, words of D + 1 and of the pair D + 2 where it names them, and the capability in quad
D + 4. -/
structure Answer where
  status : Nat
  word : Option Word
  pair : Option DWord
  cap : Option Quad
  deriving DecidableEq, Repr

def Answer.of (st : Nat) : Answer := ⟨st, none, none, none⟩

/-- The registers that an answer writes; those that the service does not name take free values (log entry 5). -/
def Answer.writes (a : Answer) (tick : Nat) (d : BitVec 9) : List RegWrite :=
  let free := fun k => Config.freeWord (tick * 8 + k)
  let p := a.pair.getD (free 3 ++ free 2)
  [.reg d 0 (BitVec.ofNat 32 a.status), .reg d 1 (a.word.getD (free 1)), .reg d 2 (p.setWidth 32), .reg d 3 (p.extractLsb' 32 32)] ++
    (match a.cap with
     | some q => [.quad d 1 q true]
     | none => (List.range 4).map fun k => .reg d (4 + k) (free (4 + k)))

/-- A capability argument passes R89 for its kind over a range from its cursor (log entry 47). -/
def capArgOk (colour : Nat) (q : Quad × Bool) (kind len : Nat) : Bool :=
  (checkAccess q colour [kind] 0 (Cap.ofQuad q.1).cur len).isNone

/-- QCREATE (R316). -/
def State.svcQcreate (s : State) (c depth : Nat) : State × Answer :=
  if depth < 2 || 4096 < depth || !(List.range 13).any (fun k => depth = 2 ^ k) then (s, Answer.of 2)
  else
    let (q, s1) := s.takeNum
    let col := (s.ctx c).colour
    ({ s1 with queues := s1.queues.set q ⟨c, depth, .opened, [], [], []⟩ },
      { Answer.of 0 with
        cap := some (Cap.make Kind.queue col (Perm.ld ||| Perm.st ||| Perm.ldc ||| Perm.stc ||| Perm.glob) q 1 q) })

/-- QCLOSE (R317). A queue that is FREE is a bad argument. -/
def State.svcQclose (s : State) (c : Nat) (cap : Quad × Bool) : State × Answer :=
  let q := (Cap.ofQuad cap.1).cur
  if !capArgOk (s.ctx c).colour cap Kind.queue 0 then (s, Answer.of 2)
  else match s.queues.get? q with
    | some x => if x.state = .free then (s, Answer.of 2) else (s.closeQueue q, Answer.of 0)
    | none => (s, Answer.of 2)

/-- A rank that COMMCREATE names, as a word of its list: site, parish index, context (R420). What another device's reeve says of
a rank there is not known here (log entry 48). -/
def State.rankOk (s : State) (colour i : Nat) (w : Nat) : Bool :=
  let p := w / 1024
  if p = s.parish then (let x := s.ctx (w % 1024); x.exists && x.colour = colour)
  else p % 1024 < 640 && Config.freeBool (s.tick * 640 + i)

/-- A communicator number that is not in use; which one is the reeve's choice. -/
def State.freeComm (s : State) : Option Nat :=
  ((List.range 4096).map fun i => (i + Config.pick s.tick) % 4096).find? fun k => (s.comms.get? k).isNone

/-- COMMCREATE (R310). The grants that a communicator sets for the collective engines are no entries of the grant table (log entry
90). -/
def State.svcCommcreate (s : State) (c n : Nat) (b : List Byte) : State × Answer :=
  let col := (s.ctx c).colour
  let ws := (List.range n).map fun i => leAt b (4 * i) 4
  if !((List.range n).zip ws).all fun p => s.rankOk col p.1 p.2 then (s, Answer.of 2)
  else match s.freeComm with
    | none => (s, Answer.of 1)
    | some k =>
      ({ s with comms := s.comms.set k ⟨ws.map fun w => (w / 1024, w % 1024), col, false⟩ },
        { Answer.of 0 with word := some (BitVec.ofNat 32 k) })

/-- COMMEND: only a communicator of the context's colour. -/
def State.svcCommend (s : State) (c n : Nat) : State × Answer :=
  match s.comms.get? n with
  | some m => if m.ended || m.colour ≠ (s.ctx c).colour then (s, Answer.of 2) else (s.endComm n, Answer.of 0)
  | none => (s, Answer.of 2)

/-- BARRMINT: PERM holds ST, which R304 needs; of the PAD capability's other permissions it holds what the reeve chooses (log
entry 46). -/
def State.svcBarrmint (s : State) (w : Waiter) (cap : Quad × Bool) : State × Answer :=
  let k := Cap.ofQuad cap.1
  let m := s.team (s.teamOf w.gkey)
  let perm := Perm.st ||| (k.perm &&& (Config.freeWord (s.tick * 8)).setWidth 12)
  if !capArgOk (s.ctx w.ctx).colour cap Kind.pad 16 || k.cur % 16 ≠ 0 || k.cur < m.padAddr 0 || m.padAddr 256 ≤ k.cur then
    (s, Answer.of 2)
  else (s, { Answer.of 0 with cap := some (Cap.make Kind.barr (s.ctx w.ctx).colour perm k.cur 16 k.cur) })

/-- The bits of an entry of the grant table (R113). -/
def Grant.bits (g : Grant) : BitVec 256 :=
  BitVec.ofNat 64 g.hi ++ BitVec.ofNat 64 g.lo ++ BitVec.ofNat 12 g.colour ++ g.pmask ++ BitVec.ofNat 10 g.target ++ 0#93 ++
    BitVec.ofBool g.valid

/-- GRANTREQ (R113, R375). -/
def State.svcGrantreq (s : State) (c target pmask : Nat) (cap : Quad × Bool) : State × Answer :=
  let k := Cap.ofQuad cap.1
  let col := (s.ctx c).colour
  let g : Grant := ⟨k.top.toNat, k.base.toNat, col, BitVec.ofNat 12 pmask, target, true⟩
  if !(checkAccess cap col [Kind.data] 0 k.base k.len).isNone || 4096 ≤ pmask || !k.has (BitVec.ofNat 12 pmask) ||
      (BitVec.ofNat 12 pmask &&& ~~~0xA03#12) != 0 || 640 ≤ target || target = s.parish || g.lo % 4096 ≠ 0 || g.hi % 4096 ≠ 0 ||
      2 ^ 54 < g.hi || col = 0 then (s, Answer.of 2)
  else match ((List.range 4096).map fun i => (i + Config.pick s.tick) % 4096).find? fun i => !(s.grant i).valid with
    | none => (s, Answer.of 1)
    | some n => ({ s with grants := s.grants.set n g.bits }, { Answer.of 0 with word := some (BitVec.ofNat 32 n) })

/-- How far a service has come: its answer, or what it still has to read. -/
inductive Progress where
  | done (s : State) (a : Answer)
  | wait (asks : List (Acc × GateRes))
  deriving DecidableEq, Repr

/-- A service of SVC carried out. -/
def State.serve (s : State) (n : Nat) (j : Job) (fn : Nat) (args : List Word) (cap : Quad × Bool) : Progress :=
  let c := j.who.ctx
  let a0 := (args.getD 0 0).toNat
  let fin := fun (p : State × Answer) => Progress.done p.1 p.2
  match fn with
  | 0x01 => .done s { Answer.of 0 with pair := some (Config.wallTime s.now) }
  | 0x10 => fin (s.svcQcreate c a0)
  | 0x11 => fin (s.svcQclose c cap)
  | 0x20 =>
    if a0 = 0 || 640 < a0 || !capArgOk (s.ctx c).colour cap Kind.data (4 * a0) then .done s (Answer.of 2)
    else match s.reeveRead n j cap (4 * a0) with
      | .bytes b => fin (s.svcCommcreate c a0 b)
      | .wait asks => .wait asks
      | .stop _ => .done s (Answer.of 2)
  | 0x21 => fin (s.svcCommend c a0)
  | 0x30 => fin (s.svcBarrmint j.who cap)
  | 0x40 => fin (s.svcGrantreq c a0 ((args.getD 1 0).toNat / 2 ^ 16) cap)
  | _ => .done s (Answer.of 0xFFFFFFFF)

/-- What becomes of an MRTLOAD: its status and the table where it is taken, a fault, or more to read. -/
inductive MrtStep where
  | done (st : Nat) (table : Option (List Byte))
  | fault (f : Flt)
  | wait (asks : List (Acc × GateRes))
  deriving DecidableEq, Repr

/-- MRTLOAD at the reeve (R331): the header, then the whole image. -/
def State.mrtStep (s : State) (n : Nat) (j : Job) (cap : Quad × Bool) : MrtStep :=
  let c := Cap.ofQuad cap.1
  match s.reeveRead n j cap 64 with
  | .stop f => .fault f
  | .wait asks => .wait asks
  | .bytes h =>
    let len := 64 + 48 * mrtCount h + sigBytes
    match checkAccess cap (s.ctx j.who.ctx).colour accData Perm.ld c.cur len with
    | some f => .fault f
    | none => match s.reeveRead n j cap len with
      | .stop f => .fault f
      | .wait asks => .wait asks
      | .bytes b =>
        if s.tenantRuns then .done 1 none
        else if mrtOk b then .done 0 (some (mrtBody b))
        else .done 2 none

/-- What a job still has to read. -/
def State.jobAsks (s : State) (n : Nat) (j : Job) : Option (List (Acc × GateRes)) :=
  match j.ask with
  | .svc fn args cap => match s.serve n j fn args cap with | .wait asks => some asks | .done _ _ => none
  | .mrt cap => match s.mrtStep n j cap with | .wait asks => some asks | _ => none
  | .lease .. => some []

/-- A job that can be answered now. -/
def State.answerDue (s : State) (n : Nat) (j : Job) : Bool := !s.engineWaits n && (s.jobAsks n j).isNone

/-- The lane set of a job wakes with its results: an acquire at .dev. -/
def State.answer (s : State) (w : Waiter) (ws : List RegWrite) : State :=
  (s.wakeMask w.gkey w.mask (onceWrites w.acting ws)).acquireDev w.ctx w.gkey

/-- A fault that the acting lane of a lane set takes alone as it wakes; the others go on without a result. -/
def State.faultActing (s : State) (w : Waiter) (f : Flt) : State :=
  let lk := w.gkey * 64 + w.acting
  (s.takeFault lk f ((s.lane lk).site.getD (s.site 0))).wakeMask w.gkey (w.mask &&& ~~~(1#64 <<< w.acting)) fun _ => []

/-- REEVE_ANSWER (R375, R331). A fault of MRTLOAD is taken by the acting lane alone; the others go on without a result. -/
def execReeveAnswer (job : Nat) (s : State) : Res :=
  match s.jobs.get? job with
  | none => skipEvent s
  | some j =>
    if !s.answerDue job j then skipEvent s
    else
      let w := j.who
      let s0 := { s with jobs := s.jobs.erase job }
      match j.ask with
      | .svc fn args cap => match s0.serve job j fn args cap with
        | .done s1 a => .next (s1.answer w (a.writes s.tick w.d))
        | .wait _ => skipEvent s
      | .mrt cap => match s0.mrtStep job j cap with
        | .done st t => .next (({ s0 with mrt := t.getD s0.mrt }).answer w [.reg w.d 0 (BitVec.ofNat 32 st)])
        | .fault f =>
          .next (s0.faultActing w f)
        | .wait _ => skipEvent s
      | .lease .. => skipEvent s

/-- Answers that are due. -/
def State.serviceDue (s : State) : List Due := (s.jobs.filter fun p => s.answerDue p.1 p.2).map fun p => .reeveAnswer p.1

/-- Jobs with requests still to be sent. -/
def State.jobsPump (s : State) : List Nat :=
  (s.jobs.filter fun p => !s.engineWaits p.1 && !((s.jobAsks p.1 p.2).getD []).isEmpty).map Prod.fst

/-- The requests of a job sent. -/
def State.pumpJob (s : State) (n : Nat) : State :=
  match s.jobs.get? n with
  | some j => ((s.jobAsks n j).getD []).foldl (fun s p => s.sendEngine p.1 p.2) s
  | none => s

end Sys2Proof.Machine
end

