-- ==== Sys2Proof/Machine/Lease.lean ====
section
/-! DEFINITION. The lease unit (R392 to R399, R453): LEASEOP, the messages of the handshake at the lender and at the borrower, and
what falls due there. -/

namespace Sys2Proof.Machine

/-! ## The record (R392, R394) -/

/-- TBOUND of an extent. -/
def leaseBound (count : Nat) : Nat := 5000000 + (count * 2097152 + 79) / 80

/-- The 512 bits of a record. -/
def Lease.bits (r : Lease) : BitVec 512 :=
  r.fallback ++ BitVec.ofNat 64 r.term ++ BitVec.ofNat 64 r.tbound ++ BitVec.ofNat 19 r.lframe ++ BitVec.ofNat 18 r.count ++
    BitVec.ofNat 17 r.wframe ++ BitVec.ofNat 12 r.colour ++ BitVec.ofNat 10 r.lender ++ BitVec.ofNat 10 r.borrower ++
    BitVec.ofNat 4 r.state ++ BitVec.ofNat 12 r.id ++ BitVec.ofNat 10 r.bctx ++ 0#16 ++ BitVec.ofNat 64 r.deadline ++ 0#64

/-- The record that an image gives. -/
def Lease.ofBits (b : BitVec 512) (tag asLender : Bool) (now : Nat) : Lease :=
  let f := fun lo n => (b.extractLsb' lo n).toNat
  { fallback := if asLender then 0 else b.extractLsb' 384 128
    fallTag := tag && !asLender
    term := f 320 64
    tbound := leaseBound (f 219 18)
    lframe := f 237 19
    count := f 219 18
    wframe := if asLender then 0 else f 202 17
    colour := f 190 12
    lender := f 180 10
    borrower := f 170 10
    state := if asLender then 1 else 8
    id := f 154 12
    bctx := if asLender then 0 else f 144 10
    deadline := 0
    gen := 0
    asLender := asLender
    who := none
    born := now
    drain := 0
    sent := 0
    num := 0
    left := [] }

/-- Reserved bits of an image. -/
def leaseReserved (b : BitVec 512) : Bool := b.extractLsb' 128 16 != 0 || b.extractLsb' 0 64 != 0

/-- A LEASE capability over record `n` of generation `gen`; its PERM is the firmware's choice (R393; log entry 46). -/
def State.leaseCap (s : State) (n gen : Nat) : Quad :=
  let cur := n + gen * 4096
  Cap.make Kind.lease 0 ((Config.freeWord (s.tick * 8)).setWidth 12) cur 1 cur

/-- The record that a LEASE capability names. -/
def State.leaseOf (s : State) (cur : Nat) : Option (Nat × Lease) :=
  let n := cur % 4096
  match s.leases.get? n with
  | some r => if cur = n + r.gen * 4096 then some (n, r) else none
  | none => none

/-- A record changed to a new state, with its event (R396, R397). -/
def State.moveLease (s : State) (n : Nat) (r : Lease) (st : Nat) : State :=
  let r1 := { r with state := st, deadline := if st = 3 || st = 4 || st = 10 then r.deadline else 0 }
  ({ s with leases := s.leases.set n r1 }).postLease r1 st

/-! ## Frames of a lease -/

/-- The frames that the lender's record names. -/
def Lease.extent (r : Lease) : List Nat := (List.range r.count).map (r.lframe + ·)

/-- The lender's frames, where they lie now (R384). -/
def State.lentFrames (s : State) (r : Lease) : List Nat := r.extent.map (liveFrame s.frames)

/-- The borrower's window frames. -/
def Lease.window (r : Lease) : List Nat := (List.range r.count).map fun i => 393216 + r.wframe + i

/-- Every frame of a list FREE, a RETIRED one by its spare, and none a spare itself (R384). -/
def State.allFree (s : State) (gs : List Nat) : Bool :=
  gs.all fun g => Fst.state (frameEntry s.frames (liveFrame s.frames g)) = Fst.free && !s.spares.contains g

/-- Frames written to a state. -/
def State.stateFrames (s : State) (gs : List Nat) (st : Nat) : State :=
  gs.foldl (fun s g => s.setEntry g (Fst.setState (frameEntry s.frames g) st)) s

/-- The lender's frames scrubbed to FREE. -/
def State.scrubFrames (s : State) (gs : List Nat) : State :=
  gs.foldl (fun s g => s.toScrub g (frameEntry s.frames g) Fst.free 0) s

/-- The first fallback frame of a record. -/
def Lease.fallFrame (r : Lease) : Nat :=
  let b := (Cap.ofQuad r.fallback).base.toNat
  (frameOf b).getD 0

/-- FALLBACK keeps R395. -/
def State.fallbackOk (s : State) (r : Lease) : Bool :=
  let c := Cap.ofQuad r.fallback
  let g := r.fallFrame
  let b := c.base.toNat
  let room := match regionOf b with
    | .local => g + r.count ≤ 393216
    | .host => g + r.count ≤ maxFrame + 1
    | _ => false
  r.fallTag && c.wf && c.kind = Kind.data && c.colour = r.colour && c.has Perm.st && b % 0x200000 = 0 &&
    r.count * 0x200000 ≤ c.len && room &&
    (List.range r.count).all fun i =>
      let e := frameEntry s.frames (liveFrame s.frames (g + i))
      Fst.state e = Fst.owned && Fst.colour e = r.colour && !s.spares.contains (g + i)

/-- The payload of TIER_DEMOTE and DATA_LOST. -/
def leasePayload (r : Lease) (g : Nat) : BitVec 176 :=
  BitVec.ofNat 10 r.lender ++ BitVec.ofNat 12 r.id ++ BitVec.ofNat 17 r.wframe ++ BitVec.ofNat 18 r.count ++
    BitVec.ofNat 20 g ++ 0#99

/-- An event for the borrowing context, while it exists. -/
def State.postBorrower (s : State) (r : Lease) (type flags : Byte) (g : Nat) : State :=
  let x := s.ctx r.bctx
  if x.state ≠ .free && x.colour = r.colour then s.post r.bctx type flags (leasePayload r g) srcLease else s

/-- A message to the other party. -/
def State.leaseTell (s : State) (r : Lease) (m : LeaseMsg) : State :=
  let peer := if r.asLender then r.borrower else r.lender
  s.sendBody peer (.lease m r.id)

/-! ## Moves of a record -/

/-- The lender's frames go to RECLAIM, and the bound runs. -/
def State.startReclaim (s : State) (n : Nat) (r : Lease) : State :=
  (s.stateFrames (s.lentFrames r) Fst.reclaim).moveLease n { r with deadline := s.now + r.tbound } 3

/-- The lender's lease ends: its frames are scrubbed. -/
def State.returnLease (s : State) (n : Nat) (r : Lease) : State :=
  (s.moveLease n { r with left := r.extent } 5).scrubFrames (s.lentFrames r)

/-- The borrower's frames go to DRAINING, and the bound runs. -/
def State.startDrain (s : State) (n : Nat) (r : Lease) : State :=
  (s.stateFrames r.window Fst.draining).moveLease n { r with deadline := s.now + r.tbound, drain := 0 } 10

/-- The first and the last address of a record's window frames, the last not in it. -/
def Lease.windowAddrs (r : Lease) : Nat × Nat := (frameAddr (393216 + r.wframe), frameAddr (393216 + r.wframe + r.count))

/-- The borrower's frames become ABSENT: ARG and LEASE read 0 there (R379, R380). -/
def State.absentFrames (s : State) (gs : List Nat) : State :=
  gs.foldl (fun s g =>
    let e := frameEntry s.frames g
    s.setEntry g (Fst.mk 0 0 (Fst.tier e) (Fst.nocache e) (Fst.tagsum e) (Fst.colour e) Fst.absent)) s

/-- The borrower's extent is lost: ABSENT frames, no line of them in the memory-side cache, and DATA_LOST with its cause. -/
def State.loseLease (s : State) (n : Nat) (r : Lease) (cause : Nat) : State :=
  (((s.mscDrop r.windowAddrs.1 r.windowAddrs.2).absentFrames r.window).moveLease n { r with left := r.window } 12).postBorrower r Ev.dataLost (BitVec.ofNat 8 (2 * cause)) 0

/-- The lane set of an ACCEPTING record wakes. -/
def State.wakeAccept (s : State) (r : Lease) (ws : Waiter → List RegWrite) : State :=
  match r.who with
  | some w => s.wakeMask w.gkey w.mask (onceWrites w.acting (ws w))
  | none => s

/-! ## LEASEOP (R399) -/

/-- The engine view with which a record is written, under a number of its own. -/
def State.leaseEng (s : State) (l : Nat) : Eng := ⟨s.cur.core, s.laneCtx l, s.laneColour l, 0, s.fresh + 1, []⟩

/-- The checks of a 64-byte range. R399 names DATA as the kind of its capability, and so its own `acc` (R89; log entry 79). -/
def State.leaseRange (s : State) (l : Nat) (q : Quad × Bool) (perm : BitVec 12) (isStore : Bool) : Except Flt Nat :=
  match s.accPre (s.laneColour l) q [Kind.data] perm (Cap.ofQuad q.1).cur 64 64 isStore with
  | .error e => .error e
  | .ok a => match s.accPlace (s.laneCtx l) s.cur.core (s.laneColour l) a 16 isStore false false with
    | .error e => .error e
    | .ok _ => .ok a

/-- What reading a record image comes to: the image with the tag of its FALLBACK, a fault, or more to read. -/
inductive ImageRead where
  | image (b : BitVec 512) (tag : Bool)
  | fault (f : Flt)
  | wait (asks : List (Acc × GateRes))
  deriving DecidableEq, Repr

/-- A record image read for a job. -/
def State.leaseImage (s : State) (n : Nat) (j : Job) (q : Quad × Bool) : ImageRead :=
  match s.reeveRead n j q 64 with
  | .stop f => .fault f
  | .wait asks => .wait asks
  | .bytes b =>
    let v := BitVec.ofNat 512 (bytesNat b)
    let tag := match (s.gather (s.jobEng n j) (jobPieces q 64)).vals with | [_, _, _, g] => g.tag | _ => false
    .image v ((Cap.ofQuad q.1).has Perm.ldc && s.filtered (v.extractLsb' 384 128) tag)

/-- The lowest record index that is free. -/
def State.freeLeaseSlot (s : State) : Option Nat := (List.range 4096).find? fun k => (s.leases.get? k).isNone

/-- The lowest lease ID that is free among the records as lender. -/
def State.freeLeaseId (s : State) : Option Nat :=
  (List.range 4096).find? fun k => !s.leases.any fun p => p.2.asLender && p.2.id = k

/-- The status of an offer, or the record made. -/
def State.offer (s : State) (b : BitVec 512) : Nat ⊕ (Nat × Lease) :=
  let r := Lease.ofBits b false true s.now
  if r.lender ≠ s.parish || 640 ≤ r.borrower || r.borrower = s.parish || r.count = 0 || 131072 < r.count ||
      393216 < r.lframe + r.count || r.colour = 0 || leaseReserved b then .inl 1
  else if !s.allFree r.extent then .inl 2
  else match s.freeLeaseSlot, s.freeLeaseId with
    | some n, some id => .inr (n, { r with id := id, gen := s.leaseGens.getD n 0 })
    | _, _ => .inl 3


/-- The status of an acceptance, or the record made. -/
def State.acceptLease (s : State) (b : BitVec 512) (tag : Bool) : Nat ⊕ (Nat × Lease) :=
  let r := Lease.ofBits b tag false s.now
  let x := s.ctx r.bctx
  if r.borrower ≠ s.parish || 131072 < r.wframe + r.count || !(x.exists && x.colour = r.colour) || !s.fallbackOk r ||
      leaseReserved b then .inl 1
  else if !s.allFree r.window then .inl 2
  else match s.freeLeaseSlot with
    | some n => .inr (n, { r with gen := s.leaseGens.getD n 0 })
    | none => .inl 3

/-- What LEASEOP.offer or .accept does with an image: the registers it writes, or the record for whose answer the lane set sleeps, to
whose lender ACCEPT goes. -/
def State.leaseAct (s : State) (accept : Bool) (w : Waiter) (b : BitVec 512) (tag : Bool) : State × (List RegWrite ⊕ Nat) :=
  if accept then
    match s.acceptLease b tag with
    | .inl st => (s, .inl [.reg w.d 0 (BitVec.ofNat 32 st)])
    | .inr (n, r) =>
      ((s.moveLease n { r with who := some w } 8).sendBody r.lender (.accept ⟨s.parish, r.id, r.count, r.colour, r.wframe⟩), .inr n)
  else match s.offer b with
    | .inl st => (s, .inl [.reg w.d 0 (BitVec.ofNat 32 st)])
    | .inr (n, r) => (s.moveLease n r 1, .inl [.reg w.d 0 0, .quad w.b 0 (s.leaseCap n r.gen) true])

/-- LEASEOP.offer and .accept: an image that does not lie on this device is asked for first, while the lane set sleeps (log
entry 49). -/
def leaseopImageOnce (f : FmtT) (accept : Bool) (s : State) (l : Nat) : State × LaneRes :=
  let q := s.quad l f.a
  match s.leaseRange l q Perm.ld false with
  | .error e => (s, .error e)
  | .ok _ =>
    let (n, s1) := (s.flushAll (s.unitOf (s.laneCtx l) s.cur.core) (s.laneCtx l)).takeNum
    let w := s.waiter f.g l f.d f.b
    let j : Job := ⟨w, .lease accept q, [], none⟩
    match s1.leaseImage n j q with
    | .fault e => (s, .error e)
    | .wait _ => ({ s1 with jobs := s1.jobs.set n j }, .ok [.sleep (.reeve n)])
    | .image b tag => match s1.leaseAct accept w b tag with
      | (s2, .inl ws) => (s2, .ok (ws.map .rw))
      | (s2, .inr k) => (s2, .ok [.sleep (.lease k)])

/-- The image of a LEASEOP that sleeps has come: it acts, and the lane set wakes with the result or sleeps on for the lender's answer.
A refusal of the reads is the acting lane's fault. -/
def State.leaseGoOn (s : State) (n : Nat) (j : Job) (accept : Bool) (q : Quad × Bool) : State :=
  let w := j.who
  let s0 := { s with jobs := s.jobs.erase n }
  match s0.leaseImage n j q with
  | .wait asks => asks.foldl (fun s p => s.sendEngine p.1 p.2) s
  | .fault f => s0.faultActing w f
  | .image b tag => match s0.leaseAct accept w b tag with
    | (s1, .inl ws) => s1.wakeMask w.gkey w.mask (onceWrites w.acting ws)
    | (s1, .inr k) => (maskLanes w.mask).foldl (fun s p => s.modLane (w.gkey * 64 + p) fun x => { x with sleep := some (.lease k) }) s1

/-- The LEASEOP of a number goes on. -/
def State.leaseResume (s : State) (n : Nat) : State :=
  match s.jobs.get? n with
  | some j => (match j.ask with | .lease accept q => s.leaseGoOn n j accept q | _ => s)
  | none => s

/-- LEASEOPs whose image has come, or has still to be asked for. -/
def State.leaseImages (s : State) : List Nat :=
  (s.jobs.filter fun p => !s.engineWaits p.1 && (match p.2.ask with
    | .lease _ q => (match s.leaseImage p.1 p.2 q with | .wait asks => !asks.isEmpty | _ => true)
    | _ => false)).map Prod.fst

def execLeaseopOffer (f : FmtT) (s : State) : Res := onceInstr (.leaseopOffer f) (leaseopImageOnce f false) s

def execLeaseopAccept (f : FmtT) (s : State) : Res := onceInstr (.leaseopAccept f) (leaseopImageOnce f true) s

/-- A form that names a record: its status, or the record. -/
def leaseNamed (f : FmtT) (s : State) (l : Nat) (act : Nat → Lease → Option State) : State × LaneRes :=
  let q := s.quad l f.a
  match checkAccess q (s.laneColour l) [Kind.lease] 0 (Cap.ofQuad q.1).cur 0 with
  | some e => (s, .error e)
  | none =>
    match (s.leaseOf (Cap.ofQuad q.1).cur).bind fun x => act x.1 x.2 with
    | some s1 => (s1, okReg f.d 0)
    | none => (s, okReg f.d 4)

/-- The lender withdraws an offer, or starts a reclaim. -/
def State.reclaimLease (s : State) (n : Nat) (r : Lease) : Option State :=
  if r.asLender && r.state = 1 then some (s.freeLease n)
  else if r.asLender && r.state = 2 then some ((s.startReclaim n r).leaseTell r .reclaim)
  else none

def execLeaseopReclaim (f : FmtT) (s : State) : Res :=
  onceInstr (.leaseopReclaim f) (fun s l => leaseNamed f s l s.reclaimLease) s

/-- The borrower starts the handshake. -/
def State.releaseLease (s : State) (n : Nat) (r : Lease) : Option State :=
  if !r.asLender && r.state = 9 then some ((s.startDrain n r).leaseTell r .release) else none

def execLeaseopRelease (f : FmtT) (s : State) : Res :=
  onceInstr (.leaseopRelease f) (fun s l => leaseNamed f s l s.releaseLease) s

/-- Either party forces the end; the peer is told. -/
def State.forceLease (s : State) (n : Nat) (r : Lease) : Option State :=
  if r.asLender then
    if r.state = 2 || r.state = 3 || r.state = 4 then some ((s.returnLease n r).leaseTell r (.force false)) else none
  else if r.state = 9 || r.state = 10 then some ((s.loseLease n r 1).leaseTell r (.force true)) else none

def execLeaseopForce (f : FmtT) (s : State) : Res :=
  onceInstr (.leaseopForce f) (fun s l => leaseNamed f s l s.forceLease) s

/-- LEASEOP.query. -/
def leaseopQueryOnce (f : FmtT) (s : State) (l : Nat) : State × LaneRes :=
  let q := s.quad l f.a
  let b := s.quad l f.b
  match s.leaseRange l b Perm.st true with
  | .error e => (s, .error e)
  | .ok a => match checkAccess q (s.laneColour l) [Kind.lease] 0 (Cap.ofQuad q.1).cur 0 with
    | some e => (s, .error e)
    | none => match s.leaseOf (Cap.ofQuad q.1).cur with
      | none => (s, okReg f.d 4)
      | some (_, r) =>
        let e := s.leaseEng l
        let s1 := s.takeNum.2.flushAll (s.unitOf (s.laneCtx l) s.cur.core) (s.laneCtx l)
        ((List.range 4).foldl (fun s i =>
          s.engineWrite e b (a + 16 * i) 16 (r.bits.extractLsb' (128 * i) 128) false false) s1, okReg f.d 0)

def execLeaseopQuery (f : FmtT) (s : State) : Res := onceInstr (.leaseopQuery f) (leaseopQueryOnce f) s

/-! ## The lender's side (R396) -/

/-- The lender's record of a lease ID. -/
def State.lenderRec (s : State) (borrower id : Nat) : Option (Nat × Lease) :=
  s.leases.find? fun p => p.2.asLender && p.2.borrower = borrower && p.2.id = id

/-- LEASE_ACCEPT_MSG. -/
def execLeaseAcceptMsg (m : LeaseAccept) (s : State) : Res :=
  match s.lenderRec m.borrower m.id with
  | some (n, r) =>
    if r.state = 1 && r.count = m.count && r.colour = m.colour && s.allFree r.extent then
      let r1 := { r with wframe := m.wframe }
      let s1 := ((List.range r.count).zip (s.lentFrames r)).foldl (fun s p =>
        let e := frameEntry s.frames p.2
        s.setEntry p.2 (Fst.mk (r.borrower * 2 ^ 22 + m.wframe + p.1) r.id (Fst.tier e) (Fst.nocache e) (Fst.tagsum e)
          r.colour Fst.lent)) s
      .next ((s1.moveLease n r1 2).leaseTell r1 (.granted r.lframe))
    else .next (s.sendBody m.borrower (.lease .refused m.id))
  | none => .next (s.sendBody m.borrower (.lease .refused m.id))

/-- The lender's counter has reached TERM. -/
def Lease.termDue (r : Lease) (now : Nat) : Bool := r.asLender && r.state = 2 && r.term ≠ 0 && r.term ≤ now

/-- LEASE_TERM. -/
def execLeaseTerm (record : Nat) (s : State) : Res :=
  match s.leases.get? record with
  | some r => if r.termDue s.now then .next ((s.startReclaim record r).leaseTell r .reclaim) else skipEvent s
  | none => skipEvent s

/-- LEASE_RELEASE_MSG. -/
def execLeaseReleaseMsg (borrower id : Nat) (s : State) : Res :=
  match s.lenderRec borrower id with
  | some (n, r) => if r.state = 2 then .next (s.startReclaim n r) else skipEvent s
  | none => skipEvent s

/-- LEASE_DRAINED: the copy begins. -/
def execLeaseDrained (borrower id : Nat) (s : State) : Res :=
  match s.lenderRec borrower id with
  | some (n, r) => if r.state = 3 then .next (s.takeNum.2.moveLease n { r with sent := 0, num := s.fresh + 1 } 4) else skipEvent s
  | none => skipEvent s

/-- The copy of a lease goes on. -/
def Lease.copying (r : Lease) (now : Nat) : Bool := r.asLender && r.state = 4 && now < r.deadline

/-- Bytes of an extent. -/
def Lease.bytes (r : Lease) : Nat := r.count * 0x200000

/-- Copies with something left to send. -/
def State.copiesDue (s : State) : List Nat := (s.leases.filter fun p => p.2.copying s.now && p.2.sent < p.2.bytes).map Prod.fst

/-- The next 128 bytes of the reclaim copy (R398, R415): a store to the borrower's window with the tags of its granules, after the engine
filter, and their poison; the borrower writes them into the fallback frames. -/
def State.copyOn (s : State) (n : Nat) : State :=
  match s.leases.get? n with
  | none => s
  | some r =>
    if !(r.copying s.now && r.sent < r.bytes) then s
    else
      let a := frameAddr (liveFrame s.frames (r.lframe + r.sent / 0x200000)) + r.sent % 0x200000
      let b := r.windowAddrs.1 + r.sent
      let grans := (List.range 8).map (a + 16 * ·)
      let m : FabMsg := { FabMsg.zero with
        dst := r.borrower, grant := r.id, colour := r.colour, op := 6, sub := 1, path := pathLabel b, addr := BitVec.ofNat 54 b, len := 128,
        ty := 6, data := natBytes 128 (s.mem.nat a 128)
        tags := grans.map fun p => s.filtered (s.granData p) (s.granTag p)
        poison := grans.map s.granPoison }
      let s1 := { s with leases := s.leases.set n { r with sent := r.sent + 128 } }
      let (k, s2) := s1.takeNum
      let (s3, rn) := s2.sendRequest m
      { s3 with outst := s3.outst.set k { Acc.posted b 128 r.num s.now (r.borrower, rn) 0 with passed := none } }

/-- Every byte of a copy has been sent and acknowledged. -/
def State.copyDue (s : State) (r : Lease) : Bool := r.copying s.now && r.bytes ≤ r.sent && !s.engineWaits r.num

/-- LEASE_COPY_DONE: COPIED is sent, and the frames are scrubbed. -/
def execLeaseCopyDone (record : Nat) (s : State) : Res :=
  match s.leases.get? record with
  | some r => if s.copyDue r then .next ((s.leaseTell r .copied).returnLease record r) else skipEvent s
  | none => skipEvent s

/-! ## The borrower's side (R397) -/

/-- The borrower's record of a lease that is BORROWED or DRAINING. -/
def State.borrowerRec (s : State) (lender id : Nat) : Option (Nat × Lease) :=
  s.leases.find? fun p => !p.2.asLender && p.2.lender = lender && p.2.id = id && (p.2.state = 9 || p.2.state = 10)

/-- The borrower's record that waits for the lender's answer. -/
def State.acceptingRec (s : State) (lender id : Nat) : Option (Nat × Lease) :=
  s.leases.find? fun p => !p.2.asLender && p.2.lender = lender && p.2.id = id && p.2.state = 8

/-- LEASE_GRANTED: the window frames name the lender's frames by the record's LFRAME. -/
def execLeaseGranted (lender id _lframe : Nat) (s : State) : Res :=
  match s.acceptingRec lender id with
  | some (n, r) =>
    let put := fun (s : State) (p : Nat × Nat) =>
      let e := frameEntry s.frames p.2
      s.setEntry p.2 (Fst.mk (lender * 2 ^ 22 + r.lframe + p.1) id 1 (Fst.nocache e) (Fst.tagsum e) r.colour Fst.borrowed)
    let s1 := ((List.range r.count).zip r.window).foldl put s
    let s2 := s1.moveLease n { r with who := none } 9
    .next (s2.wakeAccept r fun w => [.reg w.d 0 0, .quad w.b 0 (s.leaseCap n r.gen) true])
  | none => skipEvent s

/-- An ACCEPTING record is freed, and its lane set wakes with status 5. -/
def State.refuseLease (s : State) (n : Nat) (r : Lease) : State :=
  (s.freeLease n).wakeAccept r fun w => [.reg w.d 0 5]

/-- LEASE_REFUSED. -/
def execLeaseRefused (lender id : Nat) (s : State) : Res :=
  match s.acceptingRec lender id with
  | some (n, r) => .next (s.refuseLease n r)
  | none => skipEvent s

/-- No answer in 16,777,216 cycles. -/
def Lease.acceptLate (r : Lease) (now : Nat) : Bool := r.state = 8 && r.born + 16777216 ≤ now

/-- LEASE_ACCEPT_TIMEOUT. -/
def execLeaseAcceptTimeout (record : Nat) (s : State) : Res :=
  match s.leases.get? record with
  | some r => if r.acceptLate s.now then .next (s.refuseLease record r) else skipEvent s
  | none => skipEvent s

/-- LEASE_RECLAIM_MSG. -/
def execLeaseReclaimMsg (lender id : Nat) (s : State) : Res :=
  match s.borrowerRec lender id with
  | some (n, r) => if r.state = 9 then .next (s.startDrain n r) else skipEvent s
  | none => skipEvent s

/-- An address in a record's window. -/
def Lease.covers (r : Lease) (a : Nat) : Bool := r.windowAddrs.1 ≤ a && a < r.windowAddrs.2

/-- An access to an extent has passed a gate and is not answered yet, or a write-back of one of its lines is not (R398, step 3). -/
def State.drainOwed (s : State) (r : Lease) : Bool :=
  s.outst.any fun p => p.2.peer.isNone && (match p.2.passed with | some (.lender _ _) => true | _ => false) && r.covers p.2.addr

/-- The next part of a drain can take place. -/
def State.drainReady (s : State) (r : Lease) : Bool := !r.asLender && r.state = 10 && r.drain < 2 && !s.drainOwed r

/-- Every line of an extent that the memory-side cache holds. -/
def State.windowLines (s : State) (r : Lease) : List Nat :=
  ((s.msc.flatMap Prod.snd).map fun l => 128 * l.line).filter r.covers

/-- LEASE_DRAIN_DONE (R398, step 3): with every access answered, the lines of the extent are written back and dropped; with these too
acknowledged, the borrower sends DRAINED. -/
def execLeaseDrainDone (record : Nat) (s : State) : Res :=
  match s.leases.get? record with
  | some r =>
    if !s.drainReady r then skipEvent s
    else
      let s1 := (s.windowLines r).foldl (fun s a => s.mscFlush a) s
      let clean := !s1.drainOwed r
      let s2 := { s1 with leases := s1.leases.set record { r with drain := if clean then 2 else 1 } }
      .next (if clean then s2.leaseTell r .drained else s2)
  | none => skipEvent s

/-- Where the borrower writes what the reclaim copy brings for an address of the window (R395, R398): nowhere unless it drains and the
fallback is as it was at acceptance. -/
def State.copyTo (s : State) (src id a : Nat) : Option GateRes :=
  match s.leases.find? fun p => !p.2.asLender && p.2.lender = src && p.2.id = id && p.2.state = 10 && p.2.covers a with
  | none => none
  | some (_, r) =>
    if !s.fallbackOk r || r.deadline ≤ s.now then none
    else some (gate s.frames s.spares r.colour (frameAddr r.fallFrame + (a - r.windowAddrs.1)) true)

/-- The window frames become DEMOTED (R398, step 5). -/
def State.demote (s : State) (r : Lease) : State :=
  let g := r.fallFrame
  let tier := if g < 393216 then 0 else 2
  ((List.range r.count).zip r.window).foldl (fun s p =>
    let e := frameEntry s.frames p.2
    s.setEntry p.2 (Fst.mk (g + p.1) (Fst.lease e) tier (Fst.nocache e) (Fst.tagsum e) (Fst.colour e) Fst.demoted)) s

/-- LEASE_COPIED. -/
def execLeaseCopied (lender borrower id : Nat) (s : State) : Res :=
  match s.borrowerRec lender id with
  | some (n, r) =>
    if r.state ≠ 10 || borrower ≠ s.parish then skipEvent s
    else if r.deadline ≤ s.now then .next (s.loseLease n r 2)
    else if !s.fallbackOk r then .next (s.loseLease n r 4)
    else .next (((s.demote r).moveLease n { r with left := r.window } 11).postBorrower r Ev.tierDemote 0 r.fallFrame)
  | none => skipEvent s

/-- LEASE_ABORT. -/
def execLeaseAbort (lender id : Nat) (s : State) : Res :=
  match s.borrowerRec lender id with
  | some (n, r) => if r.state = 10 then .next (s.loseLease n r 2) else skipEvent s
  | none => skipEvent s

/-! ## Either side -/

/-- LEASE_FORCE_MSG: `asLender` says that this device is the lender, which answers with FORCE (R396); a borrower whose frames are
ABSENT ignores it. -/
def execLeaseForceMsg (peer id : Nat) (asLender : Bool) (s : State) : Res :=
  if asLender then
    match s.lenderRec peer id with
    | some (n, r) =>
      if r.state = 2 || r.state = 3 || r.state = 4 then .next ((s.returnLease n r).leaseTell r (.force false)) else skipEvent s
    | none => skipEvent s
  else match s.borrowerRec peer id with
    | some (n, r) => if r.state = 9 || r.state = 10 then .next (s.loseLease n r 0) else skipEvent s
    | none => skipEvent s

/-- A unit's DEADLINE has passed. -/
def Lease.deadlineDue (r : Lease) (now : Nat) : Bool := (r.state = 3 || r.state = 4 || r.state = 10) && r.deadline ≤ now

/-- LEASE_DEADLINE. -/
def execLeaseDeadline (record : Nat) (s : State) : Res :=
  match s.leases.get? record with
  | some r =>
    if !r.deadlineDue s.now then skipEvent s
    else if r.asLender then .next ((s.returnLease record r).leaseTell r .abort)
    else .next (s.loseLease record r 2)
  | none => skipEvent s

/-- A peer has become unreachable (R396, R397, R408). -/
def State.leaseLost (s : State) (peer : Nat) : State :=
  s.leases.foldl (fun s p =>
    let r := p.2
    if r.asLender && r.borrower = peer && (r.state = 2 || r.state = 3 || r.state = 4) then s.returnLease p.1 r
    else if !r.asLender && r.lender = peer && (r.state = 9 || r.state = 10) then s.loseLease p.1 r 3
    else s) s

/-- Lease events that are due. -/
def State.leaseDue (s : State) : List Due :=
  s.leases.flatMap fun p =>
    (if p.2.termDue s.now then [.leaseTerm p.1] else []) ++ (if p.2.acceptLate s.now then [.leaseAcceptTimeout p.1] else []) ++
    (if s.drainReady p.2 then [.leaseDrainDone p.1] else []) ++ (if s.copyDue p.2 then [.leaseCopyDone p.1] else []) ++ (if p.2.deadlineDue s.now then [.leaseDeadline p.1] else [])

/-- A message of the handshake runs its row. -/
def State.takeLease (s : State) (src : Nat) (b : MsgBody) : State :=
  let r := match b with
    | .accept m => execLeaseAcceptMsg m s
    | .lease (.granted l) id => execLeaseGranted src id l s
    | .lease .refused id => execLeaseRefused src id s
    | .lease .reclaim id => execLeaseReclaimMsg src id s
    | .lease .release id => execLeaseReleaseMsg src id s
    | .lease .drained id => execLeaseDrained src id s
    | .lease .copied id => execLeaseCopied src s.parish id s
    | .lease .abort id => execLeaseAbort src id s
    | .lease (.force l) id => execLeaseForceMsg src id l s
    | _ => .next s
  match r with | .next t => t | _ => s

end Sys2Proof.Machine
end

