-- ==== Sys2Proof/Machine/Wait.lean ====
section
/-! DEFINITION. WAITA (R226), its polls and its timeout, and how a sleeping lane wakes (R126, R171, R227). -/

namespace Sys2Proof.Machine

/-- The condition of a WAITA (R226). -/
def waitCond (cond : Nat) (word b : Nat) : Bool :=
  match cond with
  | 0 => word = b
  | 1 => word ≠ b
  | 2 => b ≤ word
  | _ => word &&& b ≠ 0

/-- Bytes of the word. -/
def WaitWord.size (w : WaitWord) : Nat := if w.wide then 8 else 4

/-- The read of a sleeping lane's word, as an access of its thread: an acquire load at the WAITA's scope. -/
def State.waitAcc (s : State) (lk : Nat) (w : WaitWord) : Acc :=
  { kind := .load
    place := .gate
    team := s.laneTeam lk
    tid := (s.lane lk).tid
    core := coreOf (groupOf lk)
    ctx := s.laneCtx lk
    colour := s.laneColour lk
    addr := w.addr
    size := w.size
    ty := 4
    aop := 0
    ord := 2
    scope := w.scope
    cl := 0
    val := 0
    cmp := 0
    tag := false
    poison := false
    d := none
    dk := 0
    caps := false
    ldc := false
    cache := true
    ofl := false
    peer := none
    since := s.now
    batch := 0
    req := 0
    fenced := false
    passed := none
    site := none }

/-- The word read where R226 has its scope performed: in the L1, at the home slice after any promotion, at the pad, in the control
window, where a demoted frame lies, or in the slice that holds a lender's line. A word that the gate does not let through now is not
observed; another word of a lender, or one of the host, is observed at its polls. -/
def State.waitRead (s : State) (lk : Nat) (w : WaitWord) : State × Option AccVal :=
  let x := s.waitAcc lk w
  let some' := fun (p : State × AccVal) => (p.1, some p.2)
  match s.gateOf x with
  | .zero => (s, some ⟨0, false, false⟩)
  | .go p _ =>
    match regionOf w.addr with
    | .local =>
      if s.atHome x then
        let (s1, v) := (s.promoteNow (p / 16)).performAt p x
        (s1.dropClean (s.unitOf x.ctx x.core) x.ctx (w.addr / 16), some v)
      else some' (s.performL1 (s.unitOf x.ctx x.core) x)
    | .control => some' (s.performControl x)
    | _ => some' (s.performAt p x)
  | .host _ => (s, w.last.map fun n => ⟨BitVec.ofNat 128 n, false, false⟩)
  | .lender _ _ =>
    (s, match s.sliceRead w.addr w.size with | some v => some v | none => w.last.map fun n => ⟨BitVec.ofNat 128 n, false, false⟩)
  | _ => (s, none)

/-- Whether the condition holds of the word now. -/
def State.waitHolds (s : State) (lk : Nat) (w : WaitWord) : Bool :=
  match (s.waitRead lk w).2 with
  | some v => waitCond w.cond v.val.toNat w.cmp.toNat
  | none => false

/-- The registers that a WAITA writes. -/
def WaitWord.writes (w : WaitWord) (v : AccVal) : List RegWrite :=
  if w.d.toNat = 0x140 then []
  else regWrites w.d v.val.toNat (w.size / 4) ++
    (if v.poison then (List.range (w.size / 4)).map fun k => RegWrite.bad w.d k else [])

/-- The discard of an acquire by a WAITA (R242). -/
def State.waitAcquire (s : State) (lk : Nat) (w : WaitWord) : State :=
  let c := s.laneCtx lk
  if 2 ≤ w.scope then s.discardClean (s.unitOf c (coreOf (groupOf lk))) c else s

/-- The word that a lane's WAITA names. -/
def waitWord (f : FmtX) (s : State) (lk : Nat) (x : Nat) (low : Bool) : WaitWord :=
  let wide := f.xo.getLsbD 2
  let c := (s.reg1 lk f.c).toNat
  { addr := x
    wide := wide
    cond := f.xo.toNat % 4
    scope := f.bar.toNat
    cmp := if wide then s.pair lk f.b else (s.reg1 lk f.b).setWidth 64
    polls := regionOf x = .host || regionOf x = .borrowed
    d := if 0x100 ≤ f.d.toNat && !low then 0x140 else f.d
    deadline := if c = 0 then none else some (s.now + c)
    polled := s.now
    last := none }

/-- The checks of WAITA for one lane. -/
def waitCheck (f : FmtX) (s : State) (lk : Nat) : Except Flt (Nat × GateRes) :=
  let n := if f.xo.getLsbD 2 then 8 else 4
  let q := s.quad lk f.a
  match s.accPre (s.laneColour lk) q accLocal Perm.ld (Cap.ofQuad q.1).cur n n false with
  | .error e => .error e
  | .ok x => match s.accPlace (s.laneCtx lk) s.cur.core (s.laneColour lk) x n false false false with
    | .error e => .error e
    | .ok g => .ok (x, g)

/-- A lender is asked for a polled word; the answer is observed when it arrives (log entry 24). -/
def State.askLender (s : State) (lk : Nat) (w : WaitWord) (peer addr : Nat) : State :=
  let x := s.waitAcc lk w
  let (n, s1) := (s.post1 x.ctx x.core w.addr 16 false).takeNum
  let (s2, rn) := s1.sendRequest (s1.leaseMessage x peer addr)
  { s2 with outst := s2.outst.set n { x with place := .remote peer rn, passed := some (.lender peer addr) } }

/-- WAITA for one lane (R226): the word is read once at issue. -/
def waitaLane (f : FmtX) (low : Option Nat) (s0 s : State) (lk : Nat) : State × LaneRes :=
  match waitCheck f s0 lk with
  | .error e => (s, .error e)
  | .ok (x, g) =>
    let w := waitWord f s0 lk x (low = some lk)
    match (match g with | .lender p a => if (s.sliceRead x w.size).isSome then none else some (p, a) | _ => none) with
    | some (p, a) => (s.askLender lk w p a, .ok [.sleep (.waita w)])
    | none =>
      let w1 := match g with
        | .host h => { w with last := some (s.hostMem.nat h w.size) }
        | _ => w
      match s.waitRead lk w1 with
      | (s1, some v) =>
        if waitCond w.cond v.val.toNat w.cmp.toNat then
          (s1.waitAcquire lk w,
            if v.poison then .error ⟨Code.poison, w.d.setWidth 64, 0, 0⟩ else .ok ((w.writes v).map .rw))
        else (s1, .ok [.sleep (.waita { w1 with last := some v.val.toNat })])
      | (s1, none) => (s1, .ok [.sleep (.waita w1)])

def execWaita (f : FmtX) (s : State) : Res :=
  instr (.waita f) s fun s =>
    let ls := s.guardTrue f.g
    let accs := ls.filterMap fun lk => match waitCheck f s lk with
      | .ok (x, _) => some (s.waitAcc lk (waitWord f s lk x false))
      | .error _ => none
    .next (seqBody (.waita f) (waitaLane f ls.head?) (s.admitJoined (accs.filter s.pastL1)).1)

/-! ## Waking (R126) -/

/-- A lane resumes in its recorded state at the instruction after the sleeping one; its age begins anew when it becomes ACTIVE
(R169). -/
def State.wakeLane (s : State) (lk : Nat) (ws : List RegWrite) : State :=
  (s.modLane lk fun l =>
    { l with
      state := if l.state = .asleep true then .trapped else .active
      sleep := none
      site := none
      lastIssue := if l.state = .asleep true then l.lastIssue else s.now }).writes lk ws

/-- The state of sleep says that a lane may wake now, or, for a WAITA whose group is held, that its wake falls due (R227). -/
def State.wakeDue (s : State) (lk : Nat) : Bool :=
  let held := s.held (groupOf lk)
  match (s.lane lk).sleep with
  | some (.due _ _) => !held
  | some (.waita w) => s.waitHolds lk w && !(held && (match (s.waitRead lk w).2 with | some v => v.poison | none => false))
  | _ => false

/-- The lanes of a group that wake with a lane: those of its batch. -/
def State.batchOf (s : State) (lk b : Nat) : List Nat :=
  (groupLanes (groupOf lk)).filter fun k => match (s.lane k).sleep with | some (.due c _) => c = b | _ => false

/-- LANE_WAKE: a wake on a WAITA's condition is an acquire, and raises POISON on a poisoned word. One that falls due during a hold
is kept until the hold ends (R227). -/
def execLaneWake (lane : Nat) (s : State) : Res :=
  if !s.wakeDue lane then skipEvent s
  else match (s.lane lane).sleep with
    | some (.due b _) =>
      .next ((s.batchOf lane b).foldl (fun s lk =>
        match (s.lane lk).sleep with | some (.due _ ws) => s.wakeLane lk ws | _ => s) s)
    | some (.waita w) =>
      match s.waitRead lane w with
      | (s1, some v) =>
        let s2 := s1.waitAcquire lane w
        if v.poison then .next (s2.takeFault lane ⟨Code.poison, w.d.setWidth 64, 0, 0⟩ ((s.lane lane).site.getD (s.site 0)))
        else if s.held (groupOf lane) then
          let (b, s3) := s2.takeNum
          .next (s3.modLane lane fun l => { l with sleep := some (.due b (w.writes v)) })
        else .next (s2.wakeLane lane (w.writes v))
      | (_, none) => skipEvent s
    | _ => skipEvent s

/-- The value that a timeout returns: the word now, or as last observed; the state is the one after the read. -/
def State.lastSeen (s : State) (lk : Nat) (w : WaitWord) : State × Option AccVal :=
  match s.waitRead lk w with
  | (s1, some v) => (s1, some v)
  | (s1, none) => (s1, w.last.map fun n => ⟨BitVec.ofNat 128 n, false, false⟩)

/-- A WAITA's timeout has passed while its condition does not hold. -/
def State.timeoutDue (s : State) (lk : Nat) : Bool :=
  !s.held (groupOf lk) &&
    (match (s.lane lk).sleep with
     | some (.waita w) =>
       (match w.deadline with | some t => t ≤ s.now | none => false) && !s.waitHolds lk w && (s.lastSeen lk w).2.isSome
     | _ => false)

/-- WAITA_TIMEOUT (R226): the lane wakes with a relaxed read. -/
def execWaitaTimeout (lane : Nat) (s : State) : Res :=
  if !s.timeoutDue lane then skipEvent s
  else match (s.lane lane).sleep with
    | some (.waita w) => match s.lastSeen lane w with
      | (s1, some v) => .next (s1.wakeLane lane (w.writes v))
      | (_, none) => skipEvent s
    | _ => skipEvent s

/-- A polled word is due to be read again, every 1,024 cycles. -/
def State.pollDue (s : State) (lk : Nat) : Bool :=
  match (s.lane lk).sleep with
  | some (.waita w) => w.polls && w.polled + 1024 ≤ s.now
  | _ => false

/-- WAITA_HOST_POLL (R226). -/
def execWaitaHostPoll (lane : Nat) (s : State) : Res :=
  if !s.pollDue lane then skipEvent s
  else match (s.lane lane).sleep with
    | some (.waita w) =>
      let put := fun (s : State) (w : WaitWord) => s.modLane lane fun l => { l with sleep := some (.waita w) }
      let w1 := { w with polled := s.now }
      match s.gateOf (s.waitAcc lane w) with
      | .host h => .next (put (s.post1 (s.laneCtx lane) (coreOf (groupOf lane)) w.addr 16 false) { w1 with last := some (s.hostMem.nat h w.size) })
      | .lender p a =>
        let asked := s.outst.any fun y =>
          y.2.team = s.laneTeam lane && y.2.tid = (s.lane lane).tid && y.2.addr = w.addr && y.2.kind = .load && y.2.d.isNone
        .next (put (if asked || (s.sliceRead w.addr w.size).isSome then s else s.askLender lane w p a) w1)
      | _ => .next (put s w1)
    | _ => skipEvent s

/-- The answer of a lender to a polling lane. -/
def State.observe (s : State) (x : Acc) (v : Nat) : State :=
  match s.findThread x.team x.tid with
  | some lk => match (s.lane lk).sleep with
    | some (.waita w) =>
      if w.polls && w.addr = x.addr && x.d.isNone then
        s.modLane lk fun l => { l with sleep := some (.waita { w with last := some v }) }
      else s
    | _ => s
  | none => s

/-- The lanes that sleep. -/
def State.sleepers (s : State) : List Nat := (s.lanes.filter fun p => p.2.sleep.isSome).map Prod.fst

/-- Wakes, timeouts and polls that are due, and fences that may complete. -/
def State.waitDue (s : State) : List Due :=
  s.sleepers.flatMap (fun lk =>
    (if s.wakeDue lk then [.laneWake lk] else []) ++ (if s.timeoutDue lk then [.waitaTimeout lk] else []) ++
    (if s.pollDue lk then [.waitaHostPoll lk] else [])) ++
  (s.fences.filter fun p => s.fenceDue p.2).map fun p => .fenceComplete p.1

end Sys2Proof.Machine
end

