-- ==== Sys2Proof/Machine/Link.lean ====
section
/-! DEFINITION. The link (R400 to R420): what arrives on the fabric and from the host, the life of a link, and the flits that it
sends and receives. -/

namespace Sys2Proof.Machine

/-! ## Requests that arrive (R114, R302, R412 to R417) -/

/-- Where an arriving request is performed. -/
inductive ReqTo where
  | gate (g : GateRes)
  | pad (team : Nat)
  | refuse (code : Byte) (seen : Nat)
  deriving DecidableEq, Repr

/-- The permissions of an operation (R114, check 4). -/
def reqPerm (op : Nat) : BitVec 12 := if op = 0 then Perm.ld else if op = 1 || op = 4 then Perm.st else permAtom

/-- What a request does, as OP numbers it. -/
def reqOp (m : FabMsg) : Nat := if m.op = 6 then m.sub else m.op

/-- The bytes that a request touches: LEN counts the data bytes, of which an ACAS carries two for each (R415). -/
def reqLen (m : FabMsg) : Nat := if m.op = 4 then m.data.length else if reqOp m = 3 then m.len / 2 else m.len

/-- The five checks of a grant, in their order (R114). -/
def State.grantAdmits (s : State) (m : FabMsg) : Bool :=
  let g := s.grant m.grant
  g.valid && m.src = g.target && m.colour = g.colour && (reqPerm m.op &&& ~~~g.pmask) == 0 && g.lo ≤ m.addr.toNat &&
    m.addr.toNat + reqLen m ≤ g.hi

/-- The team whose pad region a packet falls in: of the receiving colour, outside the barrier registers (R302). -/
def State.bulkTeam (s : State) (m : FabMsg) : Option Nat :=
  let a := m.addr.toNat
  (s.teams.find? fun t =>
    (s.ctx t.2.ctx).colour = m.colour && t.2.padAddr 256 ≤ a && a + m.data.length ≤ t.2.padAddr t.2.padLen).map Prod.fst

/-- Where a request through a REMOTE capability goes (R114, R302). A packet that fits no pad region is answered with
ADDRESS_HOLE (log entry 52). -/
def State.remoteTo (s : State) (m : FabMsg) : ReqTo :=
  let a := m.addr.toNat
  if !s.grantAdmits m then .refuse Code.remoteGrant 0
  else if m.op = 4 then match s.bulkTeam m with | some t => .pad t | none => .refuse Code.addressHole 0
  else
    let r := regionOf a
    if r ≠ regionOf (a + reqLen m - 1) || r = .hole || r = .pad || r = .control || (r = .host && 2 ≤ m.op) then
      .refuse Code.addressHole 0
    else match gate s.frames s.spares m.colour a (m.op ≠ 0) with
      | .refuse c st => .refuse c st
      | g => .gate g

/-- Where an access to a lent frame goes: LENT and RECLAIM serve the borrower's requests that carry LEASE (R380). -/
def State.lentTo (s : State) (m : FabMsg) : ReqTo :=
  let a := m.addr.toNat
  let g := liveFrame s.frames (a / 0x200000)
  let e := frameEntry s.frames g
  let st := Fst.state e
  if a < 0xC000000000 && !s.spares.contains (a / 0x200000) && (st = Fst.lent || st = Fst.reclaim) && Fst.lease e = m.grant && Fst.arg e / 2 ^ 22 = m.src &&
      (m.colour = 0 || m.colour = Fst.colour e) then .gate (.go (frameAddr g + a % 0x200000) (Fst.nocache e))
  else .refuse Code.frameState st

/-- Where a lease message goes: to a lent frame here, or, as part of a reclaim copy, to the fallback of a frame borrowed here (R398). -/
def State.leaseTo (s : State) (m : FabMsg) : ReqTo :=
  if regionOf m.addr.toNat ≠ .borrowed || m.sub ≠ 1 then s.lentTo m
  else match s.copyTo m.src m.grant m.addr.toNat with
    | some (.refuse c st) => .refuse c st
    | some g => .gate g
    | none => .refuse Code.frameState (s.stateAt m.addr.toNat)

/-- Where a request goes. -/
def State.reqTo (s : State) (m : FabMsg) : ReqTo := if m.op = 6 then s.leaseTo m else s.remoteTo m

/-- A request as an access of this device; its number stands for the request. -/
def reqAcc (m : FabMsg) (num now : Nat) : Acc :=
  let op := reqOp m
  let part := fun k => BitVec.ofNat 128 (bytesNat ((m.data.drop (reqLen m * k)).take (min 16 (reqLen m))))
  { kind := if op = 0 then .load else if op = 1 then .store else if op = 2 then .atom else .acas
    place := .gate
    team := 0
    tid := 0
    core := 2048
    ctx := 1024
    colour := m.colour
    addr := m.addr.toNat
    size := if op ≤ 1 then m.len else min 16 (reqLen m)
    ty := m.ty
    aop := m.aop
    ord := m.ord
    scope := m.scope
    cl := 3
    val := if op = 3 then part 1 else part 0
    cmp := part 0
    tag := m.op = 6 && m.len = 16 && m.tags.headD false
    poison := m.poison.headD false
    d := none
    dk := 0
    caps := false
    ldc := false
    cache := false
    ofl := false
    peer := none
    since := now
    batch := num
    req := 0
    fenced := false
    passed := none
    site := none }

/-- A load or store of more than 16 bytes performed at its home slice, granule by granule in rising address: the bytes that a load
reads, and the tag and poison of each. -/
def State.performWide (s : State) (m : FabMsg) (p : Nat) : State × List Byte × List Bool × List Bool :=
  let ps := granRange p m.len
  let s1 := ps.foldl (fun (s : State) q => s.promoteNow (q.1 / 16)) s
  if reqOp m = 0 then
    (s1, ps.flatMap (fun q => natBytes q.2 (quadBytes (s1.granData q.1) (q.1 % 16) q.2).toNat), ps.map fun q => s1.granTag q.1,
      ps.map fun q => s1.granPoison q.1)
  else
    let put := fun (s : State) (x : (Nat × Nat) × Nat) =>
      let ((q, n), i) := x
      let v := BitVec.ofNat 128 (bytesNat ((m.data.drop (q - p)).take n))
      let tag := m.op = 6 && n = 16 && m.tags.getD i false
      s.granStore q (quadAt v (q % 16)) (byteMask (q % 16) n) tag (m.poison.getD i false)
    ((ps.zip (List.range ps.length)).foldl put s1, [], [], [])

/-- A request waits: behind an earlier one of its source to the same granule (R404), or for the counts it carries, compared
modulo 2^32 (R417). -/
def State.reqWaits (s : State) (n : Nat) (m : FabMsg) : Bool :=
  (s.heldReqs.any fun h => h.1 < n && h.2.m.src = m.src && h.2.m.addr.toNat / 16 = m.addr.toNat / 16) ||
    (m.ofl && (List.range 4).any fun q =>
      2 ^ 31 ≤ ((s.counts.getD (m.src * 4 + q) ⟨0, []⟩).upTo + 2 ^ 32 - m.counts.getD q 0) % 2 ^ 32)

/-- A request for a BORROWED frame here waits for what the slice has sent to the lender for its lines (R385). -/
def State.sliceOwes (s : State) (m : FabMsg) : Bool :=
  match s.reqTo m with
  | .gate (.lender _ _) => (granRange m.addr.toNat (reqLen m)).any fun q => s.sliceBusy q.1
  | _ => false

/-- A request that may go on is performed and answered, or passed on once the slice has written back its lines, or kept while the
gate stalls it. -/
def State.serveReq (s : State) (n : Nat) (m : FabMsg) : State :=
  let x := reqAcc m n s.now
  let s0 := { s with heldReqs := s.heldReqs.erase n }
  let hold := fun (s : State) (passed : Bool) => { s with heldReqs := s.heldReqs.set n ⟨m, passed⟩ }
  match s.reqTo m with
  | .refuse c st => s0.answerReq m c st [] [] []
  | .pad t =>
    let s1 := s0.storeBytes m.addr.toNat m.data
    (s1.barUpdate (.team t (m.bar % 16)) t fun b => b.credit m.data.length).answerReq m 0 0 [] [] []
  | .gate (.go p _) =>
    let s0 := s0.mscHit p
    if 16 < x.size then
      let (s1, data, tags, poison) := s0.performWide m p
      s1.answerReq m 0 0 data tags poison
    else
      let s1 := if x.ord = 0 then s0 else s0.promoteNow (p / 16)
      let (s2, v) := s1.performAt p x
      s2.answerReq m 0 0 (x.answerBytes v) [v.tag] [v.poison]
  | .gate .zero => s0.answerReq m 0 0 (if x.kind = .store then [] else natBytes x.size 0) [] []
  | .gate (.host h) =>
    let (k, s1) := (hold s true).takeNum
    { s1.send (.host 0 h x.size (if x.kind = .load then none else some m.data)) with
      outst := s1.outst.set k { s1.passed x (.host h) with place := .host } }
  | .gate (.lender p a) =>
    let held := (granRange x.addr x.size).filter fun q => s.mscHas q.1
    if s.sliceOwes m then hold s false
    else if !held.isEmpty then hold (held.foldl (fun s q => s.mscFlush q.1) s) false
    else
      let (k, s1) := (hold s true).takeNum
      let (s2, rn) := s1.sendRequest { s1.leaseMessage x p a with data := m.data, poison := m.poison }
      { s2 with outst := s2.outst.set k { s1.passed x (.lender p a) with place := .remote p rn } }
  | .gate _ => hold s false

/-- A request arrives (R412): a second time, its kept answer is sent again, or the first is still to be answered. -/
def State.arrive (s : State) (m : FabMsg) : State :=
  match s.kept.find? fun k => k.1 = m.src && k.2.1 = m.rnum with
  | some k => s.sendMsg k.2.2
  | none =>
    if s.heldReqs.any fun h => h.2.m.src = m.src && h.2.m.rnum = m.rnum then s
    else
      let (n, s1) := s.takeNum
      if s1.reqWaits n m then { s1 with heldReqs := s1.heldReqs.set n ⟨m, false⟩ } else s1.serveReq n m

/-- A held request may go on. -/
def State.heldDue (s : State) (n : Nat) (h : HeldReq) : Bool :=
  !h.passed && !s.reqWaits n h.m && s.reqTo h.m ≠ .gate .stall && !s.sliceOwes h.m

/-- Held requests without counts that may go on. -/
def State.stalledDue (s : State) : List Nat := (s.heldReqs.filter fun h => !h.2.m.ofl && s.heldDue h.1 h.2).map Prod.fst

/-- A held request goes on. -/
def State.serveHeld (s : State) (n : Nat) : State := match s.heldReqs.get? n with | some h => s.serveReq n h.m | none => s

/-! ## Answers that arrive -/

/-- A request refused by its peer, or never answered (R291, R365, R408, R452). The poll of a WAITA is not a fault. `st` is the
frame STATE that the refusal met (R366). -/
def State.refuseRemote (s : State) (n : Nat) (x : Acc) (code : Byte) (st : Nat) : State :=
  let s0 := { s with outst := s.outst.erase n }
  let a := x.info.toNat
  if x.batch = 0 then s0
  else if x.team ≠ 0 then
    let s1 := s.refuseAcc n x code st
    match s1.cmds.get? x.batch with
    | some c => if c.unfinished then s1.failCmd x.batch c code a else s1
    | none => s1
  else match s0.cmds.get? x.batch, s0.wloads.get? x.batch with
    | some c, _ => if c.unfinished then s0.failCmd x.batch c code a else s0
    | none, some w => s0.refuseLoad x.batch w code a (s0.loadGot x.batch w)
    | none, none =>
      if (s0.jobs.get? x.batch).isSome then { s0 with jobs := s0.jobs.modify x.batch fun j =>
          { j with refused := some (j.refused.getD (code, a, x.aux code st)) } }
      else s.refuseAcc n x code st

/-- The bytes of a command that another device or the host has taken (R291, R302, R357). -/
def State.bytesTaken (s : State) (x : Acc) : State :=
  match (if x.kind = .store then s.cmds.get? x.batch else none) with
  | some c =>
    if c.state = .running && c.bytes < c.count then
      { s with cmds := s.cmds.set x.batch { c with bytes := min c.count (c.bytes + x.size) } }.countMoved c x.size
    else s
  | none => s

/-- An answer of a lender to a lane's access (R385): one for a whole line goes into the slice, and the access is performed there. -/
def State.takeLine (s : State) (n : Nat) (x : Acc) (m : FabMsg) (v : AccVal) : State :=
  if m.data.length = 128 then
    let s1 := s.sliceFill x.addr m.data m.tags m.poison
    let k := x.addr / 16 % 8
    if s1.mscHas x.addr then let (s2, w) := s1.performSlice x; s2.finishAcc n x w
    else if x.kind = .load then
      s1.finishAcc n x ⟨BitVec.ofNat 128 (bytesNat ((m.data.drop (x.addr % 128)).take x.size)), m.tags.getD k false, m.poison.getD k false⟩
    else { s1 with outst := s1.outst.set n { x with place := .slice } }
  else s.finishAcc n x (if x.kind = .load then s.sliceOver x.addr x.size v else v)

/-- An answer put to the request that it answers (R412, R415), which is not sent again. -/
def State.takeAnswer (s0 : State) (m : FabMsg) : State :=
  let s := s0.unask m.src m.rnum
  match s.outst.find? fun p => p.2.place = .remote m.src m.rnum with
  | none => s
  | some (n, x) =>
    let tags := if m.op = 6 then m.tags else []
    let v : AccVal := ⟨BitVec.ofNat 128 (bytesNat (m.data.take 16)), tags.headD false, m.poison.headD false⟩
    let s0 := { s with outst := s.outst.erase n }
    if m.status ≠ 0 then s.refuseRemote n x m.status m.seen
    else if x.batch = 0 then s0.observe x v.val.toNat
    else if x.team ≠ 0 && m.op = 6 then s.takeLine n x m v
    else if x.team ≠ 0 then (s.finishAcc n x v).bytesTaken x
    else if (s.heldReqs.get? x.batch).isSome then s0.answerHeld x.batch 0 0 m.data tags m.poison
    else
      let parts := answerParts x.info.toNat m.data tags m.poison
      (s0.bytesTaken x).engineAnswer x
        (if m.op = 6 then parts.map fun p => (p.1, s.sliceOver (p.1 / 32) (p.1 % 32) p.2) else parts)

/-! ## What the host answers (R253, R385, R419) -/

/-- The host answers an access of a lane, of another device's request, or of an engine. Only the last two move more than 16 bytes at
once. -/
def State.hostAnswer (s : State) (n : Nat) (x : Acc) (h : Nat) : State :=
  if x.team ≠ 0 then let (s1, v) := s.performHost h x; s1.finishAcc n x v
  else
    let s0 := { s with outst := s.outst.erase n }
    let req := s.heldReqs.get? x.batch
    if x.kind = .load then
      let data := natBytes x.size (s.hostMem.nat h x.size)
      if req.isSome then s0.answerHeld x.batch 0 0 data [] [] else s0.engineAnswer x (answerParts x.addr data [] [])
    else
      let data := match req with | some r => r.m.data | none => x.payload
      ({ s0 with hostMem := s0.hostMem.setBytes h data }.bytesTaken x).answerHeld x.batch 0 0 [] [] []

/-- LOAD_RETURN (R253): the data returns; for the host window, the host answers the access. -/
def execLoadReturn (acc : Nat) (s : State) : Res :=
  match s.outst.get? acc with
  | some x =>
    if !s.loadDue x then skipEvent s
    else match x.place, x.passed with
      | .host, some (.host h) => .next (s.hostAnswer acc x h)
      | .host, _ => .next (s.refuseRemote acc x Code.dataLost Fst.absent)
      | _, _ => let (s1, v) := s.homeNow x; .next (s1.finishAcc acc x v)
  | none => skipEvent s

/-- HOST_ACCESS_TIMEOUT (R419): refused with DATA_LOST. -/
def execHostAccessTimeout (acc : Nat) (s : State) : Res :=
  match s.outst.get? acc with
  | some x =>
    if x.place = .host && x.since + 12500000 ≤ s.now then .next (s.refuseRemote acc x Code.dataLost (s.stateAt x.addr))
    else skipEvent s
  | none => skipEvent s

/-- What a launch or control message carries, acted on by its row. -/
def State.takeBody (s : State) (src : Nat) (b : MsgBody) : State :=
  match b with
  | .none => s
  | .part p comm key => s.takePart comm key p
  | .linkState dev port up => s.farLink dev port up
  | .lease .. | .accept _ => s.takeLease src b
  | .launch .. | .entry _ => s.takeLaunch src b

/-- A launch or control message arrives; a second time it does nothing (R412; log entry 95). -/
def State.takeOnce (s : State) (m : FabMsg) : State :=
  if s.kept.any fun k => k.1 = m.src && k.2.1 = m.rnum then s
  else { s with kept := keepNewest m.src 65536 ((m.src, m.rnum, m) :: s.kept) }.takeBody m.src m.body

/-- A message that a link has delivered: forwarded (R402, R403), taken as a request, as an answer, or as a launch or control message, or
discarded and counted (R415). -/
def State.receive (s : State) (m : FabMsg) : State :=
  if m.dst ≠ s.parish then s.sendMsg m
  else if 9 ≤ m.op || m.rsvd ≠ 0 then { s with discarded := s.discarded + 1 }
  else if 7 ≤ m.op then s.takeOnce m
  else if m.op = 5 || (m.op = 6 && m.sub = 5) then s.takeAnswer m
  else if m.op < 5 || (m.op = 6 && m.sub < 4) then s.arrive m
  else s

/-- The message of this device to itself that comes next: a context of it is both ends. -/
def State.ownMsg (s : State) : Option FabMsg := s.unsent.find? fun m => m.dst = s.parish

/-- It is taken. -/
def State.takeOwn (s : State) : State :=
  match s.ownMsg with
  | some m => { s with unsent := s.unsent.erase m }.takeBody m.src m.body
  | none => s

/-- The part is in RECOVERY, where only the management VLAN answers (R421). -/
def State.deaf (s : State) : Bool := s.bootstat.getLsbD 7

/-- A message reaches the part. -/
def State.hear (s : State) (m : FabMsg) : Res := if s.deaf then skipEvent s else .next (s.receive m)

/-- REMOTE_REQUEST (R114, R413). -/
def execRemoteRequest (m : FabMsg) (s : State) : Res := s.hear m

/-- REMOTE_ANSWER (R415). -/
def execRemoteAnswer (m : FabMsg) (s : State) : Res := s.hear m

/-- XBULK_PACKET (R302). -/
def execXbulkPacket (m : FabMsg) (s : State) : Res := s.hear m

/-- OFL_RELEASE (R417). -/
def execOflRelease (held : Nat) (s : State) : Res :=
  match s.heldReqs.get? held with
  | some h => if s.heldDue held h then .next (s.serveReq held h.m) else skipEvent s
  | none => skipEvent s

/-! ## RDMA WRITE (R249, R419) -/

/-- The gate for each piece of a message, as an access of colour 0 (log entry 54). -/
def State.rdmaPlaces (s : State) (a : Nat) (data : List Byte) : List ((Nat × Nat) × GateRes) :=
  (granRange a data.length).map fun p =>
    (p, match regionOf p.1 with
      | .local | .borrowed => gate s.frames s.spares 0 p.1 true
      | _ => .refuse Code.addressHole 0)

/-- The oldest message can be applied: nothing of it stalls, and what the one before it has sent to lenders is answered. -/
def State.rdmaReady (s : State) : Bool :=
  match s.rdma with
  | [] => false
  | (a, data) :: _ =>
    !(s.rdmaPlaces a.toNat data).any (fun p => p.2 = .stall) && !s.outst.any fun p => p.2.team = 0 && p.2.batch = s.rdmaNum

/-- One piece of a message written. -/
def State.rdmaPut (s : State) (p : Nat × Nat) (g : GateRes) (bs : List Byte) : State :=
  let v := BitVec.ofNat 128 (bytesNat bs)
  match g with
  | .go q _ => (s.mscHit q).granStore q (quadAt v (q % 16)) (byteMask (q % 16) p.2) false false
  | .lender _ _ =>
    let e : Eng := ⟨2048, 1024, 0, 0, s.rdmaNum, []⟩
    s.engineWrite e (0, false) p.1 p.2 v false false
  | _ => s

/-- The oldest message applied in full, or discarded when a piece of it may not be written. -/
def State.applyRdma (s : State) : State :=
  match s.rdma with
  | [] => s
  | (a, data) :: rest =>
    let s0 := { s.takeNum.2 with rdma := rest, rdmaNum := s.fresh + 1 }
    let ps := s.rdmaPlaces a.toNat data
    if ps.any fun p => match p.2 with | .refuse _ _ => true | _ => false then { s0 with discarded := s0.discarded + 1 }
    else (ps.foldl (fun (r : State × List Byte) p => (r.1.rdmaPut p.1 p.2 (r.2.take p.1.2), r.2.drop p.1.2)) (s0, data)).1

/-- RDMA_WRITE: a message waits behind earlier ones that stall. -/
def execRdmaWrite (addr : DWord) (data : List Byte) (s : State) : Res :=
  let s1 := { s with rdma := s.rdma ++ [(addr, data)] }
  if s.deaf then skipEvent s
  else .next (if s.rdma.isEmpty && s1.rdmaReady then s1.applyRdma else s1)

/-! ## The states of a link (R406) -/

/-- The number of a link state (R315). -/
def LinkState.code : LinkState → Nat
  | .off => 0 | .training => 1 | .up => 2 | .replaying => 3 | .retraining => 4 | .down => 5

/-- A link put into a state; a change from or to UP is reported to the firmware and to the fabric manager. -/
def State.moveLink (s : State) (p : Nat) (st : LinkState) : State :=
  let l := s.link p
  let s1 := s.setLink p { l with state := st }
  if l.state ≠ st && (l.state = .up || st = .up) then
    (s1.postFw Ev.linkState 0
      (BitVec.ofNat 5 p ++ BitVec.ofNat 3 st.code ++ BitVec.ofNat 3 l.state.code ++ BitVec.ofNat 10 (l.peer.getD 0x3FF) ++ 0#155)
      (srcPort p)).send (.linkChange p l.state st)
  else s1

/-- A link leaves UP or REPLAYING, or a link that had left it goes further: its routes are remapped. What the far end has not acknowledged
on it, and every request of this device whose route began there and which its peer has not answered, is sent again on the new routes, in
order (R407). A link that retrains keeps its flits. -/
def State.leaveLink (s : State) (p : Nat) (st : LinkState) : State :=
  let l := s.link p
  let s1 := (s.setLink p { l with
    txq := []
    replay := none
    nakOwed := false
    held := if st = .retraining then l.held else [] }).moveLink p st
  let others := (l.held.flatMap (·.msgs) ++ l.txq).filter fun m => !isRequest m s.parish
  if l.usable then (others.foldl (fun s m => s.sendMsg m) (s.recut s1).moveLegs).askAgain (s.parish, p) else s1

/-- The keys and salts of a new agreement, and the epoch that they begin (R409, R410). -/
def Link.rekeyed (l : Link) (p tick : Nat) : Link :=
  let tx := Config.linkKey p tick true
  let rx := Config.linkKey p tick false
  { l with
    txKey := tx.extractLsb' 32 256
    txSalt := tx.extractLsb' 0 32
    rxKey := rx.extractLsb' 32 256
    rxSalt := rx.extractLsb' 0 32
    txCtr := 0
    rxCtr := 0
    keySlots := 0
    keysel := !l.keysel }

/-- A link comes up with new keys: the counters start at 0, and so does FSEQ after TRAINING; after RETRAINING the flits held are
sent again. -/
def State.raiseLink (s : State) (p : Nat) (peer peerPort : Nat) : State :=
  let l := s.link p
  let again := l.state = .retraining
  let s1 := (s.setLink p { l.rekeyed p s.tick with
    peer := some peer
    peerPort := some peerPort
    slots := 0
    fseq := if again then l.fseq else 0
    expect := if again then l.expect else 0
    held := if again then l.held.map fun f => { f with sent := 0 } else []
    replay := if again && !l.held.isEmpty then some 0 else none
    gcmFails := 0
    nakOwed := false
    nakSent := false
    upAt := s.now }).moveLink p .up
  (s.recut s1).resendUnsent

/-- The number of fabric ports. -/
abbrev fabricPorts : Nat := 18

/-- A port enabled: OFF goes to TRAINING. -/
def State.enablePort (s : State) (p : Nat) : State :=
  if (s.link p).state = .off && p < fabricPorts && !s.deaf then s.moveLink p .training else s

/-- PORT_ENABLE. -/
def execPortEnable (port : Nat) (s : State) : Res := .next (s.enablePort port)

/-- PORT_DISABLE. -/
def execPortDisable (port : Nat) (s : State) : Res :=
  if (s.link port).state = .off then skipEvent s else .next (s.leaveLink port .off)

/-- A triple of the parish route table (R400): own member, then link, rising. -/
def State.addRoute (s : State) (h member l far : Nat) : State :=
  let le := fun (x y : Nat × Nat × Nat) => x.1 < y.1 || (x.1 = y.1 && x.2.1 ≤ y.2.1)
  let clean : Tbl (List (Nat × Nat × Nat)) := s.routes.map fun e => (e.1, e.2.filter fun x => !(x.1 = member && x.2.1 = l))
  { s with routes := clean.set h (insertBy le (member, l, far) (clean.getD h [])) }

/-- LINK_TRAINED. The far end of a hamlet link follows from its number (R400); where a parish link leads is recorded. A device whose
identity fails to verify is not admitted, and the link trains on (R414). -/
def execLinkTrained (port : Nat) (id : PeerId) (peerPort : Nat) (s : State) : Res :=
  let peer := id.index
  let l := s.link port
  let me := s.parish % 16
  let h := s.parish / 16
  if !((l.state = .training || l.state = .retraining) && port < fabricPorts && id.genuine) then skipEvent s
  else if port < 15 then .next (s.raiseLink port (h * 16 + (me + port + 1) % 16) (14 - port))
  else if 640 ≤ peer || peer / 16 = h then skipEvent s
  else .next ((s.addRoute (peer / 16) me port (peer % 16)).raiseLink port peer peerPort)

/-- LINK_TRAINING_FAIL: 16 attempts have failed, or 4 when retraining. -/
def execLinkTrainingFail (port : Nat) (s : State) : Res :=
  let l := s.link port
  if l.state = .training || l.state = .retraining then .next (s.leaveLink port .down) else skipEvent s

/-- LINK_RETRY: at most once every 12,500,000 cycles. -/
def execLinkRetry (port : Nat) (s : State) : Res :=
  let l := s.link port
  if l.state = .down && l.retryAt ≤ s.now then
    .next ((s.setLink port { l with retryAt := s.now + 12500000 }).moveLink port .training)
  else skipEvent s

/-- New keys while UP: the counters start at 0, and the epoch flips. -/
def Link.rekeyDue (l : Link) : Bool := l.state = .up && 2 ^ 40 ≤ l.keySlots

/-- LINK_REKEY. -/
def execLinkRekey (port : Nat) (s : State) : Res :=
  if (s.link port).rekeyDue then
    .next (s.modLink port fun l => l.rekeyed port s.tick)
  else skipEvent s

/-- SLOT_ALIGNMENT_LOST (R410). -/
def execSlotAlignmentLost (port : Nat) (s : State) : Res :=
  if (s.link port).usable then .next (s.leaveLink port .retraining) else skipEvent s

/-! ## Flits (R405, R409 to R411) -/

/-- The header, data and further units of a message in bytes. -/
def msgBytes (m : FabMsg) : Nat :=
  32 + (m.data.length + 15) / 16 * 16 + (if m.ofl then 16 else 0) + (if m.op = 6 && !m.data.isEmpty then 16 else 0)

/-- The messages that a payload takes, and those left; this sender lets none span flits. -/
def packMsgs : Nat → List FabMsg → List FabMsg × List FabMsg
  | _, [] => ([], [])
  | room, m :: ms =>
    if msgBytes m ≤ room then let (a, b) := packMsgs (room - msgBytes m) ms; (m :: a, b) else ([], m :: ms)

/-- Go-back-N (R411): every flit held is sent again. -/
def State.startReplay (s : State) (p : Nat) : State :=
  let l := s.link p
  if l.held.isEmpty || !l.usable then s
  else (s.setLink p { l with replay := some 0 }).moveLink p .replaying

/-- Every flit replayed has been acknowledged, and none is missed here: REPLAYING goes to UP. -/
def State.settleLink (s : State) (p : Nat) : State :=
  let l := s.link p
  if l.state = .replaying && l.replay.isNone && !l.nakSent && l.held.all fun f => f.sent ≤ 1 then s.moveLink p .up else s

/-- An acknowledgement releases the flits held up to its FSEQ. -/
def Link.acked (l : Link) (ack : Nat) : Link :=
  match l.held.findIdx? fun f => f.fseq = ack with
  | some i => { l with held := l.held.drop (i + 1), replay := l.replay.map fun k => k - (i + 1) }
  | none => l

/-- A NAK: the sender replays from ACKSEQ + 1. -/
def State.takeNak (s : State) (p ack : Nat) : State := (s.modLink p fun l => l.acked ack).startReplay p

/-- NAK (R411). -/
def execNak (port ackseq : Nat) (s : State) : Res :=
  if (s.link port).usable then .next (s.takeNak port ackseq) else skipEvent s

/-- No acknowledgement of the oldest flit in the 4,096 slots after it was sent. -/
def Link.ackLate (l : Link) : Bool :=
  l.usable && l.replay.isNone && (match l.held with | f :: _ => f.slot + 4096 ≤ l.slots | [] => false)

/-- ACK_TIMEOUT (R411). -/
def execAckTimeout (port : Nat) (s : State) : Res :=
  if (s.link port).ackLate then .next (s.startReplay port) else skipEvent s

/-- One FSEQ has been sent 8 times. -/
def Link.replaySpent (l : Link) : Bool := l.state = .replaying && l.held.any fun f => 8 ≤ f.sent

/-- REPLAY_LIMIT (R406). -/
def execReplayLimit (port : Nat) (s : State) : Res :=
  if (s.link port).replaySpent then .next (s.leaveLink port .retraining) else skipEvent s

/-- A DATA flit is discarded; the first is answered with NAK, and the link is REPLAYING (R406, R411). -/
def State.discardFlit (s : State) (p : Nat) : State :=
  let l := s.link p
  if l.nakSent then s else (s.setLink p { l with nakOwed := true, nakSent := true }).moveLink p .replaying

/-- A flit that is intact and authentic: its acknowledgement, its NAK, and the messages of a DATA flit that is next in order. -/
def State.openFlit (s : State) (p : Nat) (f : FlitIn) : State :=
  let s1 := if f.nak then s.takeNak p f.ackseq else s.modLink p fun l => l.acked f.ackseq
  if f.kind ≠ 1 then s1.settleLink p
  else if f.fseq = (s1.link p).expect then
    f.msgs.foldl (fun s m => s.receive m)
      ((s1.modLink p fun l => { l with expect := (l.expect + 1) % 4096, nakSent := false }).settleLink p)
  else s1.discardFlit p

/-- FLIT_RECEIVE (R406, R410, R411): the counter advances for every slot; four slots in a row that pass CRC and fail the tag
retrain the link. A flit of another key epoch does not verify under the keys in force (R409). -/
def execFlitReceive (port : Nat) (f : FlitIn) (s : State) : Res :=
  let l := s.link port
  let tagOk := f.tagOk && f.keysel == l.keysel
  if !l.usable then skipEvent s
  else
    let bad := f.intact && !tagOk
    let s1 := s.setLink port { l with rxCtr := l.rxCtr + 1, gcmFails := if bad then l.gcmFails + 1 else 0 }
    if bad && 3 ≤ l.gcmFails then .next ((s1.leaveLink port .retraining).send (.security port))
    else if f.intact && tagOk && f.kind < 3 then .next (s1.openFlit port f)
    else if f.kind = 1 then .next (s1.discardFlit port)
    else .next s1

/-- What the next slot carries: KIND, FSEQ and messages, and the link after it. -/
def Link.nextFlit (l : Link) : (Nat × Nat × List FabMsg) × Link :=
  let again := match l.replay with | some i => l.held[i]? | none => none
  match l.replay, again with
  | some i, some f =>
    ((1, f.fseq, f.msgs), { l with
      held := l.held.set i { f with sent := f.sent + 1, slot := l.slots }
      replay := if i + 1 < l.held.length then some (i + 1) else none })
  | _, _ =>
    let l1 := { l with replay := none }
    if l1.txq.isEmpty || 256 ≤ l1.held.length then ((0, 0, []), l1)
    else
      let (ms, rest) := packMsgs 232 l1.txq
      ((1, l1.fseq, ms), { l1 with txq := rest, held := l1.held ++ [⟨l1.fseq, ms, 1, l1.slots⟩], fseq := (l1.fseq + 1) % 4096 })

/-- A slot has begun that has not been sent: a direction carries five slots in every eight cycles (R405). -/
def Link.slotDue (l : Link) (now : Nat) : Bool := l.usable && 8 * l.slots ≤ 5 * (now - l.upAt)

/-- FLIT_SLOT (R405, R410): one flit is sent under the salt and the slot counter, which advances whatever the flit is; one that is replayed is
counted on its die (R426). -/
def execFlitSlot (port : Nat) (s : State) : Res :=
  let l := s.link port
  if !l.slotDue s.now then skipEvent s
  else
    let (x, l1) := l.nextFlit
    let l2 := { l1 with
      txCtr := l1.txCtr + 1
      keySlots := l1.keySlots + 1
      slots := l1.slots + 1
      nakOwed := false }
    let again := match l.replay with | some i => decide (i < l.held.length) | none => false
    let s1 := if again then s.measure (Config.portDie port % 8) 8 1 else s
    .next ((s1.setLink port l2).send (.flit port l.txCtr l.txSalt l.keysel x.1 x.2.1 ((l.expect + 4095) % 4096) l.nakOwed x.2.2))

/-! ## Peers (R408, R414) -/

/-- No route to a peer has had all its links up for 12,500,000 cycles. -/
def State.unreachable (s : State) (peer : Nat) : Bool := !s.routable peer && s.cut.getD peer 0 + 12500000 ≤ s.now

/-- Peers that this device waits for. -/
def State.awaited (s : State) : List Nat :=
  (s.outst.filterMap fun p => match p.2.place with | .remote q _ => some q | _ => none) ++
    s.leases.filterMap fun p =>
      if p.2.asLender && 2 ≤ p.2.state && p.2.state ≤ 4 then some p.2.borrower
      else if !p.2.asLender && (p.2.state = 9 || p.2.state = 10) then some p.2.lender
      else none

/-- The frame STATE that an access to an unreachable peer has seen: that of a borrowed frame here; of a frame there, none is
stated (log entry 53). -/
def State.lostState (s : State) (x : Acc) : Nat :=
  match x.peer with | some _ => (Config.freeWord s.tick).toNat % 16 | none => s.stateAt x.addr

/-- Requests to a peer are not sent any more. -/
def State.dropUnsent (s : State) (peer : Nat) : State :=
  { s with
    unsent := s.unsent.filter fun m => !(isRequest m s.parish && m.dst = peer)
    asked := s.asked.filter fun y => y.m.dst ≠ peer }

/-- PEER_UNREACHABLE (R408): outstanding requests are refused with DATA_LOST, and leases end. -/
def execPeerUnreachable (peer : Nat) (s : State) : Res :=
  if !s.unreachable peer then skipEvent s
  else
    let mine := s.outst.filter fun p => match p.2.place with | .remote q _ => q = peer | _ => false
    .next ((mine.foldl (fun s p =>
      match s.outst.get? p.1 with | some x => s.refuseRemote p.1 x Code.dataLost (s.lostState x) | none => s)
      (s.dropUnsent peer)).leaseLost peer)

/-- SEALING_KEY_AGREE (R414, R416): the next key ID, at a moment when no request between the two is outstanding; the counts
of the pair start again. The first key is 0 (log entry 25). -/
def execSealingKeyAgree (peer : Nat) (s : State) : Res :=
  let busy := (s.outst.any fun p => match p.2.place with | .remote q _ => q = peer | _ => false) ||
    s.heldReqs.any fun h => h.2.m.src = peer
  if busy || 640 ≤ peer || peer = s.parish then skipEvent s
  else
    let k := s.keys.getD peer ⟨none, none, 0⟩
    let next := match k.cur with | some i => (i + 1) % 4096 | none => 0
    .next { s with
      keys := s.keys.set peer ⟨some next, k.cur, 0⟩
      pseqs := s.pseqs.filter fun p => p.1 / 4 ≠ peer
      counts := s.counts.filter fun p => p.1 / 4 ≠ peer }

/-- Link events that are due. -/
def State.linkDue (s : State) : List Due :=
  (s.links.flatMap fun p =>
    (if p.2.slotDue s.now then [.flitSlot p.1] else []) ++ (if p.2.ackLate then [.ackTimeout p.1] else []) ++
    (if p.2.replaySpent then [.replayLimit p.1] else []) ++ (if p.2.rekeyDue then [.linkRekey p.1] else [])) ++
  ((s.awaited.filter s.unreachable).map Due.peerUnreachable) ++
  ((s.keys.filter fun p => 2 ^ 32 ≤ p.2.used).map fun p => .sealingKeyAgree p.1) ++
  (s.heldReqs.filter fun h => h.2.m.ofl && s.heldDue h.1 h.2).map fun h => .oflRelease h.1

end Sys2Proof.Machine
end

