-- ==== Sys2Proof/Machine/Device.lean ====
section
/-! DEFINITION. The device as a whole (R421 to R427): boot, the security version, the attestation report, the monitor counters and
the thermal rules. -/

namespace Sys2Proof.Machine

/-! ## Boot (R421, R422) -/

/-- The first step of the boot sequence that fails: as the event says, a security version below the fused minimum (step 3), or
a match-and-replace table that is not accepted (step 6). -/
def State.bootFails (s : State) (b : BootIn) : Option Nat :=
  [1, 2, 3, 4, 5, 6, 7].find? fun k =>
    b.fails = some k || (k = 3 && (b.secver < s.fuseMin || 256 ≤ b.secver)) || (k = 6 && !mrtOk b.mrt)

/-- A local frame that fails its test is retired before any content lies in it. -/
def State.retireAtBoot (s : State) (p : Nat × Nat) : State :=
  if p.1 < 393216 && Fst.state (frameEntry s.frames p.1) = Fst.free && !s.spares.contains p.1 && s.spareOk p.1 p.2 then
    ({ s with spares := insertNat s.spares p.2 }).setEntry p.1 (retiredEntry 0 p.2)
  else s

/-- The effect of boot step `k` (R421): step 7 derives the identity key from the fused secret (R423). -/
def State.bootStep (b : BootIn) (s : State) (k : Nat) : State :=
  match k with
  | 2 => { s with firmware := b.image }
  | 3 => { s with secver := b.secver }
  | 4 => b.badFrames.foldl (fun s p => s.retireAtBoot p) s
  | 6 => { s with mrt := mrtBody b.mrt }
  | 7 =>
    let s1 := b.wiring.foldl (fun s (w : Nat × Nat × Nat × Nat) => s.addRoute w.1 w.2.1 w.2.2.1 w.2.2.2)
      { s with parish := b.parish % 640, identity := some (Config.identityKey Config.fusedSecret) }
    (List.range fabricPorts).foldl (fun s p => s.enablePort p) s1
  | _ => s

/-- BOOT (R421): a failing step leaves the part in RECOVERY with its cause in BOOTSTAT. -/
def execBoot (b : BootIn) (s : State) : Res :=
  if s.bootstat ≠ 0 then skipEvent s
  else
    let fail := s.bootFails b
    let done := (List.range 8).filter fun k => match fail with | some f => k < f | none => true
    let s1 := done.foldl (fun s k => s.bootStep b k) s
    .next { s1 with bootstat := match fail with | some f => BitVec.ofNat 8 (0x80 + f) | none => 1 }

/-- SECVER_RAISE (R422): only a signed request raises the fused minimum, and none lowers it. -/
def execSecverRaise (ver : Nat) (signed : Bool) (s : State) : Res :=
  if signed && s.fuseMin ≤ ver && ver < 256 then .next { s with fuseMin := ver } else skipEvent s

/-! ## Attestation (R424) -/

/-- Local frames that are RETIRED. -/
def State.retiredCount (s : State) : Nat := (s.frames.filter fun p => p.1 < 393216 && Fst.state p.2 = Fst.retired).length

/-- SHAKE256 of the identity public key (R424). -/
def State.identityHash (s : State) : List Byte := shake256 (natBytes 64 ((s.identity.map BitVec.toNat).getD 0))

/-- Bytes 0 to 151 of a report: FWMEAS and IDHASH are SHAKE256 of the firmware image and of the identity public key. -/
def State.reportBody (s : State) (nonce : List Byte) : List Byte :=
  (nonce ++ List.replicate 32 0).take 32 ++ shake256 s.firmware ++ natBytes 32 s.mrtHash ++ s.identityHash ++
    natBytes 4 Config.revision.toNat ++ natBytes 4 s.secver ++ natBytes 2 s.parish ++ natBytes 2 0 ++ natBytes 4 s.retiredCount ++ natBytes 8 (Config.wallTime s.now).toNat

/-- ATTESTATION_REPORT: the identity key exists once the part is READY. -/
def execAttestationReport (nonce : List Byte) (s : State) : Res :=
  if s.bootstat = 1 then
    let b := s.reportBody nonce
    .next (s.send (.report (b ++ natBytes sigBytes (Config.sign Config.fusedSecret b).toNat)))
  else skipEvent s

/-! ## Monitors (R426) -/

/-- A monitor changed. -/
def State.modMonitor (s : State) (die k : Nat) (f : Monitor → Monitor) : State :=
  { s with monitors := s.monitors.set (die * 16 + k) (f (s.monitor (die * 16 + k))) }

/-- MONITOR_CONTROL_WRITE. -/
def execMonitorControlWrite (die k : Nat) (w : DWord) (s : State) : Res :=
  if die < 8 && k < 16 then .next (s.modMonitor die k fun m => m.setCtl w) else skipEvent s

/-- MONITOR_COUNTER_WRITE. -/
def execMonitorCounterWrite (die k : Nat) (w : DWord) (s : State) : Res :=
  if die < 8 && k < 16 then .next (s.modMonitor die k fun m => { m with newValue := some w }) else skipEvent s

/-- Core cycles that end within `d` reference cycles on a die at a governor step, `phase` fiftieths of one having passed: the
core clock is 1 + step / 50 times the reference clock (R3, R174). -/
def coreCycles (phase step d : Nat) : Nat := (phase + d * (50 + step)) / 50

/-- What a monitor of a die adds in `d` cycles after the first `d0`: reference cycles, core cycles, or the measured power, which
is free (log entry 7). The other sources count what happens (State.measure). -/
def State.monitorGain (s : State) (m : Monitor) (die d0 d : Nat) : Nat :=
  let x := s.die die
  if d = 0 then 0
  else if m.counts 1 then d
  else if m.counts 2 then coreCycles x.phase x.step (d0 + d) - coreCycles x.phase x.step d0
  else if m.counts 9 then Config.monitorRate die (s.tick + d0)
  else 0

/-- What was written takes effect at the cycle boundary: a new SRC zeroes the counter (R426). -/
def Monitor.settle (m : Monitor) : Monitor :=
  let c := m.newCtl.getD m.ctl
  let v := if c.extractLsb' 16 16 = m.ctl.extractLsb' 16 16 then m.value else 0
  ⟨c, m.newValue.getD v, none, none⟩

/-- A monitor after `d` cycles, one at least: the first ends before a write takes effect. It wraps (R426). -/
def State.runMonitor (s : State) (die d : Nat) (m : Monitor) : Monitor :=
  let m1 := ({ m with value := m.value + BitVec.ofNat 64 (s.monitorGain m die 0 1) }).settle
  { m1 with value := m1.value + BitVec.ofNat 64 (s.monitorGain m1 die 1 (d - 1)) }

/-- The monitors after `d` cycles. -/
def State.runMonitors (s : State) (d : Nat) : State :=
  { s with monitors := s.monitors.map fun p => (p.1, s.runMonitor (p.1 / 16) d p.2) }

/-- The core clocks after `d` reference cycles. -/
def State.runClocks (s : State) (d : Nat) : State :=
  { s with dies := s.dies.map fun p => (p.1, { p.2 with phase := p.2.phase + d * (50 + p.2.step) }) }

/-- Core cycles that end on a die within the present reference cycle: one, or two where the core clock has gained a whole one. -/
def Die.cyclesNow (x : Die) : Nat := (x.phase % 50 + 50 + x.step) / 50

/-! ## Heat and power (R427) -/

/-- THERMAL_CAP: the governor step is capped at 1.25 GHz. -/
def execThermalCap (die : Nat) (s : State) : Res :=
  if die < 8 then .next (s.modDie die fun d => { d with capped := true, step := 0 }) else skipEvent s

/-- THERMAL_DUTY_CYCLE: no architectural result depends on it. -/
def execThermalDutyCycle (die : Nat) (s : State) : Res :=
  if die < 8 then .next (s.modDie die fun d => { d with duty := true }) else skipEvent s

/-- THERMAL: every context is gated, and the module will power down. -/
def execThermal (die : Nat) (s : State) : Res :=
  if die < 8 then
    let s1 := ((s.ctxs.filter fun p => p.2.state = .active).map Prod.fst).foldl (fun s c => s.gateCtx c) s
    .next ({ s1 with thermalAt := some (s.thermalAt.getD s.now) }.send (.thermal die))
  else skipEvent s

/-- 1 ms in reference cycles (R3). -/
abbrev powerDownDelay : Nat := 1250000

/-- The module is to power down. -/
def State.powerDownDue (s : State) : Bool := match s.thermalAt with | some t => t + powerDownDelay ≤ s.now | none => false

/-- MODULE_POWER_DOWN. -/
def execModulePowerDown (s : State) : Res := if s.powerDownDue then .next { s with power := false } else skipEvent s

/-- Device events that are due. -/
def State.deviceDue (s : State) : List Due := if s.powerDownDue then [.modulePowerDown] else []

end Sys2Proof.Machine
end

