-- ==== Sys2Proof/Machine/Integer.lean ====
section
/-! DEFINITION. The integer, logic, shift, bit-field, predicate and conversion instructions of the lane (R137 to R149). Each
computes on its own lane's registers and raises only decode faults and POISON (R134, R377). -/

namespace Sys2Proof.Machine

/-- The shared effect of R137: op on the exact elements, each result modulo 2^w. -/
def intElems (s : State) (lk : Nat) (f : FmtT) (op : Int → Int → Int → Int) : Nat :=
  let ty := f.ty.toNat
  packElems (elemWidth ty) (tyElems ty) fun k =>
    op (elemOf ty (s.raw lk ty f.a) k) (s.elemB lk f k) (elemOf ty (s.raw lk ty f.c) k)

/-- An instruction of R137. -/
def intLane (f : FmtT) (op : Int → Int → Int → Int) (s : State) (lk : Nat) : LaneRes :=
  okTy f.ty.toNat f.d (intElems s lk f op)

/-- The quotient of R63; every bit set for a zero divisor. -/
def quotZ (a b : Int) : Int := if b = 0 then -1 else a.tdiv b

/-- The remainder of R63; the dividend for a zero divisor. -/
def remZ (a b : Int) : Int := if b = 0 then a else a.tmod b

def execIadd (f : FmtT) (s : State) : Res := laneInstr (.iadd f) (intLane f fun a b _ => a + b) s
def execIsub (f : FmtT) (s : State) : Res := laneInstr (.isub f) (intLane f fun a b _ => a - b) s
def execImul (f : FmtT) (s : State) : Res := laneInstr (.imul f) (intLane f fun a b _ => a * b) s
/-- The high half of the product: floor division by 2^w. -/
def execImulh (f : FmtT) (s : State) : Res :=
  laneInstr (.imulh f) (intLane f fun a b _ => (a * b).fdiv (2 ^ elemWidth f.ty.toNat)) s
def execImad (f : FmtT) (s : State) : Res := laneInstr (.imad f) (intLane f fun a b c => a * b + c) s
def execIdiv (f : FmtT) (s : State) : Res := laneInstr (.idiv f) (intLane f fun a b _ => quotZ a b) s
def execIrem (f : FmtT) (s : State) : Res := laneInstr (.irem f) (intLane f fun a b _ => remZ a b) s
def execImin (f : FmtT) (s : State) : Res := laneInstr (.imin f) (intLane f fun a b _ => min a b) s
def execImax (f : FmtT) (s : State) : Res := laneInstr (.imax f) (intLane f fun a b _ => max a b) s
def execIabs (f : FmtT) (s : State) : Res := laneInstr (.iabs f) (intLane f fun a _ _ => (a.natAbs : Int)) s
def execIneg (f : FmtT) (s : State) : Res := laneInstr (.ineg f) (intLane f fun a _ _ => -a) s
def execIadds (f : FmtT) (s : State) : Res :=
  laneInstr (.iadds f) (intLane f fun a b _ => sat (tyLo f.ty.toNat) (tyHi f.ty.toNat) (a + b)) s
def execIsubs (f : FmtT) (s : State) : Res :=
  laneInstr (.isubs f) (intLane f fun a b _ => sat (tyLo f.ty.toNat) (tyHi f.ty.toNat) (a - b)) s

/-- ICMP (R140). -/
def icmpLane (f : FmtT) (s : State) (lk : Nat) : LaneRes :=
  let ty := f.ty.toNat
  let t := condInt (modBits f.mod 2 0) (elemOf ty (s.raw lk ty f.a) 0) (s.elemB lk f 0)
  okPred f.d (combinePred (modBits f.mod 5 4) t (s.pred lk (f.c.toNat % 8)))

def execIcmp (f : FmtT) (s : State) : Res := laneInstr (.icmp f) (icmpLane f) s

/-- SEL (R141). -/
def selLane (f : FmtT) (s : State) (lk : Nat) : LaneRes :=
  let ty := f.ty.toNat
  okTy ty f.d (if s.pred lk (f.c.toNat % 8) then s.raw lk ty f.a else s.rawB lk f)

def execSel (f : FmtT) (s : State) : Res := laneInstr (.sel f) (selLane f) s

/-- MOV (R141). -/
def execMov (f : FmtT) (s : State) : Res :=
  laneInstr (.mov f) (fun s lk => okTy f.ty.toNat f.d (s.raw lk f.ty.toNat f.a)) s

/-- A bitwise instruction on the whole 32 or 64 bits (R142). -/
def bitsLane (f : FmtT) (op : DWord → DWord → DWord) (s : State) (lk : Nat) : LaneRes :=
  okTy f.ty.toNat f.d (op (BitVec.ofNat 64 (s.raw lk f.ty.toNat f.a)) (BitVec.ofNat 64 (s.rawB lk f))).toNat

def execAndOp (f : FmtT) (s : State) : Res := laneInstr (.andOp f) (bitsLane f fun a b => a &&& b) s
def execOrOp (f : FmtT) (s : State) : Res := laneInstr (.orOp f) (bitsLane f fun a b => a ||| b) s
def execXorOp (f : FmtT) (s : State) : Res := laneInstr (.xorOp f) (bitsLane f fun a b => a ^^^ b) s
def execAndn (f : FmtT) (s : State) : Res := laneInstr (.andn f) (bitsLane f fun a b => a &&& ~~~b) s

/-- LOP3 (R142): each result bit from the table in MOD[7:0]. -/
def lop3Lane (f : FmtT) (s : State) (lk : Nat) : LaneRes :=
  let ty := f.ty.toNat
  let a := s.raw lk ty f.a
  let b := s.raw lk ty f.b
  let c := s.raw lk ty f.c
  okTy ty f.d ((List.range (elemWidth ty)).foldl (fun x i =>
    if table3 (modBits f.mod 7 0) (a.testBit i) (b.testBit i) (c.testBit i) then x + 2 ^ i else x) 0)

def execLop3 (f : FmtT) (s : State) : Res := laneInstr (.lop3 f) (lop3Lane f) s

/-- A shift of each element (R143): width, element and amount to the exact result. -/
def shiftLane (f : FmtT) (op : Nat → Nat → Nat → Int) (s : State) (lk : Nat) : LaneRes :=
  let ty := f.ty.toNat
  let w := elemWidth ty
  okTy ty f.d (packElems w (tyElems ty) fun k => op w (elemU w (s.raw lk ty f.a) k) (s.amount lk f k))

/-- A shift with zero fill; 0 when the amount is at least the width. -/
def shlBits (w a n : Nat) : Int := if w ≤ n then 0 else a * 2 ^ n
def shrBits (w a n : Nat) : Int := if w ≤ n then 0 else a / 2 ^ n
/-- A shift with sign fill; every bit the sign when the amount is at least the width. -/
def shraBits (w a n : Nat) : Int := (toSigned w a).fdiv (2 ^ min n w)
/-- A rotation left by n mod w. -/
def rotlBits (w a n : Nat) : Int :=
  let m := n % w
  ((a * 2 ^ m) % 2 ^ w + a / 2 ^ (w - m) : Nat)

def execShl (f : FmtT) (s : State) : Res := laneInstr (.shl f) (shiftLane f shlBits) s
def execShr (f : FmtT) (s : State) : Res := laneInstr (.shr f) (shiftLane f shrBits) s
def execShra (f : FmtT) (s : State) : Res := laneInstr (.shra f) (shiftLane f shraBits) s
def execRotl (f : FmtT) (s : State) : Res := laneInstr (.rotl f) (shiftLane f rotlBits) s

/-- FUNNEL (R143). -/
def funnelLane (f : FmtT) (s : State) (lk : Nat) : LaneRes :=
  let u := (s.reg1 lk f.a).toNat * 2 ^ 32 + (s.reg1 lk f.b).toNat
  let m := min (s.reg1 lk f.c).toNat 32
  okReg f.d (BitVec.ofNat 32 (if f.mod.getLsbD 0 then u / 2 ^ m else u * 2 ^ m / 2 ^ 32))

def execFunnel (f : FmtT) (s : State) : Res := laneInstr (.funnel f) (funnelLane f) s

/-- The number of leading zeros of a `w`-bit number; the width for zero. -/
def clzOf (w a : Nat) : Nat := if a = 0 then w else w - 1 - Nat.log2 a

/-- The number of one bits. -/
def popcOf (w a : Nat) : Nat := ((List.range w).filter fun i => a.testBit i).length

/-- The bits in reverse order. -/
def brevOf (w a : Nat) : Nat := (List.range w).foldl (fun x i => if a.testBit i then x + 2 ^ (w - 1 - i) else x) 0

def execClz (f : FmtT) (s : State) : Res :=
  laneInstr (.clz f) (fun s lk => okReg f.d (BitVec.ofNat 32 (clzOf (elemWidth f.ty.toNat) (s.raw lk f.ty.toNat f.a)))) s
def execPopc (f : FmtT) (s : State) : Res :=
  laneInstr (.popc f) (fun s lk => okReg f.d (BitVec.ofNat 32 (popcOf (elemWidth f.ty.toNat) (s.raw lk f.ty.toNat f.a)))) s
def execBrev (f : FmtT) (s : State) : Res :=
  laneInstr (.brev f) (fun s lk => okTy f.ty.toNat f.d (brevOf (elemWidth f.ty.toNat) (s.raw lk f.ty.toNat f.a))) s

/-- BFX (R144). -/
def bfxLane (f : FmtT) (s : State) (lk : Nat) : LaneRes :=
  let (pos, len) := fieldSpec f.mod (s.reg1 lk f.b)
  let l := fieldLen pos len
  let x := (s.reg1 lk f.a).toNat / 2 ^ pos % 2 ^ l
  okReg f.d (if l = 0 then 0 else if f.ty == 1 then BitVec.ofInt 32 (toSigned l x) else BitVec.ofNat 32 x)

def execBfx (f : FmtT) (s : State) : Res := laneInstr (.bfx f) (bfxLane f) s

/-- BFI (R144). -/
def bfiLane (f : FmtT) (s : State) (lk : Nat) : LaneRes :=
  let (pos, len) := fieldSpec f.mod (s.reg1 lk f.c)
  let l := fieldLen pos len
  let a := (s.reg1 lk f.a).toNat
  let b := (s.reg1 lk f.b).toNat
  okReg f.d (BitVec.ofNat 32
    (if l = 0 then a else a - a / 2 ^ pos % 2 ^ l * 2 ^ pos + b % 2 ^ l * 2 ^ pos))

def execBfi (f : FmtT) (s : State) : Res := laneInstr (.bfi f) (bfiLane f) s

/-- BPERM (R145): result byte `k` from its selector nibble. -/
def bpermByte (src sel k : Nat) : Nat :=
  let n := sel / 2 ^ (4 * k) % 16
  let b := src / 2 ^ (8 * (n % 8)) % 256
  if n < 8 then b else if 128 ≤ b then 255 else 0

def bpermLane (f : FmtT) (s : State) (lk : Nat) : LaneRes :=
  let src := (s.reg1 lk f.a).toNat + (s.reg1 lk f.b).toNat * 2 ^ 32
  let sel := (s.reg1 lk f.c).toNat
  okReg f.d (BitVec.ofNat 32 ((List.range 4).foldl (fun x k => x + bpermByte src sel k * 2 ^ (8 * k)) 0))

def execBperm (f : FmtT) (s : State) : Res := laneInstr (.bperm f) (bpermLane f) s

/-! ## Immediate forms (R147, R148) -/

/-- Registers of a format-I result. -/
def regsI (f : FmtI) : Nat := if f.mi == 0 then 1 else 2

def execMovi (f : FmtI) (s : State) : Res :=
  laneInstr (.movi f) (fun _ _ => okRegs f.d (immI f.mi f.imm) (regsI f)) s
def execIaddi (f : FmtI) (s : State) : Res :=
  laneInstr (.iaddi f) (fun s lk => okRegs f.d (s.rawI lk f + immI f.mi f.imm) (regsI f)) s
def execAndi (f : FmtI) (s : State) : Res :=
  laneInstr (.andi f) (fun s lk => okRegs f.d (s.rawI lk f &&& immI f.mi f.imm) (regsI f)) s
def execOri (f : FmtI) (s : State) : Res :=
  laneInstr (.ori f) (fun s lk => okRegs f.d (s.rawI lk f ||| immI f.mi f.imm) (regsI f)) s
def execXori (f : FmtI) (s : State) : Res :=
  laneInstr (.xori f) (fun s lk => okRegs f.d (s.rawI lk f ^^^ immI f.mi f.imm) (regsI f)) s
def execImuli (f : FmtI) (s : State) : Res :=
  laneInstr (.imuli f) (fun s lk => okRegs f.d (s.rawI lk f * immI f.mi f.imm) (regsI f)) s

/-- ICMPI (R148): the predicate in D[2:0], the condition in D[5:3], the type in MI. -/
def icmpiLane (f : FmtI) (s : State) (lk : Nat) : LaneRes :=
  let a : Int :=
    if f.mi == 0 then (s.reg1 lk f.a).toInt
    else if f.mi == 1 then (s.reg1 lk f.a).toNat
    else if f.mi == 2 then (s.pair lk f.a).toInt
    else (s.pair lk f.a).toNat
  .ok [.rw (.pred (f.d.toNat % 8) (condInt (f.d.toNat / 8) a (immCmp f.mi f.imm)))]

def execIcmpi (f : FmtI) (s : State) : Res := laneInstr (.icmpi f) (icmpiLane f) s

/-! ## Predicates, dot product, carry and conversion -/

/-- PLOP (R146). -/
def plopLane (f : FmtT) (s : State) (lk : Nat) : LaneRes :=
  okPred f.d (table3 (modBits f.mod 7 0) (s.pred lk (f.a.toNat % 8)) (s.pred lk (f.b.toNat % 8)) (s.pred lk (f.c.toNat % 8)))

def execPlop (f : FmtT) (s : State) : Res := laneInstr (.plop f) (plopLane f) s

/-- PACKP (R146). -/
def packpLane (f : FmtT) (s : State) (lk : Nat) : LaneRes :=
  okReg f.d (BitVec.ofNat 32 ((List.range 8).foldl (fun x k => if s.pred lk k then x + 2 ^ k else x) 0))

def execPackp (f : FmtT) (s : State) : Res := laneInstr (.packp f) (packpLane f) s

/-- UNPACKP (R146): the predicates that MOD[7:1] selects. -/
def unpackpLane (f : FmtT) (s : State) (lk : Nat) : LaneRes :=
  let a := s.reg1 lk f.a
  .ok (((List.range 8).filter fun k => 0 < k && f.mod.getLsbD k).map fun k => .rw (.pred k (a.getLsbD k)))

def execUnpackp (f : FmtT) (s : State) : Res := laneInstr (.unpackp f) (unpackpLane f) s

/-- IDOT4 (R139). -/
def idot4Lane (f : FmtT) (s : State) (lk : Nat) : LaneRes :=
  let ty := f.ty.toNat
  let a := (s.reg1 lk f.a).toNat
  let b := (s.reg1 lk f.b).toNat
  let c : Int := if ty = 11 then (s.reg1 lk f.c).toInt else (s.reg1 lk f.c).toNat
  let x := (List.range 4).foldl (fun x k => x + elemOf ty a k * elemOf ty b k) c
  let y := if f.mod.getLsbD 0 then (if ty = 11 then sat (-(2 ^ 31)) (2 ^ 31 - 1) x else sat 0 (2 ^ 32 - 1) x) else x
  okReg f.d (BitVec.ofInt 32 y)

def execIdot4 (f : FmtT) (s : State) : Res := laneInstr (.idot4 f) (idot4Lane f) s

/-- The carry or borrow in (R138). -/
def State.carryIn (s : State) (lk : Nat) (f : FmtT) : Bool := f.mod.getLsbD 6 && s.pred lk (modBits f.mod 5 3)

/-- IADDC and ISUBB (R138). -/
def carryLane (f : FmtT) (op : Nat → Nat → Nat → Bool → Nat × Bool) (s : State) (lk : Nat) : LaneRes :=
  let ty := f.ty.toNat
  let (x, out) := op (elemWidth ty) (s.raw lk ty f.a) (s.rawB lk f) (s.carryIn lk f)
  .ok ((regWrites f.d x (tyRegs ty)).map .rw ++ [.rw (.pred (modBits f.mod 2 0) out)])

def execIaddc (f : FmtT) (s : State) : Res := laneInstr (.iaddc f) (carryLane f addCarry) s
def execIsubb (f : FmtT) (s : State) : Res := laneInstr (.isubb f) (carryLane f subBorrow) s

/-- CVTI (R149). -/
def cvtiLane (f : FmtT) (s : State) (lk : Nat) : LaneRes :=
  let dt := f.ty.toNat
  let st := modBits f.mod 3 0
  let x := elemOf st (s.raw lk st f.a) (modBits f.mod 6 5)
  let y := if f.mod.getLsbD 4 then sat (tyLo dt) (tyHi dt) x else x
  let w := elemWidth dt
  let bits := (y % 2 ^ w).toNat
  okTy dt f.d (if 1 < tyElems dt then setElem w (s.reg1 lk f.d).toNat (modBits f.mod 8 7) bits else bits)

def execCvti (f : FmtT) (s : State) : Res := laneInstr (.cvti f) (cvtiLane f) s

end Sys2Proof.Machine
end

