-- ==== Sys2Proof/Machine/Sweep.lean ====
section
/-! DEFINITION. Grants (R113, R115) and the revocation sweep (R117 to R125): starting a pass, acknowledgement, the sweep of a core,
and the end of a pass. -/

namespace Sys2Proof.Machine

/-! ## GRANTSET (R115) -/

/-- An entry keeps the limits of R113. -/
def State.grantOk (s : State) (e : BitVec 256) : Bool :=
  let g := Grant.ofBits e
  e.extractLsb' 1 93 == 0 &&
    (!g.valid ||
      (g.hi % 4096 = 0 && g.hi ≤ 2 ^ 54 && g.lo % 4096 = 0 && g.lo < g.hi && 1 ≤ g.colour && (g.pmask &&& ~~~0xA03#12) == 0 &&
        g.target < 640 && g.target ≠ s.parish))

def grantsetOnce (f : FmtT) (s : State) (l : Nat) : State × LaneRes :=
  let n := (s.reg1 l f.b).toNat
  let e : BitVec 256 := s.quadBits l f.a 1 ++ s.quadBits l f.a 0
  if 4096 ≤ n || !s.grantOk e then (s, okReg f.d 1)
  else ({ s with grants := if e = 0 then s.grants.erase n else s.grants.set n e }, okReg f.d 0)

def execGrantset (f : FmtT) (s : State) : Res := onceInstr (.grantset f) (grantsetOnce f) s

/-! ## Starting a pass (R117, R119, R125) -/

/-- Pass `x` is at or before pass `y`. -/
def passBefore (x y : Nat) : Bool := (y + 2 ^ 32 - x) % 2 ^ 32 < 2 ^ 31

/-- The set of pass `n` (R119); a RETIRED frame counts as its spare does. -/
def State.passSet (s : State) (n : Nat) : List Nat :=
  (s.frames.filter fun p =>
    let e := frameEntry s.frames (liveFrame s.frames p.1)
    p.1 < 524288 && Fst.state e = Fst.quarantine && passBefore (Fst.arg e) n).map Prod.fst

/-- Pass Next(SWEEPCUR) starts: its filters engage (R120, steps 1 and 2). -/
def State.startPass (s : State) : State :=
  let n := nextPass s.sweepCur
  { s with sweepCur := n, pass := some ⟨n, s.passSet n, [], [], [], none⟩ }

/-- SWEEP (R125): the state and the number it returns. -/
def State.sweepStart (s : State) (chain : Bool) : State × Nat :=
  let n := nextPass s.sweepCur
  if s.sweepCur = s.sweepDone then (s.startPass, n)
  else if chain then ({ s with sweepQueued := true }, n)
  else (s, 0)

def sweepOnce (f : FmtS) (s : State) (_l : Nat) : State × LaneRes :=
  let (s1, r) := s.sweepStart (f.imm.getLsbD 0)
  (s1, okReg f.d (BitVec.ofNat 32 r))

def execSweep (f : FmtS) (s : State) : Res := onceInstr (.sweep f) (sweepOnce f) s

/-! ## Acknowledgement (R120, R123, R272) -/

/-- The cores that a context holds banks on; the others hold nothing that a sweep could find. -/
def State.usedCores (s : State) : List Nat := (s.ctxs.flatMap fun p => p.2.alloc.map Prod.fst).eraseDups

/-- A tagged quad that the pass revokes. -/
def State.isRevoked (s : State) (q : Quad × Bool) : Bool := q.2 && s.revoked q.1

/-- A core may acknowledge: no tagged write of a revoked capability that it issued is still on its way. -/
def State.ackReady (s : State) (core : Nat) : Bool :=
  match s.pass with
  | some p => !p.acked.contains core && s.usedCores.contains core &&
      !s.outst.any fun a => a.2.core = core && a.2.kind ≠ .load && s.isRevoked (a.2.val, a.2.tag)
  | none => false

/-- SWEEP_ACK: commands of the core that hold a revoked capability end with ENGINE_FAULT; the others, the loads and the tables that
its teams hold pass the filter. -/
def execSweepAck (core : Nat) (s : State) : Res :=
  match s.pass with
  | some p =>
    if !s.ackReady core then skipEvent s
    else
      let bad := s.cmds.filter fun c => c.2.core = core && c.2.unfinished && c.2.caps.any s.isRevoked
      let s1 := bad.foldl (fun s c => s.failCmd c.1 c.2 Code.engineFault 0) s
      .next { s1 with
        pass := some { p with acked := insertNat p.acked core }
        cmds := s1.cmds.map fun c => if c.2.core = core then (c.1, s.siftCmd c.2) else c
        teams := s1.teams.map fun t => if t.2.core = core then (t.1, s.siftTeam t.2) else t
        wloads := s1.wloads.map fun w => if w.2.core = core then (w.1, { w.2 with cap := s.sift w.2.cap }) else w }
  | none => skipEvent s

/-! ## The sweep of a core (R122) -/

/-- An L1 sector after the sweep. -/
def State.siftSector (s : State) (x : Sector) : Sector := { x with tag := s.filtered x.data x.tag }

/-- The core's registers, pad and L1 with every revoked tag cleared. -/
def State.siftCore (s : State) (core : Nat) : State :=
  let pad := fun k => padBase + core * 0x100000 ≤ 16 * k && 16 * k < padBase + (core + 1) * 0x100000
  { s with
    lanes := s.lanes.map fun p => if coreOf (groupOf p.1) = core then (p.1, s.siftLane (s.taggedQuad p.1) p.2) else p
    groups := s.groups.map fun p => if coreOf p.1 = core then (p.1, s.siftGroup p.2) else p
    islots := s.islots.map fun p =>
      if p.1 / 4 = core then
        (p.1, { p.2 with snap := p.2.snap.map fun x =>
          { x with stags := x.stags.filter fun q => s.filtered (tblQuad x.sregs q) true } })
      else p
    tags := s.tags.filter fun k => !pad k || s.filtered (s.granData (16 * k)) true
    l1 := s.l1.map fun l =>
      if sliceCore l.unit l.line = core then { l with sectors := l.sectors.map fun x => (x.1, s.siftSector x.2) } else l }

/-- Every core in use has acknowledged. -/
def State.allAcked (s : State) : Bool :=
  match s.pass with | some p => s.usedCores.all p.acked.contains | none => false

/-- Cycles for which a sweep holds its core (R122): 2,048 for the registers, 4,096 for the pad and 512 for L1. -/
abbrev sweepHold : Nat := 6656

/-- The groomer can hold one more core of a die: up to 64 at once, and eight on each die (R122). -/
def Pass.canHold (p : Pass) (core : Nat) : Bool :=
  p.holds.length < 64 && (p.holds.filter fun h => h.1 / 256 = core / 256).length < 8

/-- A core may be held for its sweep now, or its hold ends. -/
def State.coreSweepDue (s : State) (core : Nat) : Bool :=
  s.allAcked && (match s.pass with
    | some p => s.usedCores.contains core && !p.swept.contains core &&
        (match p.holds.get? core with | some t => t ≤ s.now | none => p.canHold core)
    | none => false)

/-- CORE_SWEEP (R122): the groomer holds the core, or, at the end of the hold, has cleared its revoked tags and lets it go on. -/
def execCoreSweep (core : Nat) (s : State) : Res :=
  match s.pass with
  | some p =>
    if !s.coreSweepDue core then skipEvent s
    else match p.holds.get? core with
      | none => .next { s with pass := some { p with holds := p.holds.set core (s.now + sweepHold) } }
      | some _ => .next { s.siftCore core with
          pass := some { p with holds := p.holds.erase core, swept := insertNat p.swept core } }
  | none => skipEvent s

/-! ## The end of a pass (R120, R124) -/

/-- Every core has been swept; only the walk is left. -/
def State.coresSwept (s : State) : Bool :=
  s.allAcked && (match s.pass with | some p => s.usedCores.all p.swept.contains | none => false)

/-- The BORROWED frames that the groomer walks through the lease path; a DRAINING one waits until it is DEMOTED (R398). -/
def State.walkFrames (s : State) : List Nat :=
  (s.frames.filter fun p => 393216 ≤ p.1 && p.1 < 524288 && (Fst.state p.2 = Fst.borrowed || Fst.state p.2 = Fst.draining) && Fst.tagsum p.2).map Prod.fst

/-- The walk's access to the present 64 bytes of its first frame, and where it goes: nothing when the frame is BORROWED no more. -/
def State.walkAcc (s : State) (w : Walk) : Option (Acc × GateRes) :=
  match w.left with
  | g :: _ =>
    let e : Eng := ⟨0, 0, Fst.colour (frameEntry s.frames g), 0, w.num, w.buf⟩
    let x := e.acc s (0, false) .load (frameAddr g + w.at_) 64
    match s.engineGate e x false with
    | .ok (.lender p a) => some (x, .lender p a)
    | .ok .stall => some (x, .stall)
    | _ => none
  | [] => none

/-- The revoked tag of a granule cleared at the lender, where the granule still holds the capability that was read: its bits are
compared and stored again in one access (R257; log entry 44). -/
def State.walkClear (s : State) (x : Acc) (g : GateRes) (v : Nat × AccVal) : State :=
  let a := v.1 / 32
  let y := { x with kind := .acas, addr := a, size := 16, val := v.2.val, cmp := v.2.val }
  match g with
  | .lender p b => if s.filtered v.2.val v.2.tag || !v.2.tag then s else s.sendEngine y (.lender p (b + (a - x.addr)))
  | _ => s

/-- The walk can go on: nothing that it has sent is unanswered, and its frame does not stall. -/
def State.walkReady (s : State) : Bool :=
  match s.pass with
  | some p => s.coresSwept && (match p.walk with
    | none => true
    | some w => !w.left.isEmpty && !s.engineWaits w.num && (match s.walkAcc w with | some (_, .stall) => false | _ => true))
  | none => false

/-- One step of the walk: it begins, asks for the next 64 bytes, clears what is revoked in those that it has read, or leaves a frame
that is at its end or BORROWED no more. -/
def State.walkOn (s : State) : State :=
  match s.pass with
  | none => s
  | some p =>
    let set := fun (s : State) (w : Walk) => { s with pass := some { p with walk := some w } }
    match p.walk with
    | none => let (n, s1) := s.takeNum; set s1 ⟨s.walkFrames, 0, n, []⟩
    | some w =>
      match s.walkAcc w with
      | none => set s { w with left := w.left.drop 1, at_ := 0, buf := [] }
      | some (x, g) =>
        if w.buf.isEmpty then s.sendEngine x g
        else
          let s1 := w.buf.foldl (fun s v => s.walkClear x g v) s
          if 0x200000 ≤ w.at_ + 64 then set s1 { w with left := w.left.drop 1, at_ := 0, buf := [] }
          else set s1 { w with at_ := w.at_ + 64, buf := [] }

/-- The walk through the lease path is over. -/
def State.walkDue (s : State) : Bool :=
  s.coresSwept && (match s.pass with
    | some p => (match p.walk with | some w => w.left.isEmpty && !s.engineWaits w.num | none => false)
    | none => false)

/-- A granule lies in a frame lent to another device, whose groomer walks it (R120). -/
def State.lentGranule (s : State) (k : Nat) : Bool :=
  match frameOf (16 * k) with
  | some g => let e := frameEntry s.frames g; Fst.state e = Fst.lent || Fst.state e = Fst.reclaim
  | none => false

/-- The registers of a team image after the filter, each tag by the value that it belongs to. -/
def TeamImage.sift (w : TeamImage) (s : State) : TeamImage :=
  let team := fun (lk : Nat) => w.teams.getD (w.groups.getD (groupOf lk) Group.empty).team Team.empty
  { w with
    teams := w.teams.map fun p => (p.1, s.siftTeam p.2)
    groups := w.groups.map fun p => (p.1, s.siftGroup p.2)
    lanes := w.lanes.map fun p =>
      let m := team p.1
      (p.1, s.siftLane (m.taggedQuad (s.carryOf m) (fun lk => w.lanes.getD lk Lane.empty) p.1) p.2) }

/-- A request to the reeve after the filter. -/
def State.siftJob (s : State) (j : Job) : Job :=
  { j with
    ask := (match j.ask with
      | .svc fn args cap => .svc fn args (s.sift cap)
      | .mrt cap => .mrt (s.sift cap)
      | .lease a cap => .lease a (s.sift cap))
    buf := j.buf.map fun p => (p.1, { p.2 with tag := s.filtered p.2.val p.2.tag }) }

/-- A granule of a line of the borrowed window after the filter. -/
def State.siftGran (s : State) (g : MGran) : MGran :=
  { g with tag := match g.own with | some q => s.filtered q.1 g.tag | none => g.tag }

/-- What lies at rest, after the walk: granules of memory, sectors of L1 and lines of the borrowed window in the slices, messages, launch entries, commands, loads, tables of teams, requests to
the reeve, lease records and saved images (log entry 44). -/
def State.siftRest (s : State) : State :=
  let msg := fun (m : List (Quad × Bool)) => m.map s.sift
  let waiter := fun (w : Waiter) => { w with msg := msg w.msg }
  let image := fun (m : Image) =>
    { m with
      work := m.work.sift s
      launches := m.launches.map fun p => (p.1, s.siftLaunch p.2)
      cmds := m.cmds.map fun p => (p.1, s.siftCmd p.2)
      padTags := m.padTags.filter fun k => s.filtered (BitVec.ofNat 128 (m.pads.nat (16 * k) 16)) true }
  { s with
    tags := s.tags.filter fun k => s.lentGranule k || s.filtered (s.granData (16 * k)) true
    l1 := s.l1.map fun l => { l with sectors := l.sectors.map fun x => (x.1, s.siftSector x.2) }
    msc := s.msc.map fun p => (p.1, p.2.map fun l => { l with grans := l.grans.map fun g => (g.1, s.siftGran g.2) })
    queues := s.queues.map fun p => (p.1, { p.2 with msgs := p.2.msgs.map msg, prod := p.2.prod.map waiter })
    launches := s.launches.map fun p => (p.1, s.siftLaunch p.2)
    cmds := s.cmds.map fun p => (p.1, s.siftCmd p.2)
    wloads := s.wloads.map fun p => (p.1, { p.2 with cap := s.sift p.2.cap })
    teams := s.teams.map fun p => (p.1, s.siftTeam p.2)
    jobs := s.jobs.map fun p => (p.1, s.siftJob p.2)
    leases := s.leases.map fun p => (p.1, { p.2 with fallTag := s.filtered p.2.fallback p.2.fallTag })
    images := s.images.map fun p => (p.1, image p.2) }

/-- A frame of the set, or the spare that has taken its place, goes from QUARANTINE to SCRUB. -/
def State.endQuarantine (s : State) (g : Nat) : State :=
  let h := liveFrame s.frames g
  let e := frameEntry s.frames h
  if Fst.state e = Fst.quarantine then s.toScrub h e Fst.free 0 else s

/-- SWEEP_PASS_COMPLETE: a queued pass starts at once; its filters engage before those of this pass disengage. -/
def execSweepPassComplete (s : State) : Res :=
  match s.pass with
  | some p =>
    if !s.walkDue then skipEvent s
    else
      let s1 := { s.siftRest with sweepDone := p.n }
      let s2 := p.set.foldl State.endQuarantine s1
      let s3 := if s2.sweepQueued then { s2 with sweepQueued := false }.startPass else { s2 with pass := none }
      .next (s3.postFw Ev.sweepDone 0 (BitVec.ofNat 32 p.n ++ 0#144) srcReeve)
  | none => skipEvent s

/-- Sweep events that are due. -/
def State.sweepDue (s : State) : List Due :=
  match s.pass with
  | none => []
  | some _ =>
    (s.usedCores.filter s.ackReady).map Due.sweepAck ++ (s.usedCores.filter s.coreSweepDue).map Due.coreSweep ++
      (if s.walkDue then [.sweepPassComplete] else [])

end Sys2Proof.Machine
end

