-- ==== Sys2Proof/Machine/Dispatch.lean ====
section
/-! DEFINITION. One arm per row of the opcode table, each one call of that row's meaning. -/

namespace Sys2Proof.Machine

def exec (i : Instr) (s : State) : Host.Outcome State Fault Refusal :=
  match i with
  | .bra f => Sys2Proof.Machine.execBra f s
  | .brx f => Sys2Proof.Machine.execBrx f s
  | .call f => Sys2Proof.Machine.execCall f s
  | .callx f => Sys2Proof.Machine.execCallx f s
  | .ret f => Sys2Proof.Machine.execRet f s
  | .exit f => Sys2Proof.Machine.execExit f s
  | .nop f => Sys2Proof.Machine.execNop f s
  | .yield f => Sys2Proof.Machine.execYield f s
  | .brk f => Sys2Proof.Machine.execBrk f s
  | .trap f => Sys2Proof.Machine.execTrap f s
  | .iadd f => Sys2Proof.Machine.execIadd f s
  | .isub f => Sys2Proof.Machine.execIsub f s
  | .imul f => Sys2Proof.Machine.execImul f s
  | .imulh f => Sys2Proof.Machine.execImulh f s
  | .imad f => Sys2Proof.Machine.execImad f s
  | .idiv f => Sys2Proof.Machine.execIdiv f s
  | .irem f => Sys2Proof.Machine.execIrem f s
  | .imin f => Sys2Proof.Machine.execImin f s
  | .imax f => Sys2Proof.Machine.execImax f s
  | .iabs f => Sys2Proof.Machine.execIabs f s
  | .ineg f => Sys2Proof.Machine.execIneg f s
  | .iadds f => Sys2Proof.Machine.execIadds f s
  | .isubs f => Sys2Proof.Machine.execIsubs f s
  | .icmp f => Sys2Proof.Machine.execIcmp f s
  | .sel f => Sys2Proof.Machine.execSel f s
  | .mov f => Sys2Proof.Machine.execMov f s
  | .andOp f => Sys2Proof.Machine.execAndOp f s
  | .orOp f => Sys2Proof.Machine.execOrOp f s
  | .xorOp f => Sys2Proof.Machine.execXorOp f s
  | .andn f => Sys2Proof.Machine.execAndn f s
  | .lop3 f => Sys2Proof.Machine.execLop3 f s
  | .shl f => Sys2Proof.Machine.execShl f s
  | .shr f => Sys2Proof.Machine.execShr f s
  | .shra f => Sys2Proof.Machine.execShra f s
  | .rotl f => Sys2Proof.Machine.execRotl f s
  | .funnel f => Sys2Proof.Machine.execFunnel f s
  | .clz f => Sys2Proof.Machine.execClz f s
  | .popc f => Sys2Proof.Machine.execPopc f s
  | .brev f => Sys2Proof.Machine.execBrev f s
  | .bfx f => Sys2Proof.Machine.execBfx f s
  | .bfi f => Sys2Proof.Machine.execBfi f s
  | .bperm f => Sys2Proof.Machine.execBperm f s
  | .movi f => Sys2Proof.Machine.execMovi f s
  | .iaddi f => Sys2Proof.Machine.execIaddi f s
  | .andi f => Sys2Proof.Machine.execAndi f s
  | .ori f => Sys2Proof.Machine.execOri f s
  | .xori f => Sys2Proof.Machine.execXori f s
  | .icmpi f => Sys2Proof.Machine.execIcmpi f s
  | .imuli f => Sys2Proof.Machine.execImuli f s
  | .plop f => Sys2Proof.Machine.execPlop f s
  | .packp f => Sys2Proof.Machine.execPackp f s
  | .unpackp f => Sys2Proof.Machine.execUnpackp f s
  | .idot4 f => Sys2Proof.Machine.execIdot4 f s
  | .iaddc f => Sys2Proof.Machine.execIaddc f s
  | .isubb f => Sys2Proof.Machine.execIsubb f s
  | .cvti f => Sys2Proof.Machine.execCvti f s
  | .fadd f => Sys2Proof.Machine.execFadd f s
  | .fsub f => Sys2Proof.Machine.execFsub f s
  | .fmul f => Sys2Proof.Machine.execFmul f s
  | .ffma f => Sys2Proof.Machine.execFfma f s
  | .fmin f => Sys2Proof.Machine.execFmin f s
  | .fmax f => Sys2Proof.Machine.execFmax f s
  | .fcmp f => Sys2Proof.Machine.execFcmp f s
  | .fclass f => Sys2Proof.Machine.execFclass f s
  | .frnd f => Sys2Proof.Machine.execFrnd f s
  | .frcp f => Sys2Proof.Machine.execFrcp f s
  | .frsq f => Sys2Proof.Machine.execFrsq f s
  | .fsqrt f => Sys2Proof.Machine.execFsqrt f s
  | .fdiv f => Sys2Proof.Machine.execFdiv f s
  | .fex2 f => Sys2Proof.Machine.execFex2 f s
  | .flg2 f => Sys2Proof.Machine.execFlg2 f s
  | .fred f => Sys2Proof.Machine.execFred f s
  | .fsin f => Sys2Proof.Machine.execFsin f s
  | .fcos f => Sys2Proof.Machine.execFcos f s
  | .fsincos f => Sys2Proof.Machine.execFsincos f s
  | .ftanh f => Sys2Proof.Machine.execFtanh f s
  | .hadd2 f => Sys2Proof.Machine.execHadd2 f s
  | .hmul2 f => Sys2Proof.Machine.execHmul2 f s
  | .hfma2 f => Sys2Proof.Machine.execHfma2 f s
  | .hmnx2 f => Sys2Proof.Machine.execHmnx2 f s
  | .cvt f => Sys2Proof.Machine.execCvt f s
  | .pack2 f => Sys2Proof.Machine.execPack2 f s
  | .unpack2 f => Sys2Proof.Machine.execUnpack2 f s
  | .faddi f => Sys2Proof.Machine.execFaddi f s
  | .fmuli f => Sys2Proof.Machine.execFmuli f s
  | .tricv f => Sys2Proof.Machine.execTricv f s
  | .fdot2 f => Sys2Proof.Machine.execFdot2 f s
  | .ballot f => Sys2Proof.Machine.execBallot f s
  | .vote f => Sys2Proof.Machine.execVote f s
  | .shfl f => Sys2Proof.Machine.execShfl f s
  | .shflx f => Sys2Proof.Machine.execShflx f s
  | .shflup f => Sys2Proof.Machine.execShflup f s
  | .shfldn f => Sys2Proof.Machine.execShfldn f s
  | .pswap f => Sys2Proof.Machine.execPswap f s
  | .matchOp f => Sys2Proof.Machine.execMatchOp f s
  | .gredux f => Sys2Proof.Machine.execGredux f s
  | .gscan f => Sys2Proof.Machine.execGscan f s
  | .actmask f => Sys2Proof.Machine.execActmask f s
  | .regroup f => Sys2Proof.Machine.execRegroup f s
  | .rgquery f => Sys2Proof.Machine.execRgquery f s
  | .binit f => Sys2Proof.Machine.execBinit f s
  | .barv f => Sys2Proof.Machine.execBarv f s
  | .bwait f => Sys2Proof.Machine.execBwait f s
  | .bexpb f => Sys2Proof.Machine.execBexpb f s
  | .btest f => Sys2Proof.Machine.execBtest f s
  | .bread f => Sys2Proof.Machine.execBread f s
  | .bclustInit f => Sys2Proof.Machine.execBclustInit f s
  | .bclustArv f => Sys2Proof.Machine.execBclustArv f s
  | .bclustWait f => Sys2Proof.Machine.execBclustWait f s
  | .bclustTest f => Sys2Proof.Machine.execBclustTest f s
  | .bclustRead f => Sys2Proof.Machine.execBclustRead f s
  | .bclustExp f => Sys2Proof.Machine.execBclustExp f s
  | .cvinit f => Sys2Proof.Machine.execCvinit f s
  | .cvsign f => Sys2Proof.Machine.execCvsign f s
  | .cvdropLane f => Sys2Proof.Machine.execCvdropLane f s
  | .cvdropFree f => Sys2Proof.Machine.execCvdropFree f s
  | .waita f => Sys2Proof.Machine.execWaita f s
  | .waitaTimeout a => Sys2Proof.Machine.execWaitaTimeout a s
  | .waitaHostPoll a => Sys2Proof.Machine.execWaitaHostPoll a s
  | .laneWake a => Sys2Proof.Machine.execLaneWake a s
  | .ld f => Sys2Proof.Machine.execLd f s
  | .st f => Sys2Proof.Machine.execSt f s
  | .ldc f => Sys2Proof.Machine.execLdc f s
  | .stc f => Sys2Proof.Machine.execStc f s
  | .ldm f => Sys2Proof.Machine.execLdm f s
  | .stm f => Sys2Proof.Machine.execStm f s
  | .loadReturn a => Sys2Proof.Machine.execLoadReturn a s
  | .atom f => Sys2Proof.Machine.execAtom f s
  | .acas f => Sys2Proof.Machine.execAcas f s
  | .fence f => Sys2Proof.Machine.execFence f s
  | .fenceComplete a => Sys2Proof.Machine.execFenceComplete a s
  | .pref f => Sys2Proof.Machine.execPref f s
  | .cctlWb f => Sys2Proof.Machine.execCctlWb f s
  | .cctlInv f => Sys2Proof.Machine.execCctlInv f s
  | .cctlWbinv f => Sys2Proof.Machine.execCctlWbinv f s
  | .cctlWball f => Sys2Proof.Machine.execCctlWball f s
  | .iline f => Sys2Proof.Machine.execIline f s
  | .retainSet f => Sys2Proof.Machine.execRetainSet f s
  | .retainClr f => Sys2Proof.Machine.execRetainClr f s
  | .cget f => Sys2Proof.Machine.execCget f s
  | .csetb f => Sys2Proof.Machine.execCsetb f s
  | .cadd f => Sys2Proof.Machine.execCadd f s
  | .cseta f => Sys2Proof.Machine.execCseta f s
  | .candp f => Sys2Proof.Machine.execCandp f s
  | .ctest f => Sys2Proof.Machine.execCtest f s
  | .cmovq f => Sys2Proof.Machine.execCmovq f s
  | .cclr f => Sys2Proof.Machine.execCclr f s
  | .ceq f => Sys2Proof.Machine.execCeq f s
  | .csub f => Sys2Proof.Machine.execCsub f s
  | .calign f => Sys2Proof.Machine.execCalign f s
  | .cpseal f => Sys2Proof.Machine.execCpseal f s
  | .cpopen f => Sys2Proof.Machine.execCpopen f s
  | .cdlg f => Sys2Proof.Machine.execCdlg f s
  | .mma f => Sys2Proof.Machine.execMma f s
  | .mmat f => Sys2Proof.Machine.execMmat f s
  | .mmaRoundComplete a0 a1 => Sys2Proof.Machine.execMmaRoundComplete a0 a1 s
  | .mmaComplete a => Sys2Proof.Machine.execMmaComplete a s
  | .wload f => Sys2Proof.Machine.execWload f s
  | .wloadComplete a => Sys2Proof.Machine.execWloadComplete a s
  | .wloadRefused a0 a1 a2 a3 => Sys2Proof.Machine.execWloadRefused a0 a1 a2 a3 s
  | .winv f => Sys2Proof.Machine.execWinv f s
  | .mpredSet f => Sys2Proof.Machine.execMpredSet f s
  | .mpredGet f => Sys2Proof.Machine.execMpredGet f s
  | .mquant f => Sys2Proof.Machine.execMquant f s
  | .tidset f => Sys2Proof.Machine.execTidset f s
  | .tidget f => Sys2Proof.Machine.execTidget f s
  | .treeld f => Sys2Proof.Machine.execTreeld f s
  | .treeldComplete a => Sys2Proof.Machine.execTreeldComplete a s
  | .xcopy f => Sys2Proof.Machine.execXcopy f s
  | .xcopyp f => Sys2Proof.Machine.execXcopyp f s
  | .xstore f => Sys2Proof.Machine.execXstore f s
  | .xbulk f => Sys2Proof.Machine.execXbulk f s
  | .xpub f => Sys2Proof.Machine.execXpub f s
  | .xpull f => Sys2Proof.Machine.execXpull f s
  | .xrun f => Sys2Proof.Machine.execXrun f s
  | .xfill f => Sys2Proof.Machine.execXfill f s
  | .xsig f => Sys2Proof.Machine.execXsig f s
  | .xcancel f => Sys2Proof.Machine.execXcancel f s
  | .xstat f => Sys2Proof.Machine.execXstat f s
  | .engineCommandStart a => Sys2Proof.Machine.execEngineCommandStart a s
  | .cmdCopy a => Sys2Proof.Machine.execCmdCopy a s
  | .cmdTcopy a => Sys2Proof.Machine.execCmdTcopy a s
  | .cmdTcopyp a => Sys2Proof.Machine.execCmdTcopyp a s
  | .cmdFill a => Sys2Proof.Machine.execCmdFill a s
  | .cmdAllreduce a => Sys2Proof.Machine.execCmdAllreduce a s
  | .cmdReducescatter a => Sys2Proof.Machine.execCmdReducescatter a s
  | .cmdAllgather a => Sys2Proof.Machine.execCmdAllgather a s
  | .cmdBroadcast a => Sys2Proof.Machine.execCmdBroadcast a s
  | .collectiveRun a0 a1 => Sys2Proof.Machine.execCollectiveRun a0 a1 s
  | .xpullRecordRead a => Sys2Proof.Machine.execXpullRecordRead a s
  | .engineCommandEnd a => Sys2Proof.Machine.execEngineCommandEnd a s
  | .xbulkPacket a => Sys2Proof.Machine.execXbulkPacket a s
  | .qput f => Sys2Proof.Machine.execQput f s
  | .qget f => Sys2Proof.Machine.execQget f s
  | .qstat f => Sys2Proof.Machine.execQstat f s
  | .evget f => Sys2Proof.Machine.execEvget f s
  | .launch f => Sys2Proof.Machine.execLaunch f s
  | .regacqWait f => Sys2Proof.Machine.execRegacqWait f s
  | .regacqTry f => Sys2Proof.Machine.execRegacqTry f s
  | .regacqGrant a0 a1 => Sys2Proof.Machine.execRegacqGrant a0 a1 s
  | .regrel f => Sys2Proof.Machine.execRegrel f s
  | .regrelLease f => Sys2Proof.Machine.execRegrelLease f s
  | .spillMemory f => Sys2Proof.Machine.execSpillMemory f s
  | .spillLease f => Sys2Proof.Machine.execSpillLease f s
  | .fillMemory f => Sys2Proof.Machine.execFillMemory f s
  | .fillLease f => Sys2Proof.Machine.execFillLease f s
  | .handoff f => Sys2Proof.Machine.execHandoff f s
  | .sread f => Sys2Proof.Machine.execSread f s
  | .swrite f => Sys2Proof.Machine.execSwrite f s
  | .perfrd f => Sys2Proof.Machine.execPerfrd f s
  | .svcWalltime f => Sys2Proof.Machine.execSvcWalltime f s
  | .svcQcreate f => Sys2Proof.Machine.execSvcQcreate f s
  | .svcQclose f => Sys2Proof.Machine.execSvcQclose f s
  | .svcCommcreate f => Sys2Proof.Machine.execSvcCommcreate f s
  | .svcCommend f => Sys2Proof.Machine.execSvcCommend f s
  | .svcBarrmint f => Sys2Proof.Machine.execSvcBarrmint f s
  | .svcGrantreq f => Sys2Proof.Machine.execSvcGrantreq f s
  | .eretRetry f => Sys2Proof.Machine.execEretRetry f s
  | .eretSkip f => Sys2Proof.Machine.execEretSkip f s
  | .faultrd f => Sys2Proof.Machine.execFaultrd f s
  | .trapsetSet f => Sys2Proof.Machine.execTrapsetSet f s
  | .trapsetClr f => Sys2Proof.Machine.execTrapsetClr f s
  | .trapsetGet f => Sys2Proof.Machine.execTrapsetGet f s
  | .sweep f => Sys2Proof.Machine.execSweep f s
  | .grantset f => Sys2Proof.Machine.execGrantset f s
  | .fstset f => Sys2Proof.Machine.execFstset f s
  | .fstget f => Sys2Proof.Machine.execFstget f s
  | .cmint f => Sys2Proof.Machine.execCmint f s
  | .ctxgateGate f => Sys2Proof.Machine.execCtxgateGate f s
  | .ctxgateUngate f => Sys2Proof.Machine.execCtxgateUngate f s
  | .ctxgateState f => Sys2Proof.Machine.execCtxgateState f s
  | .shareset f => Sys2Proof.Machine.execShareset f s
  | .leaseopOffer f => Sys2Proof.Machine.execLeaseopOffer f s
  | .leaseopAccept f => Sys2Proof.Machine.execLeaseopAccept f s
  | .leaseopReclaim f => Sys2Proof.Machine.execLeaseopReclaim f s
  | .leaseopRelease f => Sys2Proof.Machine.execLeaseopRelease f s
  | .leaseopForce f => Sys2Proof.Machine.execLeaseopForce f s
  | .leaseopQuery f => Sys2Proof.Machine.execLeaseopQuery f s
  | .mrtload f => Sys2Proof.Machine.execMrtload f s
  | .cvernew f => Sys2Proof.Machine.execCvernew f s
  | .clauseVote a0 a1 => Sys2Proof.Machine.execClauseVote a0 a1 s
  | .groupPromotion a0 a1 => Sys2Proof.Machine.execGroupPromotion a0 a1 s
  | .deferredFault a => Sys2Proof.Machine.execDeferredFault a s
  | .resumeRetry a => Sys2Proof.Machine.execResumeRetry a s
  | .resumeSkip a => Sys2Proof.Machine.execResumeSkip a s
  | .resumeEnd a => Sys2Proof.Machine.execResumeEnd a s
  | .regroupShuffleStart a => Sys2Proof.Machine.execRegroupShuffleStart a s
  | .regroupPass a => Sys2Proof.Machine.execRegroupPass a s
  | .teamPlacement a => Sys2Proof.Machine.execTeamPlacement a s
  | .launchLevelAge a => Sys2Proof.Machine.execLaunchLevelAge a s
  | .teamRetire a => Sys2Proof.Machine.execTeamRetire a s
  | .hostLaunchMessage a => Sys2Proof.Machine.execHostLaunchMessage a s
  | .multiLaunchEntry a => Sys2Proof.Machine.execMultiLaunchEntry a s
  | .multiArmed a0 a1 => Sys2Proof.Machine.execMultiArmed a0 a1 s
  | .multiGo a0 a1 => Sys2Proof.Machine.execMultiGo a0 a1 s
  | .multiAbort a0 a1 => Sys2Proof.Machine.execMultiAbort a0 a1 s
  | .multiArmedTimeout a => Sys2Proof.Machine.execMultiArmedTimeout a s
  | .loadCodeObject a0 a1 => Sys2Proof.Machine.execLoadCodeObject a0 a1 s
  | .kernelRecordRelease a => Sys2Proof.Machine.execKernelRecordRelease a s
  | .launchEndService a => Sys2Proof.Machine.execLaunchEndService a s
  | .launchKeyReplace a => Sys2Proof.Machine.execLaunchKeyReplace a s
  | .contextCreate a => Sys2Proof.Machine.execContextCreate a s
  | .contextSave a => Sys2Proof.Machine.execContextSave a s
  | .contextRestore a0 a1 => Sys2Proof.Machine.execContextRestore a0 a1 s
  | .contextDiscard a => Sys2Proof.Machine.execContextDiscard a s
  | .contextReset a => Sys2Proof.Machine.execContextReset a s
  | .contextResetDone a => Sys2Proof.Machine.execContextResetDone a s
  | .coreDrain a0 a1 a2 => Sys2Proof.Machine.execCoreDrain a0 a1 a2 s
  | .drainDeadline a0 a1 => Sys2Proof.Machine.execDrainDeadline a0 a1 s
  | .tokenRefill => Sys2Proof.Machine.execTokenRefill s
  | .portRequestSend a0 a1 => Sys2Proof.Machine.execPortRequestSend a0 a1 s
  | .sharedCounterUpdate => Sys2Proof.Machine.execSharedCounterUpdate s
  | .governorStep a0 a1 => Sys2Proof.Machine.execGovernorStep a0 a1 s
  | .syncNotice => Sys2Proof.Machine.execSyncNotice s
  | .homeSliceAtomic a => Sys2Proof.Machine.execHomeSliceAtomic a s
  | .promotionAck a => Sys2Proof.Machine.execPromotionAck a s
  | .remoteRequest a => Sys2Proof.Machine.execRemoteRequest a s
  | .remoteAnswer a => Sys2Proof.Machine.execRemoteAnswer a s
  | .oflRelease a => Sys2Proof.Machine.execOflRelease a s
  | .hostAccessTimeout a => Sys2Proof.Machine.execHostAccessTimeout a s
  | .rdmaWrite a0 a1 => Sys2Proof.Machine.execRdmaWrite a0 a1 s
  | .sweepAck a => Sys2Proof.Machine.execSweepAck a s
  | .coreSweep a => Sys2Proof.Machine.execCoreSweep a s
  | .sweepPassComplete => Sys2Proof.Machine.execSweepPassComplete s
  | .scrubSubframe a => Sys2Proof.Machine.execScrubSubframe a s
  | .frameRetire a0 a1 => Sys2Proof.Machine.execFrameRetire a0 a1 s
  | .spareReplace a0 a1 => Sys2Proof.Machine.execSpareReplace a0 a1 s
  | .routeReplace a0 a1 => Sys2Proof.Machine.execRouteReplace a0 a1 s
  | .uncorrectableError a => Sys2Proof.Machine.execUncorrectableError a s
  | .leaseAcceptMsg a => Sys2Proof.Machine.execLeaseAcceptMsg a s
  | .leaseGranted a0 a1 a2 => Sys2Proof.Machine.execLeaseGranted a0 a1 a2 s
  | .leaseRefused a0 a1 => Sys2Proof.Machine.execLeaseRefused a0 a1 s
  | .leaseAcceptTimeout a => Sys2Proof.Machine.execLeaseAcceptTimeout a s
  | .leaseTerm a => Sys2Proof.Machine.execLeaseTerm a s
  | .leaseReclaimMsg a0 a1 => Sys2Proof.Machine.execLeaseReclaimMsg a0 a1 s
  | .leaseReleaseMsg a0 a1 => Sys2Proof.Machine.execLeaseReleaseMsg a0 a1 s
  | .leaseDrainDone a => Sys2Proof.Machine.execLeaseDrainDone a s
  | .leaseDrained a0 a1 => Sys2Proof.Machine.execLeaseDrained a0 a1 s
  | .leaseCopyDone a => Sys2Proof.Machine.execLeaseCopyDone a s
  | .leaseCopied a0 a1 a2 => Sys2Proof.Machine.execLeaseCopied a0 a1 a2 s
  | .leaseAbort a0 a1 => Sys2Proof.Machine.execLeaseAbort a0 a1 s
  | .leaseForceMsg a0 a1 a2 => Sys2Proof.Machine.execLeaseForceMsg a0 a1 a2 s
  | .leaseDeadline a => Sys2Proof.Machine.execLeaseDeadline a s
  | .portEnable a => Sys2Proof.Machine.execPortEnable a s
  | .portDisable a => Sys2Proof.Machine.execPortDisable a s
  | .linkTrained a0 a1 a2 => Sys2Proof.Machine.execLinkTrained a0 a1 a2 s
  | .linkTrainingFail a => Sys2Proof.Machine.execLinkTrainingFail a s
  | .linkRetry a => Sys2Proof.Machine.execLinkRetry a s
  | .flitReceive a0 a1 => Sys2Proof.Machine.execFlitReceive a0 a1 s
  | .nak a0 a1 => Sys2Proof.Machine.execNak a0 a1 s
  | .ackTimeout a => Sys2Proof.Machine.execAckTimeout a s
  | .replayLimit a => Sys2Proof.Machine.execReplayLimit a s
  | .linkRekey a => Sys2Proof.Machine.execLinkRekey a s
  | .peerUnreachable a => Sys2Proof.Machine.execPeerUnreachable a s
  | .sealingKeyAgree a => Sys2Proof.Machine.execSealingKeyAgree a s
  | .chairliftProbe a => Sys2Proof.Machine.execChairliftProbe a s
  | .queueFree a => Sys2Proof.Machine.execQueueFree a s
  | .monitorControlWrite a0 a1 a2 => Sys2Proof.Machine.execMonitorControlWrite a0 a1 a2 s
  | .monitorCounterWrite a0 a1 a2 => Sys2Proof.Machine.execMonitorCounterWrite a0 a1 a2 s
  | .boot a => Sys2Proof.Machine.execBoot a s
  | .secverRaise a0 a1 => Sys2Proof.Machine.execSecverRaise a0 a1 s
  | .attestationReport a => Sys2Proof.Machine.execAttestationReport a s
  | .thermalCap a => Sys2Proof.Machine.execThermalCap a s
  | .thermalDutyCycle a => Sys2Proof.Machine.execThermalDutyCycle a s
  | .thermal a => Sys2Proof.Machine.execThermal a s
  | .modulePowerDown => Sys2Proof.Machine.execModulePowerDown s
  | .flitSlot a => Sys2Proof.Machine.execFlitSlot a s
  | .slotAlignmentLost a => Sys2Proof.Machine.execSlotAlignmentLost a s
  | .correctableError a => Sys2Proof.Machine.execCorrectableError a s
  | .reeveAnswer a => Sys2Proof.Machine.execReeveAnswer a s
  | .multiRefusal a0 a1 => Sys2Proof.Machine.execMultiRefusal a0 a1 s

end Sys2Proof.Machine
end

