-- ==== Sys2Proof/Machine/Issue.lean ====
section
/-! DEFINITION. Issue: the scoreboard and the waits before an instruction (R134, R233 to R250, R259, R417), the fetch, match and
decode of one instruction of a clause in progress (R22 to R25, R45, R175, R365), the other things the device may do next, and
the step of the device when nothing reaches it from outside. -/

namespace Sys2Proof.Machine

/-! ## What an instruction waits for -/

/-- Registers that accesses still to be answered will write for a lane, as register fields number them: its own, and the uniform
ones of its group. -/
def State.owedByAccs (s : State) (lk : Nat) : List Nat :=
  let t := s.laneTeam lk
  s.outst.flatMap fun p =>
    match p.2.d with
    | none => []
    | some d =>
      let regs := (List.range (max 1 (p.2.size / 4))).map (d.toNat + p.2.dk + ·)
      if p.2.team ≠ t then []
      else if d.toNat < 0x100 then (if p.2.tid = (s.lane lk).tid then regs else [])
      else match s.findThread t p.2.tid with
        | some k => if groupOf k = groupOf lk then regs else []
        | none => []

/-- The accumulators that a full matrix round of a lane's group has still to write for it, be the engine free or not (R207, R284). -/
def State.owedByRounds (s : State) (lk : Nat) : List Nat :=
  (s.team (s.laneTeam lk)).cvs.flatMap fun p => match p.2.mma with
    | some (f, tree) =>
      if p.2.full && p.2.owner = groupOf lk % 64 && (p.2.signed &&& p.2.guards).getLsbD (posOf lk) then
        (form (if tree then .mmat f else .mma f)).shape.flds.flatMap fun x => match x.pos, x.use with
          | 27, .reg n _ _ _ => (List.range n).map (x.val + ·)
          | _, _ => []
      else []
    | none => []

/-- Registers still to be written for a lane: by accesses, by matrix rounds (R284), by TREELD (R286). -/
def State.owedTo (s : State) (lk : Nat) : List Nat :=
  let mma := match s.mma.get? (coreOf (groupOf lk)) with
    | some r => (r.writes.filter fun w => w.1 = lk).map fun w => w.2.1
    | none => []
  let tree := match (s.team (s.laneTeam lk)).treePend with
    | some x =>
      if x.gkey = groupOf lk && (x.mask.getLsbD (posOf lk) || 0x100 ≤ x.d.toNat) && x.d.toNat < 0x140 then [x.d.toNat] else []
    | none => []
  s.owedByAccs lk ++ mma ++ s.owedByRounds lk ++ tree

/-- Registers that an instruction reads or writes, as register fields number them. The row of a matrix instruction, the registers
of a tile, a bulk payload and the range of a handoff are taken at their longest; REGREL names every register (R207). -/
def regsNamed (i : Instr) : List Nat :=
  let fields := (form i).shape.flds.flatMap fun x => match x.use with
    | .reg n _ _ _ => if x.val < 0x140 then (List.range n).map (x.val + ·) else []
    | _ => []
  let from_ := fun (lo hi : Nat) => (List.range (hi - lo)).map (lo + ·)
  match i with
  | .exit _ => []
  | .mma f | .mmat f => fields ++ (List.range 33).map (f.a.toNat + ·)
  | .xstore f => fields ++ from_ f.d.toNat 0x100
  | .xbulk f => fields ++ from_ f.d.toNat 0x140
  | .handoff _ | .regrel _ => from_ 0 0x100
  | _ => fields

/-- The scoreboard (R134, R253, R284): an instruction that names a register still to be written. REGREL looks at every lane of its
group (R207). -/
def State.scoreboard (s : State) (i : Instr) : Bool :=
  let regs := regsNamed i
  let lanes := match i with | .regrel _ => groupLanes s.cur.gkey | _ => s.setLanes
  lanes.any fun lk => (s.owedTo lk).any regs.contains

/-- How an instruction orders what is before it: not, as a release, or in the order S (R233, R237). -/
inductive Before where
  | free | release | total
  deriving DecidableEq, Repr

/-- The order of an access by its ORD field. -/
def beforeOrd (ord : Nat) : Before := if ord = 5 then .total else if ord = 3 || ord = 4 then .release else .free

/-- A store or RMW by its order; and what releases by its rule: arrivals (R219), engine commands and loads (R245), queue
messages (R318), launches, services, frame writes (R390) and leases (R399). A FENCE waits after
it has issued. -/
def before (i : Instr) : Before :=
  match i with
  | .st f | .stc f | .atom f | .acas f => beforeOrd f.ord.toNat
  | .ld f | .ldc f => if f.ord.toNat = 5 then .total else .free
  | .barv _ | .bclustArv _ | .xcopy _ | .xcopyp _ | .xstore _ | .xbulk _ | .xpub _ | .xpull _ | .xsig _ | .xrun _
  | .xfill _ | .wload _ | .launch _ | .qput _ | .svcWalltime _ | .svcQcreate _ | .svcQclose _ | .svcCommcreate _
  | .svcCommend _ | .svcBarrmint _ | .svcGrantreq _ | .fstset _ | .leaseopOffer _ | .leaseopAccept _ | .leaseopReclaim _
  | .leaseopRelease _ | .leaseopForce _ | .leaseopQuery _ => .release
  | _ => .free

/-- The threads of the guard-true lanes. -/
def State.threadsOf (s : State) (i : Instr) : List Nat := (s.guardTrue (form i).guard).map fun lk => (s.lane lk).tid

/-- The plans of an access instruction's lanes, as it would run now. -/
def accPlan (i : Instr) : Option (State → Nat → Plan) :=
  match i with
  | .ld f => some (ldPlan f)
  | .st f => some (stPlan f)
  | .ldc f => some (ldcPlan f)
  | .stc f => some (stcPlan f)
  | .ldm f => some (ldmPlan f)
  | .stm f => some (stmPlan f)
  | .atom f => some (atomPlan f)
  | .acas f => some (acasPlan f)
  | .spillMemory f => some (spillPlan f)
  | .fillMemory f => some (fillPlan f)
  | .cdlg f => some (cdlgPlan f)
  | .treeld f => some fun s lk => if (s.guardTrue f.g).head? = some lk then treePlan f s lk else ⟨[], none⟩
  | _ => none

/-- The accesses that an instruction would make now. -/
def State.accsOf (s : State) (i : Instr) : List Acc :=
  match accPlan i with
  | some plan => (s.memPlans i plan 0).flatMap fun p => p.2.accs.map Prod.fst
  | none => []

/-- A release of an access instruction is eager (R240): an access of this device that is not performed in L1. What releases by its
rule is eager. -/
def State.eager (s : State) (i : Instr) : Bool :=
  (accPlan i).isNone || (s.accsOf i).any fun x => x.peer.isNone && !s.inL1 x

/-- A release waits until its threads' earlier loads have returned and their earlier stores to this device, its windows and the
host are performed. Stores through REMOTE capabilities it waits for when it is eager (R240), and in the order S (R237); a remote
or lazy release orders none of them (R248). -/
def State.releaseWaits (s : State) (i : Instr) : Bool :=
  let t := s.teamOf s.cur.gkey
  let tids := s.threadsOf i
  let mine := fun (p : Nat × Acc) => p.2.team = t && tids.contains p.2.tid
  match before i with
  | .free => false
  | b => (s.outst.any fun p => mine p && (p.2.kind = .load || p.2.peer.isNone)) ||
      ((s.outst.any fun p => mine p && p.2.kind ≠ .load && p.2.peer.isSome) && (b = .total || s.eager i))

/-- Opcodes whose instructions make accesses, order them, or work for a unit that does: barriers, waits, accesses, weight and tree
loads, commands, queues, launches, spills, services, frames, leases. Arithmetic, control flow, REGROUP, samples and counters are
ordered by no acquire (R132, R134, R198, R250), nor are BINIT, BEXPB and BREAD (R219). -/
def ordersAccesses (op : Nat) : Bool :=
  !(op = 0x70 || op = 0x73 || op = 0x75) && ((0x70 ≤ op && op ≤ 0x8C) || (0xB0 ≤ op && op ≤ 0xC4) || [0x9D, 0xA2, 0xA8, 0xCA, 0xCB, 0xD3, 0xE2, 0xE3, 0xE7, 0xE8].contains op)

/-- A thread of the set whose FENCE still waits, which holds back whatever comes next (R259), or whose acquire has no answer yet,
which holds back what orders accesses (R242). -/
def State.orderWaits (s : State) (i : Instr) : Bool :=
  let t := s.teamOf s.cur.gkey
  let tids := s.setLanes.map fun lk => (s.lane lk).tid
  (s.fences.any fun p => p.2.team = t && p.2.tids.any tids.contains) ||
    ((match (form i).op? with | some op => ordersAccesses op | none => false) &&
      s.outst.any fun p => p.2.team = t && tids.contains p.2.tid && p.2.acquires && p.2.batch ≠ 0)

/-- A remote access has not been handed to a route yet: it waits behind others or for tokens, or its request waits for a route. -/
def State.unrouted (s : State) (x : Acc) : Bool :=
  match x.place with
  | .order | .port => true
  | .remote p rn => s.unsent.any fun m => isRequest m s.parish && m.dst = p && m.rnum = rn
  | _ => false

/-- An ordered request waits until its thread's earlier remote stores, RMWs and packets have been handed to a route (R417). -/
def State.oflWaits (s : State) (i : Instr) : Bool :=
  let ofl := match i with | .st f | .atom f | .acas f => f.ofl == 1 | _ => false
  let t := s.teamOf s.cur.gkey
  let tids := s.threadsOf i
  ofl && (s.bulkOwed t tids || s.outst.any fun p =>
    p.2.team = t && tids.contains p.2.tid && p.2.kind ≠ .load && p.2.peer.isSome && s.unrouted p.2)

/-- Whether a core holds as many commands as it can, whoever has issued them (R290). -/
def State.queueFull (s : State) (core : Nat) : Bool :=
  64 ≤ (s.cmds.filter fun p => p.2.core = core && p.2.unfinished).length

/-- The table of outstanding requests has no room for those of an instruction (R265); one that needs more than it ever holds goes when
the table is empty. -/
def State.tableWaits (s : State) (i : Instr) : Bool :=
  let used := s.tableUsed s.cur.core
  let n := match i with
    | .pref f => 2 * (s.guardTrue f.g).length
    | .waita f => (s.guardTrue f.g).length
    | i => s.requestCount (s.accsOf i)
  used ≠ 0 && 0 < n && 1536 < used + n

/-- A thread's own store or RMW to the granule of a word is still on its way (R235). -/
def State.ownStore (s : State) (lk a : Nat) : Bool :=
  s.outst.any fun p => p.2.team = s.laneTeam lk && p.2.tid = (s.lane lk).tid && p.2.peer.isNone && p.2.kind ≠ .load &&
    p.2.addr / 16 = a / 16

/-- The first 64 bytes that a quad's cursor names stall at the gate. -/
def State.stalls (s : State) (lk : Nat) (f : BitVec 9) (n : Nat) (isStore : Bool) : Bool :=
  let q := s.quad lk f
  match s.accPlace (s.laneCtx lk) s.cur.core (s.laneColour lk) (Cap.ofQuad q.1).cur n isStore false false with
  | .ok .stall => true
  | _ => false

/-- An instruction would go on for its acting lane: it reads no poison, and what it does there is no fault. -/
def State.goesOn (s : State) (i : Instr) (l : Nat) (once : State → Nat → State × LaneRes) : Bool :=
  (s.poisonOf i l).isNone && (match (once s l).2 with | .ok _ => true | .error _ => false)

/-- What one instruction waits for that no register tells: a stalled word or record, its thread's own store to a word that it waits
on, a weight slot that is LOADING or that a full round still has to read (R275, R277), a TREELD before it, room among the commands
of the core where it would create one (R289, R290); an XRUN of a busy block creates none (R307). -/
def State.unitWaits (s : State) (i : Instr) : Bool :=
  let ls := s.guardTrue (form i).guard
  let core := s.cur.core
  let first := fun (p : Nat → Bool) => match ls with | l :: _ => p l | [] => false
  match i with
  | .waita f => ls.any fun lk => match waitCheck f s lk with
      | .ok (_, .stall) => true
      | .ok (a, _) => s.ownStore lk a
      | .error _ => false
  | .leaseopOffer f | .leaseopAccept f => first fun l => s.stalls l f.a 16 false
  | .leaseopQuery f => first fun l => s.stalls l f.b 16 true
  | .wload f => first fun l => match wloadCheck f s l with
      | .ok (n, _, _) => s.slotWanted (s.laneCtx l) core n
      | .error _ => false
  | .winv f => first fun l =>
      let n := s.slotNo l f.mod.toNat f.a
      ((s.ctx (s.laneCtx l)).slot core n).state = .loading || s.slotWanted (s.laneCtx l) core n
  | .treeld _ => first fun l => (s.team (s.laneTeam l)).treePend.isSome
  | .xrun f => first fun l => s.queueFull core && (match blockCheck f Perm.cmd s l with
      | .ok a => (s.blockOwner a).isNone
      | .error _ => false)
  | .xcopy f => first fun l => s.queueFull core && s.goesOn i l (xcopyOnce f 0xB0 false)
  | .xcopyp f => first fun l => s.queueFull core && s.goesOn i l (xcopyOnce f 0xB1 true)
  | .xstore f => first fun l => s.queueFull core && s.goesOn i l (xstoreOnce f)
  | .xbulk f => first fun l => s.queueFull core && s.goesOn i l (xbulkOnce f)
  | .xpull f => first fun l => s.queueFull core && s.goesOn i l (xpullOnce f)
  | .xfill f => first fun l => s.queueFull core && s.goesOn i l (xfillOnce f)
  | _ => false

/-- The instruction in `cur` cannot issue now. -/
def State.blocked (s : State) (i : Instr) : Bool :=
  s.scoreboard i || s.orderWaits i || s.releaseWaits i || s.oflWaits i || s.unitWaits i || s.tableWaits i

/-! ## The next instruction of a clause in progress -/

/-- What a port would do now. -/
inductive Ready where
  /-- no lane of the clause issues any longer -/
  | over
  /-- the fetch of the word faults -/
  | fault (f : Flt)
  /-- the word is no instruction -/
  | illegal
  | run (i : Instr)
  deriving DecidableEq, Repr

/-- The clause of a port. -/
def ISlot.clause (i : ISlot) (port : Nat) : Option Clause := if port = 0 then i.c0 else i.c1

/-- The lanes of a clause that are live. -/
def State.liveMask (s : State) (gk : Nat) (c : Clause) : DWord :=
  lanesMask ((maskLanes c.mask).filter fun p => (s.lane (gk * 64 + p)).live)

/-- The state with the next instruction of a clause in `cur`; `w` is its word as fetched. -/
def State.withCur (s : State) (k port : Nat) (c : Clause) (w : DWord) : State :=
  let subs := s.substitutes w
  { s with cur :=
      { core := k / 4
        gslot := c.gslot
        port := port
        mask := s.liveMask (k / 4 * 64 + c.gslot) c
        pc := c.hdr + 8 + BitVec.ofNat 64 (8 * c.idx)
        word := w
        hdr := c.hdr
        hw := c.hw
        idx := c.idx
        sub := subs.map fun l => (c.sub, l.length) } }

/-- The word that is decoded: the word fetched, or the substitute in turn (R45). -/
def State.issueWord (s : State) (w : DWord) (k : Nat) : DWord :=
  match s.substitutes w with | some l => l.getD k 0 | none => w

/-- The word of a clause's next instruction: from the fetch buffer of its issue slot, else fetched now (R267). -/
def State.clauseWord (s : State) (gk : Nat) (c : Clause) (pc : DWord) : Fetch :=
  match c.words.get? c.idx with
  | some w => .word w
  | none => s.fetch (s.teamOf gk) pc

/-- The word for a port: the second port of a pair has the fault that its fetch gave before the cycle (R128). -/
def State.portWord (s : State) (k port gk : Nat) (c : Clause) (pc : DWord) : Fetch :=
  match (if port = 1 then (s.islot k).snap.bind (·.late) else none) with
  | some f => .fault ⟨f.code, f.info, f.aux, 0⟩
  | none => s.clauseWord gk c pc

/-- What a port of an issue slot does next, with the instruction in `cur`; nothing when it waits. The second of a pair waits for
nothing any more: both issue in the cycle for which they were found ready (R128, R170). -/
def State.look (s : State) (k port : Nat) : Option (State × Ready) :=
  match (s.islot k).clause port with
  | none => none
  | some c =>
    let gk := k / 4 * 64 + c.gslot
    let s0 := s.withCur k port c 0
    let pc := s0.cur.pc
    if s0.cur.mask = 0 then some (s0, .over)
    else if s.held gk && (s.islot k).snap.isNone then none
    else match s.portWord k port gk c pc with
      | .stall => none
      | .fault f => some (s0, .fault f)
      | .word w =>
        let s1 := (if (c.words.get? c.idx).isSome then s else s.fetchFill (k / 4) pc.toNat).withCur k port c w
        match decode (s.issueWord w c.sub) with
        | .error _ => some (s1, .illegal)
        | .ok i => if (s.islot k).snap.isNone && s1.blocked i then none else some (s1, .run i)

/-- A failed fetch of an instruction word is a fault of every lane at it (R175). -/
def State.fetchFault (s : State) (f : Flt) : State :=
  let site := s.site 0
  (s.setLanes.foldl (fun s lk => s.takeFault lk f site) s).advanceClause [] false

/-- Rows after which nothing more of the present cycle takes place, so that what a matrix round or a fault of it reads is as it stood
before it (R128, R275, R285, R372). -/
def endsCycle (i : Instr) : Bool :=
  match i with
  | .tidset _ | .mpredSet _ | .trapsetSet _ | .trapsetClr _ | .treeld _ => true
  | _ => false

/-- What takes a cycle for itself: an event from outside, and what leaves such a row behind; whatever else has a rank comes in another
cycle (R217, R314, R399). -/
def Rank.last : Rank := ⟨4, 0, 0, 0, 0, 0⟩

/-- An instruction executes, and the cycle ends with it where it must. -/
def runInstr (i : Instr) (s : State) : Res :=
  match exec i s with
  | .next t => .next (if endsCycle i then { t with rank := some Rank.last } else t)
  | r => r

/-- What is ready takes place: one instruction, one fault, or the end of its clause. -/
def State.actReady (s : State) (k port : Nat) (r : Ready) : Res :=
  match r with
  | .over => .next (s.endClause k port)
  | .fault f => .next (s.fetchFault f)
  | .illegal => .next (s.decodeFault ⟨Code.illegal, 0, 0, 0⟩)
  | .run i => runInstr i s

/-- The lanes whose deferred fault comes before the next instruction (R365, R451). -/
def State.lateLanes (s : State) : List Nat := s.setLanes.filter s.deferredDue

/-- One lane's deferred fault is taken; it leaves the lane set of the instruction. -/
def State.takeDeferred (s : State) (lk : Nat) : State :=
  match execDeferredFault lk s with
  | .next t => { t with cur := { t.cur with mask := t.cur.mask &&& ~~~(1#64 <<< posOf lk) } }
  | _ => s

/-- A port acts. On one instruction the deferred faults are recorded first; then it issues for the lanes that are left
(R371). -/
def State.issue (s : State) (k port : Nat) : Res :=
  match s.look k port with
  | none => .next s
  | some (s1, r) =>
    let s2 := s1.lateLanes.foldl State.takeDeferred s1
    if s2.cur.mask = 0 && s1.cur.mask ≠ 0 then .next s2 else s2.actReady k port r

/-- What the second port reads when both issue in one cycle (R128); `late` is the fault of its fetch. -/
def State.pairSnap (s : State) (gk : Nat) (late : Option Late) : PairSnap :=
  let g := s.group gk
  let m := s.team g.team
  let x := s.ctx m.ctx
  { sregs := g.sregs
    stags := g.stags
    spoison := g.spoison
    fpmode := m.fpmode
    scratch := m.scratch
    states := (groupLanes gk).map fun lk => (s.lane lk).state
    tns := m.tns
    mrow := x.mrow
    mcol := x.mcol
    tree := m.tree
    treeBy := m.treePend.map (·.num)
    handler := (s.vers.get? m.ver).bind (·.handler)
    late := late
    seqs := [] }

/-- The state in which both ports of a slot issue in one cycle: what stands before it is kept for the second, and the word that it has
fetched is in its fetch buffer. -/
def State.paired (s : State) (k gk : Nat) (r : Ready) (w : DWord) : State :=
  let late := match r with | .fault f => some (⟨f.code, f.info, f.aux⟩ : Late) | _ => none
  let keep := fun (c : Clause) =>
    match r with
    | .run _ | .illegal => { c with words := c.words.set c.idx w }
    | _ => c
  s.modISlot k fun i => { i with c1 := i.c1.map keep, snap := some (s.pairSnap gk late) }

/-- The lanes of a group that take a fault when both its ports issue, and the numbers of their faults: in lane order (R367). -/
def State.pairSeqs (s : State) (k gk : Nat) : Tbl Nat :=
  let n := (s.ctx (s.ctxOf gk)).faultSeq
  match s.issue k 0 with
  | .next t => match t.issue k 1 with
    | .next u =>
      let ls := (groupLanes gk).filter fun lk => n < (u.lane lk).fault.seq
      (List.range ls.length).map fun j => (ls.getD j 0, n + 1 + j)
    | _ => []
  | _ => []

/-- Both instructions of a pair have issued. -/
def unpaired (k : Nat) (r : Res) : Res :=
  match r with
  | .next t => .next (t.modISlot k fun i => { i with snap := none })
  | r => r

/-- An issue slot acts through a port. When both ports have an instruction to issue they issue in one cycle (R170): the second then
reads what stood before it (R128), and the faults of both are numbered in lane order (R367). -/
def State.issueSlot (s : State) (k port : Nat) : Res :=
  let i := s.islot k
  match (if port = 0 then i.c1 else none), s.look k 1 with
  | some c, some (v, r) =>
    let gk := k / 4 * 64 + c.gslot
    let s1 := s.paired k gk r v.cur.word
    (s1.modISlot k fun i => { i with snap := i.snap.map fun p => { p with seqs := s1.pairSeqs k gk } }).issue k 0
  | _, _ => if port = 0 then s.issue k 0 else unpaired k (s.issue k 1)

/-- The port of an issue slot that may act: the first where it is ready, else the second; after the first of a pair, the
second. -/
def State.portsDue (s : State) (k : Nat) : List Nat :=
  let ready := fun p => (s.look k p).isSome
  if (s.islot k).snap.isSome then (if ready 1 then [1] else []) else ([0, 1].filter ready).take 1

/-- The second instruction of a pair cannot issue after all. -/
def State.unpairDue (s : State) (k : Nat) : Bool := (s.islot k).snap.isSome && (s.look k 1).isNone

/-! ## What may happen next -/

/-- A step that is due, by the meaning of its row. -/
def Due.run (d : Due) (s : State) : Res :=
  match d with
  | .waitaTimeout a => execWaitaTimeout a s
  | .waitaHostPoll a => execWaitaHostPoll a s
  | .laneWake a => execLaneWake a s
  | .loadReturn a => execLoadReturn a s
  | .fenceComplete a => execFenceComplete a s
  | .mmaRoundComplete a b => execMmaRoundComplete a b s
  | .mmaComplete a => execMmaComplete a s
  | .wloadComplete a => execWloadComplete a s
  | .treeldComplete a => runInstr (.treeldComplete a) s
  | .engineCommandStart a => execEngineCommandStart a s
  | .cmdCopy a => execCmdCopy a s
  | .cmdTcopy a => execCmdTcopy a s
  | .cmdTcopyp a => execCmdTcopyp a s
  | .cmdFill a => execCmdFill a s
  | .cmdAllreduce a => execCmdAllreduce a s
  | .cmdReducescatter a => execCmdReducescatter a s
  | .cmdAllgather a => execCmdAllgather a s
  | .cmdBroadcast a => execCmdBroadcast a s
  | .xpullRecordRead a => execXpullRecordRead a s
  | .engineCommandEnd a => execEngineCommandEnd a s
  | .regacqGrant a b => execRegacqGrant a b s
  | .clauseVote a b => execClauseVote a b s
  | .groupPromotion a b => execGroupPromotion a b s
  | .regroupShuffleStart a => execRegroupShuffleStart a s
  | .regroupPass a => execRegroupPass a s
  | .teamPlacement a => execTeamPlacement a s
  | .launchLevelAge a => execLaunchLevelAge a s
  | .teamRetire a => execTeamRetire a s
  | .multiArmedTimeout a => execMultiArmedTimeout a s
  | .contextResetDone a => execContextResetDone a s
  | .drainDeadline a b => execDrainDeadline a b s
  | .tokenRefill => execTokenRefill s
  | .portRequestSend a b => execPortRequestSend a b s
  | .sharedCounterUpdate => execSharedCounterUpdate s
  | .governorStep a => execGovernorStep a (Config.governor a s.tick % 7) s
  | .syncNotice => execSyncNotice s
  | .homeSliceAtomic a => execHomeSliceAtomic a s
  | .promotionAck a => execPromotionAck a s
  | .oflRelease a => execOflRelease a s
  | .hostAccessTimeout a => execHostAccessTimeout a s
  | .sweepAck a => execSweepAck a s
  | .coreSweep a => execCoreSweep a s
  | .sweepPassComplete => execSweepPassComplete s
  | .scrubSubframe a => execScrubSubframe a s
  | .leaseAcceptTimeout a => execLeaseAcceptTimeout a s
  | .leaseTerm a => execLeaseTerm a s
  | .leaseDrainDone a => execLeaseDrainDone a s
  | .leaseCopyDone a => execLeaseCopyDone a s
  | .leaseDeadline a => execLeaseDeadline a s
  | .ackTimeout a => execAckTimeout a s
  | .replayLimit a => execReplayLimit a s
  | .linkRekey a => execLinkRekey a s
  | .peerUnreachable a => execPeerUnreachable a s
  | .sealingKeyAgree a => execSealingKeyAgree a s
  | .chairliftProbe a => execChairliftProbe a s
  | .modulePowerDown => execModulePowerDown s
  | .flitSlot a => execFlitSlot a s
  | .reeveAnswer a => execReeveAnswer a s

/-- Something that the device may do next. All but the first two belong to rows that began earlier: they finish what those rows
describe. -/
inductive Act where
  | due (d : Due)
  | port (k port : Nat)
  | unpair (k : Nat)
  | park (k : Nat)
  | unpark (k : Nat)
  | retry (acc : Nat)
  | pump (cmd : Nat)
  | pumpJob (job : Nat)
  | settle (launch : Nat)
  | moveTeam (team : Nat)
  | save (ctx : Nat)
  | walk
  | serve (held : Nat)
  | rdma
  | copy (lease : Nat)
  | image (job : Nat)
  | own
  deriving DecidableEq, Repr

/-- A vote is due at an issue slot, and no lane there has a timeout that has passed: such a lane is awake at the vote, with all that
time out in the same cycle (R126, R226). -/
def State.voteReady (s : State) (k : Nat) : Bool :=
  s.voteDue k && !s.sleepers.any fun lk =>
    coreOf (groupOf lk) * 4 + groupOf lk % 4 = k && s.timeoutDue lk

/-- What an issue slot may not put off: its vote, its promotions, and the parking and the return of held clauses (R168, R171,
R172). -/
def State.slotForced (s : State) (k : Nat) : List Act :=
  (if s.voteReady k then [.due (.clauseVote (k / 4) (k % 4))] else []) ++ (s.promotionDue k).map .due ++
  (if s.parkDue k then [.park k] else []) ++ (if s.unparkDue k then [.unpark k] else [])

/-- What an issue slot may do. -/
def State.slotActs (s : State) (k : Nat) : List Act :=
  s.slotForced k ++ (s.portsDue k).map (.port k ·) ++ (if s.unpairDue k then [.unpair k] else [])

/-- Every row that is due. -/
def State.dueNow (s : State) : List Due :=
  s.memoryDue ++ s.waitDue ++ s.regDue ++ s.matrixDue ++ s.regroupDue ++ s.commandDue ++ s.probesDue ++ s.pageDue ++
    s.launchDue ++ s.contextDue ++ s.sweepDue ++ s.serviceDue ++ s.leaseDue ++ s.linkDue

/-- The second instruction of a pair, which comes next once the first has issued (R128, R170). -/
def State.pairActs (s : State) (k : Nat) : List Act :=
  (s.portsDue k).map (.port k ·) ++ (if s.unpairDue k then [.unpair k] else [])

/-- Everything that may happen next. What of it comes first is free (log entry 3) but for what follows below. -/
def State.acts (s : State) : List Act :=
  match s.islots.find? fun p => p.2.snap.isSome with
  | some p => s.pairActs p.1
  | none =>
    s.dueNow.map .due ++ s.islots.flatMap (fun p => s.slotActs p.1) ++
    ((s.outst.filter fun p => s.retryDue p.1 p.2).map fun p => .retry p.1) ++ s.pumpDue.map .pump ++ s.jobsPump.map .pumpJob ++
    s.launchesOver.map .settle ++ s.movesDue.map .moveTeam ++ s.savesDue.map .save ++ (if s.walkReady then [.walk] else []) ++ s.stalledDue.map .serve ++
    (if s.rdmaReady then [.rdma] else []) ++ s.copiesDue.map .copy ++ s.leaseImages.map .image ++
    (if s.ownMsg.isSome then [.own] else [])

/-- One of them happens. -/
def Act.run (a : Act) (s : State) : Res :=
  match a with
  | .due d => d.run s
  | .port k p => s.issueSlot k p
  | .unpair k => .next (s.modISlot k fun i => { i with snap := none })
  | .park k => .next (s.park k)
  | .unpark k => .next (s.unpark k)
  | .retry n => match s.outst.get? n with | some x => .next (s.retryAcc n x) | none => .next s
  | .pump n => .next (s.pump n)
  | .pumpJob n => .next (s.pumpJob n)
  | .settle n => .next (s.settleLaunch n)
  | .moveTeam t => .next (s.moveTeam t)
  | .save c => .next (s.saveCtx c)
  | .walk => .next s.walkOn
  | .serve n => .next (s.serveHeld n)
  | .rdma => .next s.applyRdma
  | .copy n => .next (s.copyOn n)
  | .image n => .next (s.leaseResume n)
  | .own => .next s.takeOwn

/-! ## Time -/

/-- Requests that wait for tokens make their context's WAITCYC grow by the cycles that pass, and it is throttled (R353, R357). -/
def State.countWaits (s : State) (d : Nat) : State :=
  s.ctxs.foldl (fun s p => p.2.buckets.foldl (fun s b =>
    if s.portWaits p.1 b.1 then (s.count p.1 b.1 0x11 d).modBucket p.1 b.1 fun x => { x with throttled := true } else s) s) s

/-- The command or load of a number still has something to read or write. -/
def State.engineLives (s : State) (num : Nat) : Bool :=
  s.engineWaits num || (match s.cmds.get? num with | some c => c.unfinished && !c.moved | none => false) ||
    (s.wloads.get? num).isSome

/-- A command still owes its value word (R292). -/
def State.wordOwed (s : State) (num : Nat) : Bool :=
  match s.cmds.get? num with
  | some c => c.moved && (c.state = .running || c.owesError) && (match c.comp with | .word _ _ => true | _ => false)
  | none => false

/-- The answer to a request has come, or none is awaited (R265). -/
def State.reqDone (s : State) (n : Nat) (r : Req) : Bool :=
  match r.user with
  | .lanes => !s.outst.any fun p => p.2.req = n
  | .engine num _ => !s.engineLives num
  | .word num => !s.wordOwed num
  | .posted | .fill _ _ _ => true

/-- Requests that are done leave the table, and that of a PREF brings its line; one whose engine has ended leaves the port unsent. -/
def State.settleReqs (s : State) : State :=
  let done := s.reqs.filter fun p => p.2.sent.isSome && s.reqDone p.1 p.2
  let s1 := done.foldl (fun s p => (s.freeReq p.1 p.2).filled p.2) s
  let dead := fun (p : Nat × Req) => p.2.sent.isNone &&
    (match p.2.user with | .engine n _ => !s.engineLives n | .word n => !s.wordOwed n | _ => false)
  { s1 with reqs := s1.reqs.filter fun p => !dead p }

/-- `d` reference cycles pass: the monitors, the core clocks and the waits go on, answered requests leave their tables, clean lines
that an L1 has held long enough are dropped, the internal queues move, the next cycle has no actor yet, and the wait of a held group
for its promotion does not grow (R171). -/
def State.passTime (s : State) (d : Nat) : State :=
  if d = 0 then s
  else
    let s1 := (((s.settleReqs.runMonitors d).runClocks d).countWaits d).queueTraffic (Config.queueTraffic s.tick)
    { s1 with
      now := s1.now + d
      rank := none
      groups := s1.groups.map fun (p : Nat × Group) =>
        (p.1, if s.held p.1 then { p.2 with lastIssue := p.2.lastIssue + d } else p.2) }.expireLines

/-- Cycles until the reference counter is next a multiple of 1,024, where refills, updates and the governor's choices fall
(R174, R353, R357). -/
def State.untilPeriod (s : State) : Nat := 1024 - s.now % 1024

/-- What takes place at once: what falls due at this instant of the reference counter, requests that can pay, and the end of the
millisecond after which a module that is too hot powers down (R427). -/
def State.atOnce (s : State) : List Due := s.instantDue ++ s.deviceDue

/-- Cycles until the module powers down, if it is to. -/
def State.untilPowerDown (s : State) : Nat := match s.thermalAt with | some t => t + powerDownDelay - s.now | none => 1024

/-- What comes before any cycle passes: what no slot may put off, and the timeouts that have passed (R126, R226). -/
def State.forced (s : State) : List Act :=
  s.islots.flatMap (fun p => s.slotForced p.1) ++
  (s.sleepers.filter s.timeoutDue).map fun lk => .due (.waitaTimeout lk)

/-- The cycles that pass after a step (log entry 4): none while a pair is incomplete, something is forced or takes place at once, and
never past the next period or the end of power. -/
def State.cycles (s : State) : Nat :=
  if !s.forced.isEmpty || !s.atOnce.isEmpty || s.islots.any (fun p => p.2.snap.isSome) then 0
  else min (min (Config.elapsed s.tick) s.untilPeriod) s.untilPowerDown

/-- Time passes after a step. -/
def State.advance (s : State) : State :=
  let s1 := s.passTime s.cycles
  { s1 with tick := s1.tick + 1 }

/-- Time passes after a step that goes on. -/
def afterStep : Res → Res
  | .next s => .next s.advance
  | r => r

/-! ## The order of one cycle -/

/-- The rank of the engine that has a command (R290): by engine number, then by die (R217). -/
def State.cmdRank (s : State) (n : Nat) : Option Rank :=
  (s.cmds.get? n).map fun c => ⟨1, c.engine * 8 + c.core / 256, 0, 0, 0, 0⟩

/-- The rank of what a lane's own core does for it: a fault of it is numbered by core, group slot and lane (R367). -/
def laneRank (lk : Nat) : Rank := ⟨0, coreOf (groupOf lk), 0, groupOf lk % 64 * 64 + posOf lk, 2 * (groupOf lk % 4), 0⟩

/-- The rank of an access that goes on or completes, where it may record a fault: an acquire, or one whose thread has left. -/
def State.accRank (s : State) (n : Nat) : Option Rank :=
  (s.outst.get? n).bind fun x =>
    if x.team = 0 then none
    else match s.findThread x.team x.tid with
      | some lk => if x.acquires || (s.lane lk).state = .exited then some (laneRank lk) else none
      | none => some ⟨0, x.core, 0, 0, 0, 0⟩

/-- The rank of a step that is due: where it stands among what one cycle holds. What changes nothing whose order the manual
names has none; what answers to several of these classes, or to a port whose engine is not known, takes a cycle for itself. -/
def Due.rank (d : Due) (s : State) : Option Rank :=
  match d with
  | .clauseVote core islot => (s.firstGroup (core * 4 + islot)).map fun g => ⟨0, core, 0, g * 64, 2 * islot + 1, 0⟩
  | .engineCommandStart core => (s.headCmd core).bind fun p => s.cmdRank p.1
  | .cmdCopy n | .cmdTcopy n | .cmdTcopyp n | .cmdFill n | .cmdAllreduce n | .cmdReducescatter n | .cmdAllgather n
  | .cmdBroadcast n | .xpullRecordRead n | .engineCommandEnd n => s.cmdRank n
  | .wloadComplete n => (s.wloads.get? n).map fun w => ⟨1, w.core / 256, 0, 0, 0, 0⟩
  | .loadReturn n | .homeSliceAtomic n | .hostAccessTimeout n => s.accRank n
  | .mmaRoundComplete team cv =>
    some ⟨0, (s.team team).core, 0, (s.cv team cv).owner * 64, 2 * ((s.cv team cv).owner % 4), 0⟩
  | .laneWake lk => match (s.lane lk).sleep with | some (.waita _) => some (laneRank lk) | _ => none
  | .leaseAcceptTimeout _ | .leaseTerm _ | .leaseDrainDone _ | .leaseCopyDone _ | .leaseDeadline _ => some ⟨2, 0, 0, 0, 0, 0⟩
  | .teamPlacement _ | .teamRetire _ | .multiArmedTimeout _ | .contextResetDone _ | .drainDeadline _ _ | .sweepPassComplete
  | .reeveAnswer _ => some ⟨3, 0, 0, 0, 0, 0⟩
  | .peerUnreachable _ | .oflRelease _ => some Rank.last
  | _ => none

/-- The rank of an act. -/
def Act.rank (a : Act) (s : State) : Option Rank :=
  match a with
  | .due d => d.rank s
  | .port k p => ((s.islot k).clause p).map fun c => ⟨0, k / 4, 0, c.gslot * 64, 2 * (k % 4) + 1, 0⟩
  | .retry n => s.accRank n
  | .pump n => s.cmdRank n
  | .pumpJob _ | .settle _ | .moveTeam _ | .save _ => some ⟨3, 0, 0, 0, 0, 0⟩
  | .image _ => some ⟨2, 0, 0, 0, 0, 0⟩
  | .serve _ | .rdma | .own => some Rank.last
  | _ => none

/-- What comes after what in one cycle: by class, then by number; on one core by core cycle, then by group slot (R206, R217, R314,
R318, R351, R367), and only where the issue slots stand in that order too (R69, R275); a slot issues once in a core cycle. -/
def Rank.before (a b : Rank) : Bool :=
  a.cls < b.cls || (a.cls = b.cls &&
    (a.major < b.major || (a.cls = 0 && a.major = b.major && (a.sub < b.sub || (a.sub = b.sub && a.minor < b.minor &&
      (a.islot < b.islot || (a.islot = b.islot && a.islot % 2 = 0)))))))

/-- The group slot after that of an act which updates a barrier that groups of several cores share: such updates of one cycle stand by
group slot (R217). -/
def Act.updates (a : Act) (s : State) : Nat :=
  match a with
  | .port k p => match s.look k p with
    | some (v, .run i) => (match i with
      | .bclustInit _ | .bclustArv _ | .bclustExp _ | .xsig _ => v.cur.gslot + 1
      | _ => 0)
    | _ => 0
  | _ => 0

/-- A core cycle in which a die that is too hot does not issue: every second one, here the odd ones (R427). -/
def Die.dutyOff (x : Die) (sub : Nat) : Bool := x.duty && (x.phase / 50 + sub) % 2 = 1

/-- The core cycles of the present reference cycle in which an act may take place (R3): those of its die for a core's, but for an
instruction those in which the die issues. -/
def State.subCycles (s : State) (a : Act) (r : Rank) : List Nat :=
  if r.cls ≠ 0 then [0]
  else
    let x := s.die (r.major / 256)
    (List.range x.cyclesNow).filter fun j => match a with | .port _ _ => !x.dutyOff j | _ => true

/-- The rank that an act takes after `l` in the present cycle, or none where it does not fit there: it comes after the last one that
had a rank, and what takes a cycle for itself comes first. -/
def State.rankAfter (s : State) (l : Option Rank) (a : Act) (r : Rank) : Option Rank :=
  let u := a.updates s
  let subs := s.subCycles a r
  match l with
  | none => subs.head?.map fun j => { r with sub := j, bar := u }
  | some l =>
    if r.cls = 4 || (u ≠ 0 && u ≤ l.bar) then none
    else (subs.find? fun j => l.before { r with sub := j }).map fun j => { r with sub := j, bar := max u l.bar }

/-- Whether an act fits into the present cycle, and the rank it then leaves: it has none, comes after the last one that had, or completes
its pair. -/
def State.actFits (s : State) (a : Act) : Option (Option Rank) :=
  let pair := match a with | .port k _ => (s.islot k).snap.isSome | _ => false
  match (if pair then none else a.rank s) with
  | none => some s.rank
  | some r => (s.rankAfter s.rank a r).map some

/-- The next cycle begins without it. -/
def State.nextCycle (s : State) : State := s.passTime 1

/-- What an act may not overtake: where it does not fit into the cycle, whatever is forced; else a vote that stands before it in the
order of the cycle (R168, R172). -/
def State.firstForced (s : State) (a : Act) : Option Act :=
  let here := s.forced.filter fun b => (s.actFits b).isSome
  match s.actFits a with
  | none => here.head?
  | some _ => here.find? fun b => match b.rank s, a.rank s with
    | some x, some y => x.before y
    | _, _ => false

/-- An act takes place in its cycle; what it may not overtake comes first, and where it does not fit the next cycle begins. -/
def State.inOrder (s : State) (a : Act) : Res :=
  let b := (s.firstForced a).getD a
  match s.actFits b with
  | some r => b.run { s with rank := r }
  | none => .next s.nextCycle

/-- The step of the device when no event reaches it: what falls at this instant of the reference counter, or one of the
things that may happen (log entry 3). -/
def State.move (s : State) : Res :=
  match s.atOnce, s.acts with
  | d :: _, _ => d.run s
  | [], [] => .next s
  | [], [a] => s.inOrder a
  | [], a :: as => s.inOrder (((a :: as)[Config.pick s.tick % (as.length + 1)]?).getD a)

/-- Room for an event from outside, which takes a cycle for itself: what comes before any cycle passes, then the next cycle. -/
def State.makeRoom (s : State) : Res :=
  match s.atOnce, s.forced.find? fun b => (s.actFits b).isSome with
  | d :: _, _ => d.run s
  | [], some b => s.inOrder b
  | [], none => .next s.nextCycle

/-- The step of the device: after power-down nothing; an event that reaches it, in a cycle of its own (R217, R314); else a move of its
own. -/
def State.stepOnce (s : State) : Res :=
  if !s.power then .fault .poweredOff
  else match s.inbox with
    | e :: rest =>
      if s.rank.isNone && s.islots.all (fun p => p.2.snap.isNone) then exec e { s with inbox := rest, rank := some Rank.last }
      else if s.islots.all fun p => p.2.snap.isNone then s.makeRoom
      else s.move
    | [] => s.move

end Sys2Proof.Machine
end

