-- ==== Sys2Proof/Machine/Step.lean ====
section
/-! DEFINITION. One step of the device, and a state in which a given word is the next instruction. -/

namespace Sys2Proof.Machine

/-- One step: what the device does, and the time it takes. -/
def step (s : State) : Host.Outcome State Fault Refusal := afterStep s.stepOnce

/-- Where withFetchWord puts its clause. -/
abbrev probeBase : Nat := 0x1000

/-- The header of a MIXED clause of one instruction (R23). -/
abbrev probeHeader : DWord := 0xFE70000000000000

/-- The kernel of withFetchWord: 256 registers, sixteen barriers, a pad region of 64 KiB, an inherit range. -/
def probeVersion : KVer where
  state := .current
  record := 0
  ctx := 0
  colour := 0
  imgBase := probeBase
  imgTop := probeBase + 4096
  cap := Cap.make Kind.code 0 (Perm.exec ||| Perm.ld) probeBase 4096 probeBase
  desc :=
    { entry := 0, base := 256, ext := 0, padKb := 64, nbar := 16, roles := [(1, 256)], fused := false, inherit := true,
      inhLo := 0, inhHi := 3, carry := 0 }
  handler := none

/-- The team of withFetchWord: one group of one thread on core 0. -/
def probeTeam : Team :=
  { Team.empty with ctx := 0, core := 0, launch := 1, index := 0, padOff := 0, padLen := 0x10000, ver := 1,
                    nteam := (1, 1, 1), roles := [(1, 256)], slots := [0] }

/-- Its lane stands at the one instruction of its clause. -/
def probeLane : Lane :=
  { Lane.empty with state := .active, pc := BitVec.ofNat 64 (probeBase + 8),
                    resume := some ⟨BitVec.ofNat 64 probeBase, probeHeader, 0, 0⟩ }

/-- The system context of withFetchWord, on the eight cores of cluster 0. -/
def probeCtx : Ctx :=
  { Ctx.empty with
    state := .active
    alloc := (List.range 8).map fun k => (k, ⟨1, 1, 1, 1, 0, false, true, false, none⟩)
    buckets := (List.range 8).map fun k => (k, { Bucket.empty with share := 256, own := 256 }) }

/-- A device that has booted and placed one team of one thread in the system context, whose next instruction is the word `w`:
the part does not fetch at a program counter after reset, so all that this takes is set here (log entry 55). Data in memory
stay; everything else is as after reset, so that nothing but this instruction is due. -/
def State.withFetchWord (s : State) (nbits w : Nat) : State :=
  { State.reset with
    tick := s.tick
    now := s.now
    lastRefill := s.now
    lastUpdate := s.now
    governed := (List.range 8).map fun d => (d, s.now)
    fresh := 1
    mem := (s.mem.setBytes probeBase (natBytes 8 probeHeader.toNat)).setBytes (probeBase + 8) (natBytes 8 (w % 2 ^ nbits))
    tags := s.tags
    poison := s.poison
    hostMem := s.hostMem
    frames := s.frames.set 0 (Fst.mk 0 0 0 false false 0 Fst.owned)
    bootstat := 1
    parish := s.parish
    mrt := Mrt.empty
    vers := [(1, probeVersion)]
    ctxs := [(0, { probeCtx with clockAt := s.now })]
    teams := [(1, probeTeam)]
    launches := [(1, { Launch.empty with ver := 1, nx := 1, ny := 1, nz := 1, threads := 1, state := .running, hi := 1,
                                         next := 1, live := 1 })]
    groups := [(0, { Group.empty with team := 1, lastIssue := s.now })]
    lanes := [(0, { probeLane with lastIssue := s.now })]
    islots := [(0, { ISlot.empty with
      rotation := [0]
      c0 := some ⟨0, 1, BitVec.ofNat 64 probeBase, probeHeader, 0, 0, false, []⟩ })] }

end Sys2Proof.Machine
end

