-- ==== Sys2Proof/Safety.lean ====
section
/-! DEFINITION. The terms that claims are stated in: memory in its canonical form, a safe step, an instruction that nothing
stops, and what completing it leaves of the machine. -/

namespace Sys2Proof.Machine

/-! ## Safe states and steps -/

/-- Device memory and host memory are in canonical form. -/
def State.memOk (s : State) : Prop := s.mem.wf = true ∧ s.hostMem.wf = true

/-- A step goes on, from canonical memory to canonical memory. -/
def State.SafeStep (s : State) : Prop := s.memOk → ∃ t, step s = .next t ∧ t.memOk

/-- THE NUMBERS IN USE HAVE BEEN GIVEN: every access outstanding, with the instruction or the work that it belongs to, and every
command, load, job, launch, request held, tree awaited, lease copied and walk carries a number that `fresh` has passed. -/
def State.NumbersUsed (s : State) : Prop :=
  (∀ p ∈ s.outst, p.1 ≤ s.fresh ∧ p.2.batch ≤ s.fresh) ∧ (∀ p ∈ s.cmds, p.1 ≤ s.fresh) ∧ (∀ p ∈ s.wloads, p.1 ≤ s.fresh) ∧
  (∀ p ∈ s.jobs, p.1 ≤ s.fresh) ∧ (∀ p ∈ s.leases, p.2.num ≤ s.fresh) ∧ (∀ p ∈ s.launches, p.1 ≤ s.fresh) ∧ (∀ p ∈ s.heldReqs, p.1 ≤ s.fresh) ∧
  (∀ p w, s.pass = some p → p.walk = some w → w.num ≤ s.fresh) ∧
  (∀ p ∈ s.teams, ∀ x, p.2.treePend = some x → x.num ≤ s.fresh) ∧
  (∀ p ∈ s.images, (∀ c ∈ p.2.cmds, c.1 ≤ s.fresh) ∧ (∀ l ∈ p.2.launches, l.1 ≤ s.fresh) ∧
    ∀ m ∈ p.2.work.teams, ∀ x, m.2.treePend = some x → x.num ≤ s.fresh)

/-- A message with this body is on its way to a peer: at a link, or held until a route is up (R401, R453). -/
def State.told (s : State) (peer : Nat) (b : MsgBody) : Prop :=
  ∃ m : FabMsg, m.src = s.parish ∧ m.dst = peer ∧ m.body = b ∧ (m ∈ s.unsent ∨ ∃ p ∈ s.links, m ∈ p.2.txq)

/-- A run of `n` steps that goes on. -/
def Runs : Nat → State → State → Prop
  | 0, s, t => s = t
  | n + 1, s, t => ∃ u, step s = .next u ∧ Runs n u t

/-! ## An instruction that nothing stops -/

/-- The lanes that act: the guard-true lanes of the issuing lane set. -/
def State.acting (s : State) (i : Instr) : List Nat := s.guardTrue (form i).guard

/-- No decode fault is raised (R46), and no acting lane reads a poisoned register (R377). -/
def State.Clear (s : State) (i : Instr) : Prop :=
  s.decodeCheck i = none ∧ ∀ lk ∈ s.acting i, s.poisonOf i lk = none

/-! ## What completing an instruction leaves -/

/-- A write as it changes a lane: a uniform register is not the lane's. -/
def Lane.put (l : Lane) : RegWrite → Lane
  | .reg f k v => if f.toNat < 0x100 then l.setReg (f.toNat + k) v else l
  | .bad f k => if f.toNat < 0x100 then { l with poison := insertNat l.poison (f.toNat + k) } else l
  | .quad f k v t => if f.toNat < 0x100 then l.setQuad (f.toNat / 4 + k) v t else l
  | .pred k b =>
      if k = 0 then l else { l with preds := if b then l.preds ||| (1#8 <<< k) else l.preds &&& ~~~(1#8 <<< k) }

/-- A write as it changes a group: only a uniform register is the group's. -/
def Group.put (g : Group) : RegWrite → Group
  | .reg f k v => if f.toNat < 0x100 then g else if f.toNat < 0x140 then g.setReg (f.toNat - 0x100 + k) v else g
  | .bad f k =>
      if f.toNat < 0x100 then g
      else if f.toNat < 0x140 then { g with spoison := insertNat g.spoison (f.toNat - 0x100 + k) } else g
  | .quad f k v t => if f.toNat < 0x100 then g else if f.toNat < 0x140 then g.setQuad ((f.toNat - 0x100) / 4 + k) v t else g
  | .pred _ _ => g

/-- A lane of the issuing set after an instruction: it stands behind it (R22, R25). -/
def State.behind (s : State) (l : Lane) : Lane :=
  { l with pc := s.cur.after.1, resume := s.cur.after.2, lastIssue := s.now }

/-- An effect as it changes the lane that it is an effect of. -/
def State.putWr (s : State) (l : Lane) : Wr → Lane
  | .rw w => l.put w
  | .pc t => { l with pc := t, resume := none }
  | .exit => { l with state := .exited, sleep := none, late := [] }
  | .sleep x => { l with state := .asleep (l.state = .trapped), sleep := some x, site := some (s.site 0) }
  | .eret retry => l.return retry s.now

/-- An effect as it changes the issuing group. -/
def Group.putWr (g : Group) : Wr → Group
  | .rw w => g.put w
  | _ => g

/-- The issuing group with the results of the lowest acting lane (R32). -/
def Group.putLow (g : Group) (ls : List Nat) (ws : Nat → List Wr) : Group :=
  match ls with
  | lk :: _ => (ws lk).foldl Group.putWr g
  | [] => g

/-- AN INSTRUCTION COMPLETED: from the state `s`, with its other effects made, to `t`. The acting lanes `ls` stand behind it
with their own results `ws`; the other lanes of the set stand behind it unchanged; uniform registers take the results of the
lowest acting lane (R32); the clause has advanced; and nothing else has changed. -/
structure Completed (s t : State) (ls : List Nat) (ws : Nat → List Wr) : Prop where
  acted : ∀ lk ∈ s.setLanes, lk ∈ ls → t.lane lk = (ws lk).foldl s.putWr (s.behind (s.lane lk))
  passed : ∀ lk ∈ s.setLanes, lk ∉ ls → t.lane lk = s.behind (s.lane lk)
  others : ∀ lk, lk ∉ s.setLanes → t.lane lk = s.lane lk
  uniforms : t.group s.cur.gkey = { (s.group s.cur.gkey).putLow ls ws with lastIssue := s.now }
  groups : ∀ gk, gk ≠ s.cur.gkey → t.group gk = s.group gk
  slots : ∀ k, k ≠ s.cur.islotKey → t.islot k = s.islot k
  rest : t = { s with lanes := t.lanes, groups := t.groups, islots := t.islots }

/-- The instruction `i` gives a next state, in which it has completed with the results `ws` after the effects that make
`s1` of the state. ISSUED and LANES have counted it (R357). -/
def GivesFrom (i : Instr) (s s1 : State) (ws : Nat → List Wr) : Prop :=
  ∃ t, exec i s = .next t ∧ Completed s1 t (s.acting i) ws

/-- The instruction `i` gives a next state with the results `ws`, and does nothing else. -/
def Gives (i : Instr) (s : State) (ws : Nat → List Wr) : Prop := GivesFrom i s (s.counted i) ws

/-- The instruction `i` acts once, through the lowest acting lane, where there is one: with the effect `e` and the results
`ws` for every acting lane (R32). With no acting lane it only advances. -/
def GivesOnce (i : Instr) (s : State) (e : Nat → State) (ws : Nat → List Wr) : Prop :=
  match s.acting i with
  | [] => Gives i s fun _ => []
  | l :: _ => GivesFrom i s (e l) fun _ => ws l

/-- The acting lanes of `i` act one after another, in lane order, from the state `s0`: `e` is the effect of a lane on the state
that those before it have left, and `ws` what it gets there. -/
def GivesInTurnFrom (i : Instr) (s s0 : State) (e : Nat → State → State) (ws : State → Nat → List Wr) : Prop :=
  ∃ t r, exec i s = .next t ∧ Completed ((s.acting i).foldl (fun u lk => e lk u) s0) t (s.acting i) r ∧
    ∀ pre lk post, s.acting i = pre ++ lk :: post → r lk = ws (pre.foldl (fun u lk => e lk u) s0) lk

/-- The acting lanes of `i` act one after another, and nothing else happens. -/
def GivesInTurn (i : Instr) (s : State) (e : Nat → State → State) (ws : State → Nat → List Wr) : Prop :=
  GivesInTurnFrom i s (s.counted i) e ws

/-- The instruction `i` raises a fault on a lane: the lane stands in its handler or is suspended, its record holds the code and
the instruction's address, and none of its registers, tags or predicates has changed (R363). -/
def Faults (i : Instr) (s : State) (lk : Nat) (code : Byte) : Prop :=
  ∃ t, exec i s = .next t ∧ (t.lane lk).fault.code = code ∧ (t.lane lk).fault.pc = s.cur.pc ∧
    ((t.lane lk).state = .trapped ∨ (t.lane lk).state = .suspended) ∧
    (t.lane lk).regs = (s.lane lk).regs ∧ (t.lane lk).tags = (s.lane lk).tags ∧ (t.lane lk).preds = (s.lane lk).preds

/-- WHAT TAKING FAULTS LEAVES of the machine beside the lanes of the issuing set: other lanes change only where a FAULT event
ends their EVGET; groups change only in their age, contexts only in their counters, their fault number and their event queue; of
the issue slots only the issuing one changes; and nothing else does (R314, R321, R357, R363, R367, R370). -/
structure FaultsOnly (s t : State) : Prop where
  others : ∀ lk, lk ∉ s.setLanes → t.lane lk = { s.lane lk with sleep := (t.lane lk).sleep }
  groups : ∀ gk, t.group gk = { s.group gk with lastIssue := (t.group gk).lastIssue }
  ctxs : ∀ c, t.ctx c = { s.ctx c with
    counters := (t.ctx c).counters, faultSeq := (t.ctx c).faultSeq, evq := (t.ctx c).evq, evWait := (t.ctx c).evWait }
  slots : ∀ k, k ≠ s.cur.islotKey → t.islot k = s.islot k
  rest : t = { s with
    lanes := t.lanes, groups := t.groups, islots := t.islots, ctxs := t.ctxs, fwq := t.fwq, fwWait := t.fwWait
    fresh := t.fresh, monitors := t.monitors }

/-- A lane that has taken a fault of the executing instruction, with the record `r` (R363, R369, R370): in the handler `h` where
it was ACTIVE and there is one, else SUSPENDED at the instruction; its return point is the instruction's. -/
def State.faulted (s : State) (l : Lane) (h : Option DWord) (r : FaultRec) (prog : Nat) : Lane :=
  let ret := { (s.site 0).ret with prog := prog }
  match (if l.state = .active then h else none) with
  | some h => { l with state := .trapped, pc := h, resume := none, fault := r, ret := some ret, sleep := none }
  | none => { l with state := .suspended, pc := s.cur.pc, resume := none, fault := r, susp := some ret, sleep := none }

/-- A lane that wakes (R126): ACTIVE, where its age begins anew (R169), or TRAPPED where it was so before it slept. -/
def State.awake (s : State) (l : Lane) : Lane :=
  { l with
    state := if l.state = .asleep true then .trapped else .active
    sleep := none
    site := none
    lastIssue := if l.state = .asleep true then l.lastIssue else s.now }

/-- THE LANE `lk` WOKE with the writes `ws`: its own results are in it and uniform ones in its group, and no other lane or group
has changed (R126, R32). -/
structure Woke (s t : State) (lk : Nat) (ws : List RegWrite) : Prop where
  lane : t.lane lk = ws.foldl Lane.put (s.awake (s.lane lk))
  group : t.group (groupOf lk) = ws.foldl Group.put (s.group (groupOf lk))
  lanes : ∀ k, k ≠ lk → t.lane k = s.lane k
  groups : ∀ g, g ≠ groupOf lk → t.group g = s.group g
  rest : t.teams = s.teams ∧ t.launches = s.launches ∧ t.vers = s.vers ∧ t.now = s.now

/-- The threads of a state are those of another: lanes, groups, teams, issue slots, launches, code versions, and the
instruction that executes. -/
def SameThreads (s t : State) : Prop :=
  t.lanes = s.lanes ∧ t.groups = s.groups ∧ t.teams = s.teams ∧ t.islots = s.islots ∧ t.launches = s.launches ∧
    t.vers = s.vers ∧ t.cur = s.cur ∧ t.now = s.now

/-- Bytes in the pad of the issuing core that the lane's context holds (R266). -/
def State.inPad (s : State) (lk x n : Nat) : Prop :=
  ∀ j < n, regionOf (x + j) = .pad ∧ (x + j - padBase) / 0x100000 = s.cur.core ∧
    s.holdsPad (s.laneCtx lk) s.cur.core ((x + j - padBase) % 0x100000) = true

/-- Byte `j` of the value that registers hold from a field on, low register first (R31). -/
def State.regByte (s : State) (lk : Nat) (f : BitVec 9) (j : Nat) : Byte := (s.reg lk f (j / 4)).extractLsb' (8 * (j % 4)) 8

/-- The write of a number to `n` registers. -/
def put (f : BitVec 9) (n v : Nat) : List Wr := (regWrites f v n).map .rw

/-- The write of a predicate that a field names. -/
def putPred (f : BitVec 9) (b : Bool) : List Wr := [.rw (.pred (f.toNat % 8) b)]

/-- The write of a quad with its tag. -/
def putQuad (f : BitVec 9) (q : Quad) (tag : Bool) : List Wr := [.rw (.quad f 0 q tag)]

end Sys2Proof.Machine
end

