-- ==== Sys2Proof/Certificates/Slice0/Obligations.lean ====
section
/-! DEFINITION. The statements about the model, each of them a proposition that the provers are to decide. `Gives`, `GivesOnce`
and `GivesInTurn` (Sys2Proof/Safety.lean) say of an instruction that it ANSWERS A NEXT STATE, what that state holds, and that
nothing else in it has changed. -/

open Sys2Proof Sys2Proof.Machine

/-! ## Integer, logic and conversion instructions (R137 to R149) -/

/-- The instructions of R137 with the exact function of each, by the type code, of the elements of A, B and C. -/
def Sys2Proof.Claims.intRule : Instr → Option (FmtT × (Nat → Int → Int → Int → Int))
  | .iadd f => some (f, fun _ a b _ => a + b)
  | .isub f => some (f, fun _ a b _ => a - b)
  | .imul f => some (f, fun _ a b _ => a * b)
  | .imulh f => some (f, fun ty a b _ => (a * b).fdiv (2 ^ elemWidth ty))
  | .imad f => some (f, fun _ a b c => a * b + c)
  | .idiv f => some (f, fun _ a b _ => if b = 0 then -1 else a.tdiv b)
  | .irem f => some (f, fun _ a b _ => if b = 0 then a else a.tmod b)
  | .imin f => some (f, fun _ a b _ => if a ≤ b then a else b)
  | .imax f => some (f, fun _ a b _ => if a ≤ b then b else a)
  | .iabs f => some (f, fun _ a _ _ => if a < 0 then -a else a)
  | .ineg f => some (f, fun _ a _ _ => -a)
  | .iadds f => some (f, fun ty a b _ => max (tyLo ty) (min (tyHi ty) (a + b)))
  | .isubs f => some (f, fun ty a b _ => max (tyLo ty) (min (tyHi ty) (a - b)))
  | _ => none

/-- R62, R63, R137: each of the thirteen integer instructions gives a next state, in which every element of D is the exact
result modulo 2^w, for every acting lane, whatever D is; and nothing else has changed. -/
def Obligations.IntegerElements : Prop :=
  ∀ i f op s, Sys2Proof.Claims.intRule i = some (f, op) → s.Clear i →
    ∃ v : Nat → Nat, Gives i s (fun lk => put f.d (tyRegs f.ty.toNat) (v lk)) ∧
      ∀ lk ∈ s.acting i, ∀ k < tyElems f.ty.toNat,
        (elemU (elemWidth f.ty.toNat) (v lk) k : Int) =
          op f.ty.toNat (elemOf f.ty.toNat (s.raw lk f.ty.toNat f.a) k) (s.elemB lk f k)
            (elemOf f.ty.toNat (s.raw lk f.ty.toNat f.c) k) % 2 ^ elemWidth f.ty.toNat

/-- R142: AND, OR, XOR, ANDN and LOP3 give a next state in which bit k of D is the function of bit k of the operands; LOP3's
is the table in MOD[7:0]; and the word that R142 writes out is LOP3.b32 v4, v1, v2, v3 with the table 0xE8. -/
def Obligations.LogicBits : Prop :=
  (∀ f s, s.Clear (.andOp f) → ∃ v : Nat → Nat, Gives (.andOp f) s (fun lk => put f.d (tyRegs f.ty.toNat) (v lk)) ∧
    ∀ lk k, k < elemWidth f.ty.toNat → (v lk).testBit k = ((s.raw lk f.ty.toNat f.a).testBit k && (s.rawB lk f).testBit k)) ∧
  (∀ f s, s.Clear (.orOp f) → ∃ v : Nat → Nat, Gives (.orOp f) s (fun lk => put f.d (tyRegs f.ty.toNat) (v lk)) ∧
    ∀ lk k, k < elemWidth f.ty.toNat → (v lk).testBit k = ((s.raw lk f.ty.toNat f.a).testBit k || (s.rawB lk f).testBit k)) ∧
  (∀ f s, s.Clear (.xorOp f) → ∃ v : Nat → Nat, Gives (.xorOp f) s (fun lk => put f.d (tyRegs f.ty.toNat) (v lk)) ∧
    ∀ lk k, k < elemWidth f.ty.toNat → (v lk).testBit k = ((s.raw lk f.ty.toNat f.a).testBit k != (s.rawB lk f).testBit k)) ∧
  (∀ f s, s.Clear (.andn f) → ∃ v : Nat → Nat, Gives (.andn f) s (fun lk => put f.d (tyRegs f.ty.toNat) (v lk)) ∧
    ∀ lk k, k < elemWidth f.ty.toNat → (v lk).testBit k = ((s.raw lk f.ty.toNat f.a).testBit k && !(s.rawB lk f).testBit k)) ∧
  (∀ f s, s.Clear (.lop3 f) → ∃ v : Nat → Nat, Gives (.lop3 f) s (fun lk => put f.d (tyRegs f.ty.toNat) (v lk)) ∧
    ∀ lk k, k < elemWidth f.ty.toNat → (v lk).testBit k =
      f.mod.getLsbD (4 * ((s.raw lk f.ty.toNat f.a).testBit k).toNat + 2 * ((s.raw lk f.ty.toNat f.b).testBit k).toNat +
        ((s.raw lk f.ty.toNat f.c).testBit k).toNat)) ∧
  decode 0x24000E8020040403 =
    .ok (.lop3 { g := 0, ty := 0, mod := 0xE8, d := 4, a := 1, b := 2, c := 3 })

/-- R141, R143 to R145, R148, R149: the moves, the shifts of each element, the bit-field and byte instructions and the immediate
forms give a next state with the results written out here, and change nothing else. -/
def Obligations.MoveShiftResults : Prop :=
  (∀ f s, s.Clear (.mov f) → Gives (.mov f) s fun lk => put f.d (tyRegs f.ty.toNat) (s.raw lk f.ty.toNat f.a)) ∧
  (∀ f s, s.Clear (.sel f) → Gives (.sel f) s fun lk =>
    put f.d (tyRegs f.ty.toNat) (if s.pred lk (f.c.toNat % 8) then s.raw lk f.ty.toNat f.a else s.rawB lk f)) ∧
  (∀ f s, s.Clear (.shl f) → Gives (.shl f) s fun lk => put f.d (tyRegs f.ty.toNat)
    (packElems (elemWidth f.ty.toNat) (tyElems f.ty.toNat) fun k =>
      if elemWidth f.ty.toNat ≤ s.amount lk f k then 0
      else elemU (elemWidth f.ty.toNat) (s.raw lk f.ty.toNat f.a) k * 2 ^ s.amount lk f k)) ∧
  (∀ f s, s.Clear (.shr f) → Gives (.shr f) s fun lk => put f.d (tyRegs f.ty.toNat)
    (packElems (elemWidth f.ty.toNat) (tyElems f.ty.toNat) fun k =>
      if elemWidth f.ty.toNat ≤ s.amount lk f k then 0
      else (elemU (elemWidth f.ty.toNat) (s.raw lk f.ty.toNat f.a) k / 2 ^ s.amount lk f k : Nat))) ∧
  (∀ f s, s.Clear (.shra f) → Gives (.shra f) s fun lk => put f.d (tyRegs f.ty.toNat)
    (packElems (elemWidth f.ty.toNat) (tyElems f.ty.toNat) fun k =>
      (toSigned (elemWidth f.ty.toNat) (elemU (elemWidth f.ty.toNat) (s.raw lk f.ty.toNat f.a) k)).fdiv
        (2 ^ min (s.amount lk f k) (elemWidth f.ty.toNat)))) ∧
  (∀ f s, s.Clear (.rotl f) → Gives (.rotl f) s fun lk => put f.d (tyRegs f.ty.toNat)
    (packElems (elemWidth f.ty.toNat) (tyElems f.ty.toNat) fun k =>
      rotlBits (elemWidth f.ty.toNat) (elemU (elemWidth f.ty.toNat) (s.raw lk f.ty.toNat f.a) k) (s.amount lk f k))) ∧
  (∀ f s, s.Clear (.funnel f) → Gives (.funnel f) s fun lk => put f.d 1
    (if f.mod.getLsbD 0 then
      ((s.reg1 lk f.a).toNat * 2 ^ 32 + (s.reg1 lk f.b).toNat) / 2 ^ min (s.reg1 lk f.c).toNat 32
    else ((s.reg1 lk f.a).toNat * 2 ^ 32 + (s.reg1 lk f.b).toNat) * 2 ^ min (s.reg1 lk f.c).toNat 32 / 2 ^ 32)) ∧
  (∀ f s, s.Clear (.clz f) → Gives (.clz f) s fun lk =>
    put f.d 1 (clzOf (elemWidth f.ty.toNat) (s.raw lk f.ty.toNat f.a))) ∧
  (∀ f s, s.Clear (.popc f) → Gives (.popc f) s fun lk =>
    put f.d 1 (popcOf (elemWidth f.ty.toNat) (s.raw lk f.ty.toNat f.a))) ∧
  (∀ f s, s.Clear (.brev f) → Gives (.brev f) s fun lk =>
    put f.d (tyRegs f.ty.toNat) (brevOf (elemWidth f.ty.toNat) (s.raw lk f.ty.toNat f.a))) ∧
  (∀ f s, s.Clear (.bfx f) → ∃ w : Nat → Word, Gives (.bfx f) s (fun lk => [.rw (.reg f.d 0 (w lk))]) ∧
    ∀ lk k, k < 32 → (w lk).getLsbD k =
      let (pos, len) := fieldSpec f.mod (s.reg1 lk f.b)
      let l := fieldLen pos len
      if k < l then (s.reg1 lk f.a).getLsbD (pos + k)
      else l ≠ 0 && f.ty == 1 && (s.reg1 lk f.a).getLsbD (pos + l - 1)) ∧
  (∀ f s, s.Clear (.bfi f) → ∃ w : Nat → Word, Gives (.bfi f) s (fun lk => [.rw (.reg f.d 0 (w lk))]) ∧
    ∀ lk k, k < 32 → (w lk).getLsbD k =
      let (pos, len) := fieldSpec f.mod (s.reg1 lk f.c)
      if pos ≤ k && k < pos + fieldLen pos len then (s.reg1 lk f.b).getLsbD (k - pos) else (s.reg1 lk f.a).getLsbD k) ∧
  (∀ f s, s.Clear (.bperm f) → ∃ w : Nat → Word, Gives (.bperm f) s (fun lk => [.rw (.reg f.d 0 (w lk))]) ∧
    ∀ lk k, k < 4 →
      ((w lk).extractLsb' (8 * k) 8).toNat = bpermByte ((s.reg1 lk f.b) ++ (s.reg1 lk f.a)).toNat (s.reg1 lk f.c).toNat k) ∧
  (∀ f s, s.Clear (.movi f) → Gives (.movi f) s fun _ => put f.d (regsI f) (immI f.mi f.imm)) ∧
  (∀ f s, s.Clear (.iaddi f) → Gives (.iaddi f) s fun lk => put f.d (regsI f) (s.rawI lk f + immI f.mi f.imm)) ∧
  (∀ f s, s.Clear (.imuli f) → Gives (.imuli f) s fun lk => put f.d (regsI f) (s.rawI lk f * immI f.mi f.imm)) ∧
  (∀ f s, s.Clear (.andi f) → Gives (.andi f) s fun lk => put f.d (regsI f) (s.rawI lk f &&& immI f.mi f.imm)) ∧
  (∀ f s, s.Clear (.ori f) → Gives (.ori f) s fun lk => put f.d (regsI f) (s.rawI lk f ||| immI f.mi f.imm)) ∧
  (∀ f s, s.Clear (.xori f) → Gives (.xori f) s fun lk => put f.d (regsI f) (s.rawI lk f ^^^ immI f.mi f.imm)) ∧
  (∀ f s, s.Clear (.cvti f) → Gives (.cvti f) s fun lk => put f.d (tyRegs f.ty.toNat)
    (let w := elemWidth f.ty.toNat
     let st := modBits f.mod 3 0
     let x := elemOf st (s.raw lk st f.a) (modBits f.mod 6 5)
     let y := if f.mod.getLsbD 4 then max (tyLo f.ty.toNat) (min (tyHi f.ty.toNat) x) else x
     if 1 < tyElems f.ty.toNat then setElem w (s.reg1 lk f.d).toNat (modBits f.mod 8 7) (y % 2 ^ w).toNat
     else (y % 2 ^ w).toNat))

/-- R129, R138, R140, R146, R148, R155: the instructions that write predicates give a next state in which the acting lanes hold
the predicate written out here, other lanes keep theirs, and no register changes but the sum of IADDC and ISUBB and the word of
PACKP. -/
def Obligations.PredicateResults : Prop :=
  (∀ f s, s.Clear (.icmp f) → Gives (.icmp f) s fun lk => putPred f.d
    (combinePred (modBits f.mod 5 4)
      (condInt (modBits f.mod 2 0) (elemOf f.ty.toNat (s.raw lk f.ty.toNat f.a) 0) (s.elemB lk f 0))
      (s.pred lk (f.c.toNat % 8)))) ∧
  (∀ f s, s.Clear (.icmpi f) → Gives (.icmpi f) s fun lk => putPred f.d
    (condInt (f.d.toNat / 8)
      (if f.mi == 0 then (s.reg1 lk f.a).toInt else if f.mi == 1 then ((s.reg1 lk f.a).toNat : Int)
       else if f.mi == 2 then (s.pair lk f.a).toInt else ((s.pair lk f.a).toNat : Int)) (immCmp f.mi f.imm))) ∧
  (∀ f s, s.Clear (.fcmp f) → Gives (.fcmp f) s fun lk => putPred f.d
    (combinePred (modBits f.mod 5 4) (condFloat (modBits f.mod 2 0) ((s.f32 lk f.a).cmp (s.f32 lk f.b)))
      (s.pred lk (f.c.toNat % 8)))) ∧
  (∀ f s, s.Clear (.plop f) → Gives (.plop f) s fun lk => putPred f.d
    (f.mod.getLsbD (4 * (s.pred lk (f.a.toNat % 8)).toNat + 2 * (s.pred lk (f.b.toNat % 8)).toNat +
      (s.pred lk (f.c.toNat % 8)).toNat))) ∧
  (∀ f s, s.Clear (.packp f) → ∃ w : Nat → Word, Gives (.packp f) s (fun lk => [.rw (.reg f.d 0 (w lk))]) ∧
    ∀ lk k, k < 32 → (w lk).getLsbD k = (k < 8 && s.pred lk k)) ∧
  (∀ f s, s.Clear (.unpackp f) → Gives (.unpackp f) s fun lk =>
    ((List.range 8).filter fun k => 0 < k && f.mod.getLsbD k).map fun k => .rw (.pred k ((s.reg1 lk f.a).getLsbD k))) ∧
  (∀ f s, s.Clear (.iaddc f) → Gives (.iaddc f) s fun lk =>
    let x := s.raw lk f.ty.toNat f.a + s.rawB lk f + (s.carryIn lk f).toNat
    put f.d (tyRegs f.ty.toNat) (x % 2 ^ elemWidth f.ty.toNat) ++
      [.rw (.pred (modBits f.mod 2 0) (2 ^ elemWidth f.ty.toNat ≤ x))]) ∧
  (∀ f s, s.Clear (.isubb f) → Gives (.isubb f) s fun lk =>
    let x : Int := (s.raw lk f.ty.toNat f.a : Int) - s.rawB lk f - (s.carryIn lk f).toNat
    put f.d (tyRegs f.ty.toNat) (x % 2 ^ elemWidth f.ty.toNat).toNat ++ [.rw (.pred (modBits f.mod 2 0) (x < 0))])

/-- R139: IDOT4 gives a next state in which D is the sum x modulo 2^32, or saturated. -/
def Obligations.DotProduct : Prop :=
  ∀ f s, s.Clear (.idot4 f) → Gives (.idot4 f) s fun lk => [.rw (.reg f.d 0 (BitVec.ofInt 32
    (let e := fun (r : BitVec 9) k =>
       if f.ty.toNat = 11 then ((s.reg1 lk r).extractLsb' (8 * k) 8).toInt
       else (((s.reg1 lk r).extractLsb' (8 * k) 8).toNat : Int)
     let c := if f.ty.toNat = 11 then (s.reg1 lk f.c).toInt else ((s.reg1 lk f.c).toNat : Int)
     let x := c + e f.a 0 * e f.b 0 + e f.a 1 * e f.b 1 + e f.a 2 * e f.b 2 + e f.a 3 * e f.b 3
     if !f.mod.getLsbD 0 then x
     else if f.ty.toNat = 11 then max (-2 ^ 31) (min (2 ^ 31 - 1) x) else max 0 (min (2 ^ 32 - 1) x))))]

/-! ## Floating-point instructions (R150 to R165) -/

/-- R161: the packed instructions compute each of the two 16-bit elements alone. -/
def Sys2Proof.Claims.packedFloatElements : Prop :=
  let el := fun (s : State) (lk : Nat) (r : BitVec 9) (k : Nat) => ((s.reg1 lk r).extractLsb' (16 * k) 16).toNat
  let fv := fun (f : FmtT) (s : State) (lk : Nat) (r : BitVec 9) (k : Nat) => (packedFmt f.ty.toNat).val (el s lk r k)
  let two := fun (i : Instr) (f : FmtT) (s : State) (op : Nat → Nat → Nat) => ∃ w : Nat → Word,
    Gives i s (fun lk => [.rw (.reg f.d 0 (w lk))]) ∧
      ∀ lk ∈ s.acting i, ∀ k < 2, ((w lk).extractLsb' (16 * k) 16).toNat = op lk k % 2 ^ 16
  (∀ f s, s.Clear (.hadd2 f) → two (.hadd2 f) f s fun lk k =>
    (packedFmt f.ty.toNat).addV (modBits f.mod 1 0) (s.nsat lk) (fv f s lk f.a k) (fv f s lk f.b k)) ∧
  (∀ f s, s.Clear (.hmul2 f) → two (.hmul2 f) f s fun lk k =>
    (packedFmt f.ty.toNat).mulV (modBits f.mod 1 0) (s.nsat lk) (fv f s lk f.a k) (fv f s lk f.b k)) ∧
  (∀ f s, s.Clear (.hfma2 f) → two (.hfma2 f) f s fun lk k =>
    (packedFmt f.ty.toNat).fmaV (modBits f.mod 1 0) (s.nsat lk) (fv f s lk f.a k) (fv f s lk f.b k) (fv f s lk f.c k)) ∧
  (∀ f s, s.Clear (.hmnx2 f) → two (.hmnx2 f) f s fun lk k =>
    (packedFmt f.ty.toNat).minMax (f.mod.getLsbD 2) (el s lk f.a k) (el s lk f.b k))

/-- R150 to R157, R161 to R165, R254: the floating-point instructions that round once, compare magnitudes, classify and convert
give a next state in which D holds the result in the named mode, element by element for the packed formats; the immediate forms
round to nearest; and nothing else has changed. -/
def Obligations.FloatResults : Prop :=
  Sys2Proof.Claims.packedFloatElements ∧
  (∀ f s, s.Clear (.fadd f) → Gives (.fadd f) s fun lk =>
    put f.d 1 (f32.addV (modBits f.mod 1 0) false (s.f32 lk f.a) (s.f32 lk f.b))) ∧
  (∀ f s, s.Clear (.fsub f) → Gives (.fsub f) s fun lk =>
    put f.d 1 (f32.addV (modBits f.mod 1 0) false (s.f32 lk f.a) (s.f32 lk f.b).flip)) ∧
  (∀ f s, s.Clear (.fmul f) → Gives (.fmul f) s fun lk =>
    put f.d 1 (f32.mulV (modBits f.mod 1 0) false (s.f32 lk f.a) (s.f32 lk f.b))) ∧
  (∀ f s, s.Clear (.ffma f) → Gives (.ffma f) s fun lk =>
    put f.d 1 (f32.fmaV (modBits f.mod 1 0) false (s.f32 lk f.a) (s.f32 lk f.b) (s.f32 lk f.c))) ∧
  (∀ f s, s.Clear (.fdiv f) → Gives (.fdiv f) s fun lk =>
    put f.d 1 (f32.divV (modBits f.mod 1 0) (s.f32 lk f.a) (s.f32 lk f.b))) ∧
  (∀ f s, s.Clear (.fsqrt f) → Gives (.fsqrt f) s fun lk => put f.d 1 (f32.sqrtV (modBits f.mod 1 0) (s.f32 lk f.a))) ∧
  (∀ f s, s.Clear (.fmin f) → Gives (.fmin f) s fun lk =>
    put f.d 1 (f32.minMax false (s.reg1 lk f.a).toNat (s.reg1 lk f.b).toNat)) ∧
  (∀ f s, s.Clear (.fmax f) → Gives (.fmax f) s fun lk =>
    put f.d 1 (f32.minMax true (s.reg1 lk f.a).toNat (s.reg1 lk f.b).toNat)) ∧
  (∀ f s, s.Clear (.frnd f) → Gives (.frnd f) s fun lk =>
    put f.d 1 (f32.rnd (modBits f.mod 1 0) (s.reg1 lk f.a).toNat)) ∧
  (∀ f s, s.Clear (.faddi f) → Gives (.faddi f) s fun lk =>
    put f.d 1 (f32.addV 0 false (s.f32 lk f.a) (f32.val f.imm.toNat))) ∧
  (∀ f s, s.Clear (.fmuli f) → Gives (.fmuli f) s fun lk =>
    put f.d 1 (f32.mulV 0 false (s.f32 lk f.a) (f32.val f.imm.toNat))) ∧
  (∀ f s, s.Clear (.pack2 f) → Gives (.pack2 f) s fun lk => put f.d 1
    ((packedFmt f.ty.toNat).ofV (modBits f.mod 1 0) (s.nsat lk) (s.f32 lk f.a) +
      (packedFmt f.ty.toNat).ofV (modBits f.mod 1 0) (s.nsat lk) (s.f32 lk f.b) * 2 ^ 16)) ∧
  (∀ f s, s.Clear (.unpack2 f) → Gives (.unpack2 f) s fun lk => put f.d 2
    (f32.ofV 0 false ((packedFmt f.ty.toNat).val (elemU 16 (s.reg1 lk f.a).toNat 0)) +
      f32.ofV 0 false ((packedFmt f.ty.toNat).val (elemU 16 (s.reg1 lk f.a).toNat 1)) * 2 ^ 32)) ∧
  (∀ f s, s.Clear (.cvt f) → Gives (.cvt f) s fun lk => put f.d (tyRegs f.ty.toNat)
    (let st := modBits f.mod 6 3
     let y := cvtElem f.ty.toNat st (modBits f.mod 1 0) (s.nsat lk)
       (elemU (elemWidth st) (s.raw lk st f.a) (modBits f.mod 7 7))
     if 1 < tyElems f.ty.toNat then setElem 16 (s.reg1 lk f.d).toNat (modBits f.mod 8 8) y else y)) ∧
  (∀ f s, s.Clear (.tricv f) → ∃ v : Nat → Nat, Gives (.tricv f) s (fun lk => put f.d 1 (v lk)) ∧ ∀ lk,
    let e := if f.mod.getLsbD 5 then (s.reg1 lk f.b).toNat % 256 else 127
    (modBits f.mod 4 2 = 2 →
      v lk = triToF32 false (modBits f.mod 1 0) e (elemU 8 (s.reg1 lk f.a).toNat (modBits f.mod 7 6))) ∧
    (modBits f.mod 4 2 = 3 →
      v lk = triToF32 true (modBits f.mod 1 0) e (elemU 16 (s.reg1 lk f.a).toNat (modBits f.mod 7 6))) ∧
    (modBits f.mod 4 2 = 0 → v lk = setElem 8 (s.reg1 lk f.d).toNat (modBits f.mod 9 8)
      (triOfF32 false (modBits f.mod 1 0) e (s.f32 lk f.a))) ∧
    (modBits f.mod 4 2 = 1 → v lk = setElem 16 (s.reg1 lk f.d).toNat (modBits f.mod 9 8)
      (triOfF32 true (modBits f.mod 1 0) e (s.f32 lk f.a))) ∧
    (modBits f.mod 4 2 = 4 → v lk = setElem 16 (s.reg1 lk f.d).toNat (modBits f.mod 9 8)
      (triToTri false (elemU 8 (s.reg1 lk f.a).toNat (modBits f.mod 7 6)))) ∧
    (modBits f.mod 4 2 = 5 → v lk = setElem 8 (s.reg1 lk f.d).toNat (modBits f.mod 9 8)
      (triToTri true (elemU 16 (s.reg1 lk f.a).toNat (modBits f.mod 7 6))))) ∧
  (∀ f s, s.Clear (.fdot2 f) → Gives (.fdot2 f) s fun lk =>
    let fm := packedFmt f.ty.toNat
    let p := fun k => (fm.val (elemU 16 (s.reg1 lk f.a).toNat k)).mul (fm.val (elemU 16 (s.reg1 lk f.b).toNat k))
    put f.d 1
      (if f.mod.getLsbD 2 then
        fm.sumV (modBits f.mod 1 0) (s.nsat lk) [fm.val (elemU 16 (s.reg1 lk f.c).toNat 0), p 0, p 1]
      else f32.sumV (modBits f.mod 1 0) false [s.f32 lk f.c, p 0, p 1]))

/-- R156: FCLASS gives a next state in which D has exactly one bit set, and which one is by the class of A. -/
def Obligations.ClassBits : Prop :=
  ∀ f s, s.Clear (.fclass f) → ∃ w : Nat → Word, Gives (.fclass f) s (fun lk => [.rw (.reg f.d 0 (w lk))]) ∧ ∀ lk,
    let a := s.reg1 lk f.a
    let neg := a.getLsbD 31
    let e := (a.extractLsb' 23 8).toNat
    let m := (a.extractLsb' 0 23).toNat
    w lk = 1#32 <<<
      (if e = 255 ∧ m ≠ 0 then 8
       else if e = 255 then (if neg then 0 else 7)
       else if e = 0 ∧ m = 0 then (if neg then 3 else 4)
       else if e = 0 then (if neg then 2 else 5)
       else if neg then 1 else 6)

/-- R66, R154: FMIN and FMAX of a NaN and a number give the number, of two NaNs the canonical NaN, of zeros of both signs −0 and
+0, and of two numbers the smaller and the larger bit pattern. -/
def Obligations.MinMaxTable : Prop :=
  ∀ a b, a < 2 ^ 32 → b < 2 ^ 32 →
    (f32.val a = .nan → f32.val b ≠ .nan → f32.minMax false a b = b ∧ f32.minMax true a b = b) ∧
    (f32.val a ≠ .nan → f32.val b = .nan → f32.minMax false a b = a ∧ f32.minMax true a b = a) ∧
    (f32.val a = .nan → f32.val b = .nan → f32.minMax false a b = f32.nan ∧ f32.minMax true a b = f32.nan) ∧
    f32.minMax false 0 0x80000000 = 0x80000000 ∧ f32.minMax false 0x80000000 0 = 0x80000000 ∧
    f32.minMax true 0 0x80000000 = 0 ∧ f32.minMax true 0x80000000 0 = 0 ∧
    (∀ d, (f32.val a).cmp (f32.val b) = some d → d < 0 → f32.minMax false a b = a ∧ f32.minMax true a b = b) ∧
    (∀ d, (f32.val a).cmp (f32.val b) = some d → 0 < d → f32.minMax false a b = b ∧ f32.minMax true a b = a)

/-- The value of a finite F32 pattern. -/
def Sys2Proof.Claims.f32Value (b : Nat) : Option ℚ :=
  match f32.val b with
  | .fin n m e => some ((if n then -1 else 1) * m * (2 : ℚ) ^ e)
  | _ => none

/-- The value of a dyadic. -/
def Sys2Proof.Claims.dyValue (y : Dy) : ℚ := y.m * (2 : ℚ) ^ y.e

/-- R152, R158, R160: the bounds. A result within k ulp of y is a finite F32 value at most k × ulp(y) from y, ulp as R152 defines it.
FRCP and FRSQ are within 1 ulp of one real, which is 1/a or 1/√a to 170 bits and more; FEX2, FLG2, FTANH and, for a reduced r, FSIN
and FCOS within 2 ulp of one real, or at it, and FLG2 within 2^-22 between 0.5 and 2. That real does not depend on what the part
chooses. How near the real of FEX2, FLG2, FTANH, FSIN and FCOS lies to the exact function is not stated here. -/
def Sys2Proof.Claims.approximateBounds : Prop :=
  let value := Sys2Proof.Claims.f32Value
  let real := Sys2Proof.Claims.dyValue
  (∀ (y : Dy) (k : Int), y.m ≠ 0 → (2 : ℚ) ^ k ≤ |real y| → |real y| < (2 : ℚ) ^ (k + 1) →
    real (ulpOf y) = (2 : ℚ) ^ (max k (-126) - 23)) ∧
  (∀ c k (y : Dy), 0 < k → |real y| < (2 : ℚ) ^ 127 → ∃ v, value (approxUlp c k y) = some v ∧ |v - real y| ≤ k * real (ulpOf y)) ∧
  (∀ c (y : Dy), |real y| < 1 → ∃ v, value (approxWithin c y ⟨1, -22⟩) = some v ∧ |v - real y| ≤ (2 : ℚ) ^ (-22 : Int)) ∧
  (∀ a v, value a = some v → v ≠ 0 → |1 / v| < (2 : ℚ) ^ 128 → ∃ y : Dy, |real y * v - 1| ≤ (2 : ℚ) ^ (-170 : Int) ∧
    ∀ c, frcp c a = approxUlp c 1 y ∨ frcp c a = nearF32 y) ∧
  (∀ a v, value a = some v → 0 < v → ∃ y : Dy, 0 < real y ∧ |real y * real y * v - 1| ≤ (2 : ℚ) ^ (-170 : Int) ∧
    ∀ c, frsq c a = approxUlp c 1 y ∨ frsq c a = nearF32 y) ∧
  (∀ a v, value a = some v → -151 < v → v < 128 → ∃ y : Dy, ∀ c, fex2 c a = approxUlp c 2 y ∨ fex2 c a = nearF32 y) ∧
  (∀ a v, value a = some v → 0 < v → ∃ y : Dy, (∀ c, flg2 c a = approxUlp c 2 y) ∨ (∀ c, flg2 c a = approxWithin c y ⟨1, -22⟩) ∨
    ∃ k : Int, v = (2 : ℚ) ^ k ∧ ∀ c, flg2 c a = f32.ofInt 0 false k) ∧
  (∀ a v, value a = some v → v ≠ 0 → |v| < 10 → ∃ y : Dy, ∀ c, ftanh c a = approxUlp c 2 y) ∧
  (∀ r v q, value r = some v → v ≠ 0 → r % 2 ^ 31 ≤ 0x3F490FDB → ∃ y : Dy, ∀ c, fsinQ c r q = approxUlp c 2 y)

/-- R158 to R160: the values that the manual fixes. NaN gives the canonical NaN; zeros, infinities and the ends of the ranges are as
the tables of R158 give them; integers are exact in FEX2 and powers of two in FLG2. FRED of any value has r within the reduced range
and q below 4; FSIN and FCOS of r = ±0 are exact zeros with their signs or ±1, beyond the reduced range some value of [−1, 1], and of
a NaN or an infinity the canonical NaN. -/
def Sys2Proof.Claims.approximateFixed : Prop :=
  let value := Sys2Proof.Claims.f32Value
  (∀ c m, m < 2 ^ 23 → m ≠ 0 → ∀ n ∈ [0x7F800000 + m, 0xFF800000 + m],
    frcp c n = f32.nan ∧ frsq c n = f32.nan ∧ fex2 c n = f32.nan ∧ flg2 c n = f32.nan ∧ ftanh c n = f32.nan ∧
      fred n = (f32.nan, 0) ∧ ∀ q, fsinQ c n q = f32.nan) ∧
  (∀ c, frcp c 0 = 0x7F800000 ∧ frcp c 0x80000000 = 0xFF800000 ∧ frcp c 0x7F800000 = 0 ∧ frcp c 0xFF800000 = 0x80000000) ∧
  (∀ c a v, value a = some v → v ≠ 0 → (2 : ℚ) ^ 128 ≤ |1 / v| → frcp c a = if 0 < v then 0x7F800000 else 0xFF800000) ∧
  (∀ c, frsq c 0 = 0x7F800000 ∧ frsq c 0x80000000 = 0xFF800000 ∧ frsq c 0x7F800000 = 0 ∧ frsq c 0xFF800000 = f32.nan) ∧
  (∀ c a v, value a = some v → v < 0 → frsq c a = f32.nan ∧ flg2 c a = f32.nan) ∧
  (∀ c, fex2 c 0xFF800000 = 0 ∧ fex2 c 0x7F800000 = 0x7F800000) ∧
  (∀ c a v, value a = some v → (128 ≤ v → fex2 c a = 0x7F800000) ∧ (v ≤ -151 → fex2 c a = 0)) ∧
  (∀ c a (k : Int), value a = some (k : ℚ) → -149 ≤ k → k ≤ 127 → value (fex2 c a) = some ((2 : ℚ) ^ k)) ∧
  (∀ c, flg2 c 0 = 0xFF800000 ∧ flg2 c 0x80000000 = 0xFF800000 ∧ flg2 c 0x7F800000 = 0x7F800000 ∧ flg2 c 0xFF800000 = f32.nan) ∧
  (∀ c a (k : Int), value a = some ((2 : ℚ) ^ k) → value (flg2 c a) = some (k : ℚ)) ∧
  (∀ c, ftanh c 0 = 0 ∧ ftanh c 0x80000000 = 0x80000000 ∧ ftanh c 0x7F800000 = 0x3F800000 ∧ ftanh c 0xFF800000 = 0xBF800000) ∧
  (∀ c a v, value a = some v → (10 ≤ v → ftanh c a = 0x3F800000) ∧ (v ≤ -10 → ftanh c a = 0xBF800000)) ∧
  (fred 0 = (0, 0) ∧ fred 0x80000000 = (0x80000000, 0) ∧ fred 0x7F800000 = (f32.nan, 0) ∧ fred 0xFF800000 = (f32.nan, 0)) ∧
  (∀ a v, value a = some v → (fred a).2 < 4 ∧ (fred a).1 % 2 ^ 31 ≤ 0x3F490FDB) ∧
  (∀ c r, r = 0 ∨ r = 0x80000000 → fsinQ c r 0 = r ∧ fsinQ c r 1 = 0x3F800000 ∧ fsinQ c r 2 = 0x80000000 - r ∧
    fsinQ c r 3 = 0xBF800000 ∧ ∀ q, fsinQ c r (q + 4) = fsinQ c r q) ∧
  (∀ c r v q, value r = some v → 0x3F490FDB < r % 2 ^ 31 → ∃ x, value (fsinQ c r q) = some x ∧ |x| ≤ 1) ∧
  (∀ c q, fsinQ c 0x7F800000 q = f32.nan ∧ fsinQ c 0xFF800000 q = f32.nan)

/-- R158 to R160: the approximate functions, whose last bits the manual leaves to the part within a bound (log entry 6), give a next
state in which only D has changed, and each result is a function of the operand's bits alone. Their bounds are `approximateBounds`,
the values that the manual fixes `approximateFixed`. (That FSINCOS gives the same bits as FSIN and FCOS do for the same pair is the
model's choice, log entry 6: R160 gives each only its bound. That FLG2 between 0.5 and 2 has the absolute bound alone is log entry
15.) -/
def Obligations.ApproximateResults : Prop :=
  Sys2Proof.Claims.approximateBounds ∧ Sys2Proof.Claims.approximateFixed ∧
  (∀ f s, s.Clear (.frcp f) → Gives (.frcp f) s fun lk =>
    put f.d 1 (frcp (cand 0 (s.reg1 lk f.a).toNat) (s.reg1 lk f.a).toNat)) ∧
  (∀ f s, s.Clear (.frsq f) → Gives (.frsq f) s fun lk =>
    put f.d 1 (frsq (cand 1 (s.reg1 lk f.a).toNat) (s.reg1 lk f.a).toNat)) ∧
  (∀ f s, s.Clear (.fex2 f) → Gives (.fex2 f) s fun lk =>
    put f.d 1 (fex2 (cand 2 (s.reg1 lk f.a).toNat) (s.reg1 lk f.a).toNat)) ∧
  (∀ f s, s.Clear (.flg2 f) → Gives (.flg2 f) s fun lk =>
    put f.d 1 (flg2 (cand 3 (s.reg1 lk f.a).toNat) (s.reg1 lk f.a).toNat)) ∧
  (∀ f s, s.Clear (.ftanh f) → Gives (.ftanh f) s fun lk =>
    put f.d 1 (ftanh (cand 4 (s.reg1 lk f.a).toNat) (s.reg1 lk f.a).toNat)) ∧
  (∀ f s, s.Clear (.fred f) → Gives (.fred f) s fun lk =>
    put f.d 2 ((fred (s.reg1 lk f.a).toNat).1 + (fred (s.reg1 lk f.a).toNat).2 * 2 ^ 32)) ∧
  (∀ f s, s.Clear (.fsin f) → Gives (.fsin f) s fun lk => put f.d 1 (sinOf s lk f.a)) ∧
  (∀ f s, s.Clear (.fcos f) → Gives (.fcos f) s fun lk => put f.d 1 (cosOf s lk f.a)) ∧
  (∀ f s, s.Clear (.fsincos f) → Gives (.fsincos f) s fun lk =>
    put f.d 2 (sinOf s lk f.a + cosOf s lk f.a * 2 ^ 32)) ∧
  (∀ (s : State) lk a, sinOf s lk a = fsinQ (cand 5 ((s.reg lk a 0).toNat + (s.reg lk a 1).toNat % 4 * 2 ^ 32)) (s.reg lk a 0).toNat
      ((s.reg lk a 1).toNat % 4) ∧
    cosOf s lk a = fsinQ (cand 6 ((s.reg lk a 0).toNat + (s.reg lk a 1).toNat % 4 * 2 ^ 32)) (s.reg lk a 0).toNat
      ((s.reg lk a 1).toNat % 4 + 1))

/-- R67: Round to nearest. When the result for ±m × 2^e is finite, no finite F32 value of any sign lies closer. -/
def Obligations.RoundToNearest : Prop :=
  let value := fun (n : Bool) (m : Nat) (e : Int) => (if n then (-1 : ℚ) else 1) * m * (2 : ℚ) ^ e
  ∀ n m e n1 m1 e1, f32.val (f32.round 0 false n m e) = .fin n1 m1 e1 →
    ∀ b n2 m2 e2, f32.val b = .fin n2 m2 e2 →
      |value n1 m1 e1 - value n m e| ≤ |value n2 m2 e2 - value n m e|

/-! ## Between lanes, and special registers (R130 to R133, R183 to R191) -/

/-- R183 to R191: BALLOT, the shuffles, PSWAP, GREDUX, GSCAN and ACTMASK give a next state with what each takes from the
participating lanes. -/
def Obligations.CrossLaneResults : Prop :=
  (∀ f s, s.Clear (.ballot f) → ∃ m : Nat → DWord, Gives (.ballot f) s (fun lk =>
      if f.ty == 4 then put f.d 2 (m lk).toNat
      else put f.d 1 (if f.mod.getLsbD 0 then (m lk).toNat / 2 ^ 32 else (m lk).toNat % 2 ^ 32)) ∧
    ∀ lk p, p < 64 → (m lk).getLsbD p =
      decide (∃ i ∈ s.acting (.ballot f), posOf i = p ∧
        (if f.mod.getLsbD 2 then (s.reg1 i f.a).getLsbD (s.regB lk f % 32) else s.pred i (f.a.toNat % 8)) = true)) ∧
  (∀ f s, s.Clear (.shfl f) → Gives (.shfl f) s fun lk =>
    let i := groupOf lk * 64 + s.regB lk f % 64
    put f.d (tyRegs f.ty.toNat) (s.raw (if i ∈ s.acting (.shfl f) then i else lk) f.ty.toNat f.a)) ∧
  (∀ f s, s.Clear (.shflx f) → Gives (.shflx f) s fun lk =>
    let i := groupOf lk * 64 + (posOf lk ^^^ (s.regB lk f % 64))
    put f.d (tyRegs f.ty.toNat) (s.raw (if i ∈ s.acting (.shflx f) then i else lk) f.ty.toNat f.a)) ∧
  (∀ f s, s.Clear (.shflup f) → Gives (.shflup f) s fun lk =>
    let i := groupOf lk * 64 + (posOf lk - s.regB lk f)
    put f.d (tyRegs f.ty.toNat)
      (s.raw (if s.regB lk f ≤ posOf lk ∧ i ∈ s.acting (.shflup f) then i else lk) f.ty.toNat f.a)) ∧
  (∀ f s, s.Clear (.shfldn f) → Gives (.shfldn f) s fun lk =>
    let i := groupOf lk * 64 + (posOf lk + s.regB lk f)
    put f.d (tyRegs f.ty.toNat)
      (s.raw (if posOf lk + s.regB lk f < 64 ∧ i ∈ s.acting (.shfldn f) then i else lk) f.ty.toNat f.a)) ∧
  (∀ f s, s.Clear (.pswap f) → ∃ w : Nat → Word, Gives (.pswap f) s (fun lk => [.rw (.reg f.d 0 (w lk))]) ∧ ∀ lk,
    let i := groupOf lk * 64 + (posOf lk ^^^ 1)
    let a := s.reg1 lk f.a
    let x := if f.mod.getLsbD 0 then s.reg1 (if i ∈ s.acting (.pswap f) then i else lk) f.a
      else a.extractLsb' 0 16 ++ a.extractLsb' 16 16
    w lk = x ^^^ (if f.mod.getLsbD 2 then 0x8000 else 0) ^^^ (if f.mod.getLsbD 3 then 0x80000000 else 0)) ∧
  (∀ f s, s.Clear (.gredux f) → Gives (.gredux f) s fun _ => put f.d (tyRegs f.ty.toNat)
    (reduxOp (modBits f.mod 6 4) f.ty.toNat (modBits f.mod 1 0)
      ((s.acting (.gredux f)).map fun i => s.raw i f.ty.toNat f.a))) ∧
  (∀ f s, s.Clear (.gscan f) → Gives (.gscan f) s fun lk => put f.d (tyRegs f.ty.toNat)
    (reduxOp (modBits f.mod 6 4) f.ty.toNat (modBits f.mod 1 0)
      (((s.acting (.gscan f)).filter fun i => if f.mod.getLsbD 7 then i < lk else i ≤ lk).map fun i =>
        s.raw i f.ty.toNat f.a))) ∧
  (∀ f s, s.Clear (.actmask f) → ∃ m : Nat → DWord, Gives (.actmask f) s (fun lk => put f.d 2 (m lk).toNat) ∧
    ∀ lk p, p < 64 →
      (modBits f.mod 1 0 = 0 → (m lk).getLsbD p = decide (∃ i ∈ s.setLanes, posOf i = p)) ∧
      (modBits f.mod 1 0 = 1 → (m lk).getLsbD p = decide (s.stateSeen (groupOf lk * 64 + p) = .active ∨
        s.stateSeen (groupOf lk * 64 + p) = .trapped)) ∧
      (modBits f.mod 1 0 = 2 → (m lk).getLsbD p = decide (∃ b, s.stateSeen (groupOf lk * 64 + p) = .asleep b)) ∧
      (modBits f.mod 1 0 = 3 → (m lk).getLsbD p = decide (s.stateSeen (groupOf lk * 64 + p) = .trapped ∨
        s.stateSeen (groupOf lk * 64 + p) = .suspended)))

/-- R186: VOTE with .all, .any and .uni gives a next state in which every participating lane holds in P[L][D] whether A is true
for all of them, for any of them, or equal in all of them. -/
def Obligations.VoteResults : Prop :=
  ∀ f s, s.Clear (.vote f) → ∃ b : Bool, Gives (.vote f) s (fun _ => putPred f.d b) ∧
    let p := fun i => s.pred i (f.a.toNat % 8)
    let ls := s.acting (.vote f)
    (modBits f.mod 1 0 = 0 → (b = true ↔ ∀ i ∈ ls, p i = true)) ∧
    (modBits f.mod 1 0 = 1 → (b = true ↔ ∃ i ∈ ls, p i = true)) ∧
    (modBits f.mod 1 0 = 2 → (b = true ↔ ∀ i ∈ ls, ∀ j ∈ ls, p i = p j))

/-- R189: MATCH gives a next state in which D of each participating lane is the mask of the participating lanes whose A equals
its own, compared bit for bit over 32 or 64 bits; the mask includes the lane itself. -/
def Obligations.MatchMasks : Prop :=
  ∀ f s, s.Clear (.matchOp f) → ∃ m : Nat → DWord, Gives (.matchOp f) s (fun lk => put f.d 2 (m lk).toNat) ∧
    ∀ lk ∈ s.acting (.matchOp f),
      (∀ i ∈ s.acting (.matchOp f), (m lk).getLsbD (posOf i) =
        decide (s.raw i f.ty.toNat f.a = s.raw lk f.ty.toNat f.a)) ∧
      (∀ p, p < 64 → groupOf lk * 64 + p ∉ s.acting (.matchOp f) → (m lk).getLsbD p = false) ∧
      (m lk).getLsbD (posOf lk) = true

/-- R131 to R133, R356 to R358: SREAD and PERFRD give a next state with the register's value for each acting lane; SWRITE changes
FPMODE, of which only NSAT exists, or the scratch register, through the lowest acting lane. -/
def Obligations.SpecialRegisters : Prop :=
  (∀ f s, s.Clear (.sread f) → Gives (.sread f) s fun lk =>
    put f.d (if f.fn = 0x12 ∨ f.fn = 0x13 then 2 else 1) (s.special lk f.fn.toNat f.imm.toNat)) ∧
  (∀ (s : State) lk im, s.special lk 0x01 im = lk % 64 ∧ s.special lk 0x03 im = (s.lane lk).tid ∧ s.special lk 0x0D im = lk / 4096 ∧
    s.special lk 0x0E im = lk / 4096 / 8 ∧ s.special lk 0x0F im = s.parish ∧ s.special lk 0x10 im = s.laneColour lk ∧
    s.special lk 0x12 im = s.clock (s.laneCtx lk) % 2 ^ 64 ∧ s.special lk 0x18 im = s.sweepDone ∧
    s.special lk 0x19 im = s.sweepCur) ∧
  (∀ f s, s.Clear (.perfrd f) → Gives (.perfrd f) s fun lk =>
    let x := (s.counted (.perfrd f)).ctx (s.laneCtx lk)
    put f.d 2 ((if f.imm.getLsbD 0 then sumBy (fun c => x.counterAt c f.fn.toNat) x.coreSet
      else x.counterAt (lk / 4096) f.fn.toNat) % 2 ^ 64)) ∧
  (∀ f s, s.Clear (.swrite f) → GivesOnce (.swrite f) s
    (fun l => (s.counted (.swrite f)).modTeam (s.laneTeam l) fun m =>
      if f.fn = 0x30 then { m with fpmode := (s.reg1 l f.a ||| f.imm.setWidth 32) &&& 1 }
      else { m with scratch := putWord m.scratch (f.fn.toNat % 8) (s.reg1 l f.a ||| f.imm.setWidth 32) })
    fun _ => [])

/-! ## Control transfers, faults and clauses (R22 to R29, R47, R167 to R181, R363 to R374) -/

/-- R179: EXIT gives a next state in which every acting lane is EXITED, every other lane of the set stands behind it as it was,
and memory is unchanged. -/
def Sys2Proof.Claims.exitLanes : Prop :=
  ∀ f s, s.Clear (.exit f) → ∃ t, exec (.exit f) s = .next t ∧ t.mem = s.mem ∧
    (∀ lk ∈ s.acting (.exit f), (t.lane lk).state = .exited) ∧
    (∀ lk ∈ s.setLanes, lk ∉ s.acting (.exit f) → (s.lane lk).sleep = none → t.lane lk = s.behind (s.lane lk))

/-- R177 to R180: BRA, BRX, CALL, CALLX and RET give a next state in which the acting lanes stand at the target, the others
behind the clause, and the link quad of a call holds the next header's address and the code version. An indirect target that is
a multiple of 8 is taken. NOP and YIELD change no register. -/
def Obligations.ControlTransfers : Prop :=
  Sys2Proof.Claims.exitLanes ∧
  let link := fun (s : State) (lk : Nat) =>
    (0#32 ++ BitVec.ofNat 32 (s.team (s.laneTeam lk)).ver ++ nextHeader s.cur.hdr s.cur.hw : Quad)
  let even := fun (i : Instr) (s : State) (a : BitVec 9) => ∀ lk ∈ s.acting i, (s.pair lk a).toNat % 8 = 0
  (∀ f s, s.Clear (.bra f) → Gives (.bra f) s fun _ => [.pc (s.cur.hdr + 8 * f.off.signExtend 64)]) ∧
  (∀ f s, s.Clear (.call f) → Gives (.call f) s fun lk =>
    [.rw (.quad f.a 0 (link s lk) false), .pc (s.cur.hdr + 8 * f.off.signExtend 64)]) ∧
  (∀ f s, s.Clear (.brx f) → even (.brx f) s f.a → Gives (.brx f) s fun lk => [.pc (s.pair lk f.a)]) ∧
  (∀ f s, s.Clear (.callx f) → even (.callx f) s f.a → Gives (.callx f) s fun lk =>
    [.rw (.quad f.d 0 (link s lk) false), .pc (s.pair lk f.a)]) ∧
  (∀ f s, s.Clear (.ret f) → even (.ret f) s f.a → Gives (.ret f) s fun lk => [.pc (s.pair lk f.a)]) ∧
  (∀ f s, s.Clear (.nop f) → Gives (.nop f) s fun _ => []) ∧
  (∀ f s, s.Clear (.yield f) → Gives (.yield f) s fun _ => [])

/-- R363, R366, R367, R369, R370: TAKING A FAULT writes the lane's record and numbers it, next in its context but in a cycle in which
both ports of a slot issue, where the cycle's lane order gives the number; with a handler an ACTIVE lane becomes
TRAPPED at the handler and keeps where it faulted; else it becomes SUSPENDED at the faulting word; no register, predicate or
memory byte of any lane changes. -/
def Obligations.FaultTaken : Prop :=
  ∀ (s : State) lk f a,
    let t := s.takeFault lk f a
    let l := s.lane lk
    let nested := l.state = .trapped ∨ l.state = .asleep true
    let r := (t.lane lk).fault
    r.pc = a.pc ∧ r.info = f.info ∧ r.word = a.word ∧ r.code = f.code ∧ r.aux = f.aux ∧ r.tid = l.tid ∧ r.lane = lk % 64 ∧
    r.core = lk / 4096 ∧ r.seq = s.faultNo lk ∧
    ((s.islot (coreOf (groupOf lk) * 4 + groupOf lk % 4)).snap = none → r.seq = (s.ctx (s.laneCtx lk)).faultSeq + 1) ∧
    (t.ctx (s.laneCtx lk)).faultSeq = (s.ctx (s.laneCtx lk)).faultSeq + 1 ∧
    (nested → r.flags = a.flags ||| 16) ∧ (¬ nested → r.flags = a.flags) ∧
    (∀ h, ¬ nested → s.handler (s.laneTeam lk) = some h →
      (t.lane lk).state = .trapped ∧ (t.lane lk).pc = h ∧ (t.lane lk).resume = none ∧
      (t.lane lk).ret = some { a.ret with prog := f.prog }) ∧
    (nested ∨ s.handler (s.laneTeam lk) = none →
      (t.lane lk).state = .suspended ∧ (t.lane lk).pc = a.pc ∧ (t.lane lk).ret = l.ret ∧
      (t.lane lk).susp = some { a.ret with prog := f.prog }) ∧
    (∀ j, (t.lane j).regs = (s.lane j).regs ∧ (t.lane j).tags = (s.lane j).tags ∧ (t.lane j).preds = (s.lane j).preds) ∧
    (∀ j, j ≠ lk → (t.lane j).state = (s.lane j).state ∧ (t.lane j).pc = (s.lane j).pc) ∧
    t.groups = s.groups ∧ t.mem = s.mem ∧ t.frames = s.frames

/-- R181, R363, R369, R370: BRK and TRAP take their fault in every acting lane. The lane's record has code 0x05 for BRK and 0x06
for TRAP, INFO is IMM18, PC and WORD are the instruction's; an ACTIVE lane of a version with a handler stands TRAPPED at the
handler, another is SUSPENDED at the instruction; of the lane itself nothing else changes. The other lanes of the set stand
behind the instruction, and beyond that only what `FaultsOnly` names changes: no register, tag or predicate, and no byte of memory. -/
def Obligations.BreakpointsTaken : Prop :=
  let takes := fun (i : Instr) (s : State) (code : Byte) (imm : BitVec 18) => ∃ t, exec i s = .next t ∧ t.mem = s.mem ∧
    (∀ lk ∈ s.acting i,
      (t.lane lk).fault.code = code ∧ (t.lane lk).fault.info = imm.setWidth 64 ∧ (t.lane lk).fault.pc = s.cur.pc ∧
      (t.lane lk).fault.word = s.cur.word ∧ (t.lane lk).fault.tid = (s.lane lk).tid ∧ (t.lane lk).regs = (s.lane lk).regs ∧
      ((t.lane lk).state = .trapped ∨ (t.lane lk).state = .suspended) ∧
      t.lane lk = { s.faulted (s.lane lk) (s.handler (s.laneTeam lk)) (t.lane lk).fault 0 with lastIssue := s.now }) ∧
    (∀ lk ∈ s.setLanes, lk ∉ s.acting i → t.lane lk = s.behind (s.lane lk)) ∧ FaultsOnly s t
  (∀ f s, s.Clear (.brk f) → takes (.brk f) s 0x05 f.imm) ∧ (∀ f s, s.Clear (.trap f) → takes (.trap f) s 0x06 f.imm)

/-- R43, R46: an instruction with an opcode from 0xE0 to 0xE9, in the class and form it needs, raises PRIV on every lane of the
set in a context that is not a system context, and has no other effect. -/
def Sys2Proof.Claims.privilegedRaisesPriv : Prop :=
  ∀ i (s : State) op, (form i).op? = some op → 0xE0 ≤ op → op ≤ 0xE9 → s.colourOf s.cur.gkey ≠ 0 → s.illegalHere i = false →
    s.decodeCheck i = some ⟨Code.priv, 0, 0, 0⟩

/-- R46, R363, R369, R370: an instruction with a decode fault has no other effect. Executing it is taking that fault; every lane of
the set, whatever its guard, takes it with DECODE in its flags, and stands at its handler or SUSPENDED at the instruction; beyond
that only what `FaultsOnly` names changes, and no counter: no register, predicate or tag, and no byte of memory. -/
def Obligations.DecodeFaultTaken : Prop :=
  Sys2Proof.Claims.privilegedRaisesPriv ∧
  (∀ i (s : State) f op, (form i).op? = some op → s.decodeCheck i = some f → exec i s = .next (s.decodeFault f)) ∧
  ∀ (s : State) f,
    let t := s.decodeFault f
    (∀ lk ∈ s.setLanes, (t.lane lk).fault.code = f.code ∧ (t.lane lk).fault.flags.getLsbD 0 = true ∧
      (t.lane lk).fault.pc = s.cur.pc ∧ (t.lane lk).fault.info = f.info ∧
      ((t.lane lk).state = .trapped ∨ (t.lane lk).state = .suspended) ∧
      t.lane lk = s.faulted (s.lane lk) (s.handler (s.laneTeam lk)) (t.lane lk).fault f.prog) ∧
    (∀ j, (t.lane j).regs = (s.lane j).regs ∧ (t.lane j).tags = (s.lane j).tags ∧ (t.lane j).preds = (s.lane j).preds) ∧
    t.mem = s.mem ∧ FaultsOnly s t ∧ (∀ c, (t.ctx c).counters = (s.ctx c).counters) ∧ t.monitors = s.monitors

/-- R374, R47: ERET.retry and ERET.skip return a TRAPPED lane from its fault: it becomes ACTIVE, at the faulting word or after
it; its fault record and registers stay. A fault of a header that breaks R44 has its return points at the header and at the next one;
that of a word where a header is due at the word and behind it. -/
def Obligations.FaultReturns : Prop :=
  let trapped := fun (i : Instr) (s : State) => ∀ lk ∈ s.acting i, (s.lane lk).state = .trapped
  (∀ f s, s.Clear (.eretRetry f) → trapped (.eretRetry f) s → Gives (.eretRetry f) s fun _ => [.eret true]) ∧
  (∀ f s, s.Clear (.eretSkip f) → trapped (.eretSkip f) s → Gives (.eretSkip f) s fun _ => [.eret false]) ∧
  (∀ (l : Lane) r now, l.ret = some r → r.kind = 0 →
    (l.return true now).state = .active ∧ (l.return true now).pc = r.pc ∧
    (l.return true now).resume = some ⟨r.hdr, r.hw, r.prog, r.sub⟩ ∧
    (l.return false now).state = .active ∧ (l.return false now).pc = r.pc + 8 ∧
    ∀ b, (l.return b now).fault = l.fault ∧ (l.return b now).regs = l.regs ∧ (l.return b now).ret = none) ∧
  (∀ (l : Lane) r now, l.ret = some r → r.kind = 1 →
    (l.return true now).state = .active ∧ (l.return true now).pc = r.pc ∧ (l.return true now).resume = none ∧
    (l.return false now).state = .active ∧ (l.return false now).pc = r.pc + 8 + BitVec.ofNat 64 (8 * ((r.hw.extractLsb' 48 4).toNat + 1)) ∧
    (l.return false now).resume = none) ∧
  (∀ (l : Lane) r now, l.ret = some r → r.kind = 2 →
    (l.return true now).state = .active ∧ (l.return true now).pc = r.pc ∧ (l.return true now).resume = none ∧
    (l.return false now).state = .active ∧ (l.return false now).pc = r.pc + 8 ∧ (l.return false now).resume = none) ∧
  (∀ (s : State) gk x f w p, p < 64 → x.mask.getLsbD p = true → let l := (s.headerFault gk x f w).lane (gk * 64 + p)
    l.fault.code = f.code ∧ l.fault.pc = x.pc ∧ l.fault.word = w ∧ l.fault.flags.getLsbD 1 = true ∧
    ∃ r, ((l.state = .trapped ∧ l.ret = some r) ∨ (l.state = .suspended ∧ l.susp = some r)) ∧ r.pc = x.pc ∧ r.hw = w ∧
      r.kind = if opOf w = 0xFE then 1 else 2)

/-- R366, R373: FAULTRD gives a next state with the lane's own record, its code, or its INFO; the record's fields stand at the
places that R366 gives them. -/
def Obligations.FaultRecordRead : Prop :=
  (∀ f s, s.Clear (.faultrd f) → Gives (.faultrd f) s fun lk =>
    if f.fn = 0 then put f.d 16 (s.lane lk).fault.bits.toNat
    else if f.fn = 1 then put f.d 1 (s.lane lk).fault.code.toNat
    else put f.d 2 (s.lane lk).fault.info.toNat) ∧
  (∀ r : FaultRec,
    r.bits.extractLsb' 448 64 = r.pc ∧ r.bits.extractLsb' 384 64 = r.info ∧ r.bits.extractLsb' 320 64 = r.word ∧
    r.bits.extractLsb' 272 48 = BitVec.ofNat 48 r.seq ∧ r.bits.extractLsb' 256 16 = r.progress ∧
    r.bits.extractLsb' 224 32 = r.codever ∧ r.bits.extractLsb' 192 32 = r.aux ∧
    r.bits.extractLsb' 180 12 = BitVec.ofNat 12 r.tid ∧ r.bits.extractLsb' 174 6 = BitVec.ofNat 6 r.lane ∧
    r.bits.extractLsb' 168 6 = BitVec.ofNat 6 r.group ∧ r.bits.extractLsb' 157 11 = BitVec.ofNat 11 r.core ∧
    r.bits.extractLsb' 152 2 = BitVec.ofNat 2 r.role ∧ r.bits.extractLsb' 128 8 = r.flags ∧
    r.bits.extractLsb' 120 8 = r.code ∧ r.bits.extractLsb' 0 120 = 0 ∧ r.bits.extractLsb' 136 16 = 0)

/-- R372: TRAPSET.set gives the code version of the issuing team the handler in pair A, with status 0, when it is a multiple of 8
within the kernel's CODE capability, and status 1 with no change otherwise; .clr takes it away; .get reads it, 0 for none. -/
def Obligations.HandlerSet : Prop :=
  let ver := fun (s : State) (l : Nat) => (s.team (s.laneTeam l)).ver
  let with_ := fun (s : State) (l : Nat) (h : Option DWord) =>
    { s with vers := s.vers.modify (ver s l) fun x => { x with handler := h } }
  let good := fun (s : State) (l : Nat) (a : DWord) => ∃ v, s.vers.get? (ver s l) = some v ∧ a.toNat % 8 = 0 ∧
    (Cap.ofQuad v.cap).base ≤ (a.toNat : Int) ∧ (a.toNat : Int) < (Cap.ofQuad v.cap).top
  (∀ f s l ls, s.Clear (.trapsetSet f) → s.acting (.trapsetSet f) = l :: ls → good s l (s.pair l f.a) →
    GivesFrom (.trapsetSet f) s (with_ (s.counted (.trapsetSet f)) l (some (s.pair l f.a))) fun _ => put f.d 1 0) ∧
  (∀ f s l ls, s.Clear (.trapsetSet f) → s.acting (.trapsetSet f) = l :: ls → ¬ good s l (s.pair l f.a) →
    Gives (.trapsetSet f) s fun _ => put f.d 1 1) ∧
  (∀ f s, s.Clear (.trapsetClr f) → GivesOnce (.trapsetClr f) s
    (fun l => with_ (s.counted (.trapsetClr f)) l none) fun _ => put f.d 1 0) ∧
  (∀ f s, s.Clear (.trapsetGet f) → GivesOnce (.trapsetGet f) s (fun _ => s.counted (.trapsetGet f)) fun l =>
    put f.d 2 (match (s.vers.get? (ver s l)).bind (·.handler) with | some h => h.toNat | none => 0))

/-- R22 to R28, R44, R167 to R170: WHAT A VOTE DOES. A header is well formed as R23 and R24 say. An able lane set holds live lanes at one
program counter; at a well-formed header, every barrier that it waits on shows its phase. The vote takes the able set with the lowest
program counter, or, each 64th time, the oldest, and counts. The set then stands in its clause on the first port: at the first
instruction behind its header, or where it stood. The lowest of the other able sets takes the second port when the classes differ and
neither is MIXED, and else nothing does. A header that breaks R44 raises ILLEGAL on every lane of the set, and no clause starts. (That
a second set whose header is malformed starts nothing is the model's choice, log entry 18, and so is what a set is within a clause,
log entry 17.) -/
def Sys2Proof.Claims.votes : Prop :=
  (∀ w : DWord, hdrOk w = true ↔ opOf w = 0xFE ∧ (w.extractLsb' 52 4).toNat < 8 ∧ w.extractLsb' 8 8 = 0 ∧ w.extractLsb' 0 7 = 0 ∧
    ∀ i < 16, w.getLsbD (16 + i) = true → w.getLsbD (32 + i) = true) ∧
  (∀ (s : State) gk x, x ∈ s.ableSets gk →
    (∀ p < 64, x.mask.getLsbD p = true → (s.lane (gk * 64 + p)).pc = x.pc ∧
      ((s.lane (gk * 64 + p)).state = .active ∨ (s.lane (gk * 64 + p)).state = .trapped)) ∧
    (x.resume = none → (∀ w, s.fetch (s.teamOf gk) x.pc = .word w → hdrOk w = true → ∀ i < 16, w.getLsbD (32 + i) = true →
      (s.barrier (s.teamOf gk) i).getLsbD 0 = w.getLsbD (16 + i)) ∧
      ∀ p < 64, (s.lane (gk * 64 + p)).pc = x.pc → (s.lane (gk * 64 + p)).resume = none →
        ((s.lane (gk * 64 + p)).state = .active ∨ (s.lane (gk * 64 + p)).state = .trapped) → x.mask.getLsbD p = true)) ∧
  (∀ (s : State) gk x, pickSet (s.group gk).vote (s.ableSets gk) = some x → x ∈ s.ableSets gk ∧
    ((s.group gk).vote ≠ 63 → ∀ y ∈ s.ableSets gk, x.pc.toNat ≤ y.pc.toNat) ∧
    ((s.group gk).vote = 63 → ∀ y ∈ s.ableSets gk, x.oldest ≤ y.oldest ∧ (x.oldest = y.oldest → x.pc.toNat ≤ y.pc.toNat))) ∧
  (∀ (s : State) k gk x, pickSet (s.group gk).vote (s.ableSets gk) = some x →
    let t := s.voteGroup k gk
    let member := fun p => p < 64 ∧ x.mask.getLsbD p = true
    (t.group gk).vote = ((s.group gk).vote + 1) % 64 ∧ t.mem = s.mem ∧
    (∀ w, x.resume = none → s.fetch (s.teamOf gk) x.pc = .word w → hdrOk w = true →
      (∃ c, (t.islot k).c0 = some c ∧ c.gslot = gk % 64 ∧ c.mask = x.mask ∧ c.hdr = x.pc ∧ c.hw = w ∧ c.idx = 0 ∧ c.sub = 0) ∧
      ∀ p, member p → t.lane (gk * 64 + p) =
        { s.lane (gk * 64 + p) with pc := x.pc + 8, resume := some ⟨x.pc, w, 0, 0⟩ }) ∧
    (∀ r, x.resume = some r → (∃ c, (t.islot k).c0 = some c ∧ c.gslot = gk % 64 ∧ c.mask = x.mask ∧ c.hdr = r.hdr ∧ c.hw = r.hw ∧
        c.idx = ((x.pc - r.hdr).toNat - 8) / 8 ∧ c.sub = r.sub) ∧
      ∀ p, member p → t.lane (gk * 64 + p) = s.lane (gk * 64 + p)) ∧
    (∀ hw, s.headerOf (s.teamOf gk) x = .ok hw →
      let u := s.fetchFill (coreOf gk) x.pc.toNat
      let others := (s.ableSets gk).filter (· ≠ x)
      let pairs := fun w2 => hdrClass hw ≠ hdrClass w2 ∧ hdrClass hw ≠ 7 ∧ hdrClass w2 ≠ 7
      (others = [] → (t.islot k).c1 = none) ∧
      ∀ y ys, others = y :: ys →
        (∀ w2, u.headerOf (s.teamOf gk) y = .ok w2 → pairs w2 → ∃ c, (t.islot k).c1 = some c ∧ c.gslot = gk % 64 ∧ c.mask = y.mask ∧
          c.hw = w2) ∧
        ((∀ w2, u.headerOf (s.teamOf gk) y = .ok w2 → ¬ pairs w2) → (t.islot k).c1 = none)) ∧
    (∀ w, x.resume = none → s.fetch (s.teamOf gk) x.pc = .word w → hdrOk w = false → t.islots = s.islots ∧ ∀ p, member p →
      let l := t.lane (gk * 64 + p)
      l.fault.code = 0x02 ∧ l.fault.pc = x.pc ∧ l.fault.word = w ∧ l.fault.flags.getLsbD 0 = true ∧ l.fault.flags.getLsbD 1 = true ∧
        (l.state = .trapped ∨ l.state = .suspended) ∧ l.regs = (s.lane (gk * 64 + p)).regs))

/-- R168 to R171, R365, R370, R451: a CLAUSE_VOTE that is due puts the first group of the rotation that can start to the vote
(`votes`); a
GROUP_PROMOTION puts the groups that have waited 256 cycles at the top; a DEFERRED_FAULT takes the oldest refusal of a lane about
to issue; and firmware resumes a SUSPENDED lane at the word of its fault, after it, or not at all. -/
def Obligations.IssueEvents : Prop :=
  Sys2Proof.Claims.votes ∧
  (∀ core k s, s.voteDue (core * 4 + k) = true → ∃ g, s.firstGroup (core * 4 + k) = some g ∧
    exec (.clauseVote core k) s = .next (s.voteGroup (core * 4 + k) (core * 64 + g))) ∧
  (∀ core g s, g ∈ s.promotable (core * 4 + g % 4) → ∃ t, exec (.groupPromotion core g) s = .next t ∧
    t.lanes = s.lanes ∧ t.mem = s.mem ∧
    (t.islot (core * 4 + g % 4)).rotation.take (s.promotable (core * 4 + g % 4)).length =
      s.promotable (core * 4 + g % 4)) ∧
  (∀ lk s f rest, s.deferredDue lk = true → (s.lane lk).late = f :: rest → ∃ t, exec (.deferredFault lk) s = .next t ∧
    (t.lane lk).fault.code = f.code ∧ (t.lane lk).fault.info = f.info ∧ (t.lane lk).fault.pc = s.cur.pc ∧
    (t.lane lk).fault.flags.getLsbD 3 = true ∧ (t.lane lk).late = rest ∧ (t.lane lk).regs = (s.lane lk).regs ∧
    t.mem = s.mem) ∧
  (∀ lk s r, (s.lane lk).state = .suspended → (s.lane lk).susp = some r → r.kind = 0 →
    (∃ t, exec (.resumeRetry lk) s = .next t ∧ (t.lane lk).pc = r.pc ∧
      (t.lane lk).resume = some ⟨r.hdr, r.hw, r.prog, r.sub⟩ ∧ (t.lane lk).regs = (s.lane lk).regs ∧
      (t.lane lk).state = if (s.lane lk).fault.flags.getLsbD 4 then .trapped else .active) ∧
    (∃ t, exec (.resumeSkip lk) s = .next t ∧ (t.lane lk).pc = r.pc + 8 ∧ (t.lane lk).regs = (s.lane lk).regs ∧
      (t.lane lk).state = if (s.lane lk).fault.flags.getLsbD 4 then .trapped else .active)) ∧
  (∀ lk s, (s.lane lk).state = .suspended → ∃ t, exec (.resumeEnd lk) s = .next t ∧ (t.lane lk).state = .exited ∧
    (t.launch (s.team (s.laneTeam lk)).launch).faulted = true ∧ t.mem = s.mem)

/-! ## Barriers and convergence registers (R215 to R225) -/

/-- R216 to R218, R224: the completion test and the updates that it follows. A barrier whose arrivals and bytes are both complete flips
its phase and starts its next one with nothing counted; ERR is set when bytes exceed what was expected, and stays set; otherwise only
the counts change. A thread's arrival adds one to ARR_CNT, the last one completing the phase; a departure takes one from ARR_EXP; of a
barrier with ARR_EXP 0 both count nothing and are an overflow. BEXPB adds to BYTE_EXP, a credit to BYTE_CNT, an engine's arrival to
both counts; a sum beyond 2^40 − 1 saturates and is an overflow. -/
def Sys2Proof.Claims.barrierTest : Prop :=
  (∀ (b : Bar) o, b.arrCnt = b.arrExp → b.byteExp ≤ b.byteCnt → 0 < b.arrExp + b.byteExp →
    (b.test o).flip = true ∧ (b.test o).bar.phase = !b.phase ∧ (b.test o).bar.arrCnt = 0 ∧ (b.test o).bar.byteCnt = 0 ∧
    (b.test o).bar.byteExp = 0 ∧ (b.test o).bar.arrExp = b.arrExp ∧
    (b.test o).bar.err = (b.err || o || decide (b.byteExp < b.byteCnt)) ∧
    (b.test o).ovf = (o || decide (b.byteExp < b.byteCnt))) ∧
  (∀ (b : Bar) o, ¬ (b.arrCnt = b.arrExp ∧ b.byteExp ≤ b.byteCnt ∧ 0 < b.arrExp + b.byteExp) →
    b.test o = ⟨{ b with err := b.err || o }, o, false⟩) ∧
  (∀ b : Bar, b.arrExp = 0 → b.threadArrive = ⟨{ b with err := true }, true, false⟩) ∧
  (∀ b : Bar, 1 < b.arrExp → b.arrExp < 2 ^ 13 → b.arrCnt + 1 < b.arrExp →
    b.threadArrive = ⟨{ b with arrCnt := b.arrCnt + 1 }, false, false⟩) ∧
  (∀ b : Bar, b.arrExp < 2 ^ 13 → b.arrCnt + 1 = b.arrExp → b.byteExp ≤ b.byteCnt →
    b.threadArrive.flip = true ∧ b.threadArrive.ovf = decide (b.byteExp < b.byteCnt) ∧ b.threadArrive.bar =
      ⟨0, 0, 0, b.arrExp, b.err || decide (b.byteExp < b.byteCnt), !b.phase⟩) ∧
  (∀ b : Bar, (b.arrExp = 0 → b.drop = ⟨{ b with err := true }, true, false⟩) ∧
    (0 < b.arrExp → b.drop = ({ b with arrExp := b.arrExp - 1 } : Bar).test false)) ∧
  (∀ (b : Bar) n, (b.byteExp + n < 2 ^ 40 → b.expect n = ({ b with byteExp := b.byteExp + n } : Bar).test false) ∧
    (2 ^ 40 ≤ b.byteExp + n → b.expect n = ({ b with byteExp := 2 ^ 40 - 1 } : Bar).test true)) ∧
  (∀ (b : Bar) n, (b.byteCnt + n < 2 ^ 40 → b.credit n = ({ b with byteCnt := b.byteCnt + n } : Bar).test false) ∧
    (2 ^ 40 ≤ b.byteCnt + n → b.credit n = ({ b with byteCnt := 2 ^ 40 - 1 } : Bar).test true)) ∧
  (∀ (b : Bar) n, 0 < b.arrExp → b.arrCnt + 1 < 2 ^ 13 → b.byteCnt + n < 2 ^ 40 →
    b.engineArrive n = ({ b with byteCnt := b.byteCnt + n, arrCnt := b.arrCnt + 1 } : Bar).test false) ∧
  (∀ (b : Bar), b.byteCnt < 2 ^ 40 → b.byteExp < 2 ^ 40 → b.arrCnt < 2 ^ 13 → b.arrExp < 2 ^ 13 →
    Bar.ofQuad b.toQuad = b)

/-- R220, R224: BINIT, BWAIT, BEXPB, BTEST and BREAD, and the BCLUST forms on the cluster's registers, give a next state. BINIT
arms a barrier in which nothing is counted (status 0), and else changes nothing (1), as for a count above 8,191 (2); BTEST writes
whether the phase differs from the parity; BWAIT sleeps where it does not; a cluster's phase that has gone on is acquired;
BREAD copies the 128 bits. -/
def Obligations.BarrierInstructions : Prop :=
  Sys2Proof.Claims.barrierTest ∧
  let busy := fun (q : Quad) => q.extractLsb' 21 13 ≠ 0 ∨ q.extractLsb' 40 40 ≠ 0 ∨ q.extractLsb' 80 40 ≠ 0
  let armed := fun (q : Quad) (n : Nat) => ({ Bar.ofQuad q with arrExp := n, err := false } : Bar).toQuad
  let init := fun (i : Instr) (f : FmtX) (loc : State → BarLoc) => ∀ s l ls, s.Clear i → s.acting i = l :: ls →
    (8191 < (s.reg1 l f.a).toNat → Gives i s fun _ => put f.d 1 2) ∧
    ((s.reg1 l f.a).toNat ≤ 8191 → busy (s.barGet (loc s)) → Gives i s fun _ => put f.d 1 1) ∧
    ((s.reg1 l f.a).toNat ≤ 8191 → ¬ busy (s.barGet (loc s)) →
      GivesFrom i s ((s.counted i).barSet (loc s) (armed (s.barGet (loc s)) (s.reg1 l f.a).toNat)) fun _ => put f.d 1 0)
  let differs := fun (s : State) (f : FmtX) (loc : State → BarLoc) (lk : Nat) =>
    (s.barGet (loc s)).getLsbD 0 != (s.reg1 lk f.a).getLsbD 0
  let clust := fun (i : Instr) (f : FmtX) (s : State) (ws : Nat → List Wr) => ∃ t,
    Completed (s.counted i) t (s.acting i) ws ∧
    exec i s = .next (if ∃ lk ∈ s.acting i, differs s f (fun s => s.cbHere f.bar) lk = true
      then t.barAcquire (s.cbHere f.bar) (s.teamOf s.cur.gkey) else t)
  (∀ f, init (.binit f) f fun s => s.barHere f.bar) ∧
  (∀ f, init (.bclustInit f) f fun s => s.cbHere f.bar) ∧
  (∀ f s, s.Clear (.bread f) → Gives (.bread f) s fun _ => putQuad f.d (s.barGet (s.barHere f.bar)) false) ∧
  (∀ f s, s.Clear (.bclustRead f) → Gives (.bclustRead f) s fun _ => putQuad f.d (s.barGet (s.cbHere f.bar)) false) ∧
  (∀ f s, s.Clear (.btest f) → Gives (.btest f) s fun lk => putPred f.d (differs s f (fun s => s.barHere f.bar) lk)) ∧
  (∀ f s, s.Clear (.bwait f) → Gives (.bwait f) s fun lk =>
    if differs s f (fun s => s.barHere f.bar) lk then []
    else [.sleep (.bwait f.bar.toNat ((s.reg1 lk f.a).getLsbD 0))]) ∧
  (∀ f s, s.Clear (.bclustTest f) → clust (.bclustTest f) f s fun lk =>
    putPred f.d (differs s f (fun s => s.cbHere f.bar) lk)) ∧
  (∀ f s, s.Clear (.bclustWait f) → clust (.bclustWait f) f s fun lk =>
    if differs s f (fun s => s.cbHere f.bar) lk then []
    else [.sleep (.bclust f.bar.toNat ((s.reg1 lk f.a).getLsbD 0))]) ∧
  (∀ f s, s.Clear (.bexpb f) → GivesOnce (.bexpb f) s
    (fun l => (s.counted (.bexpb f)).barUpdate (s.barHere f.bar) (s.laneTeam l) fun b => b.expect (s.pair l f.a).toNat)
    fun _ => []) ∧
  (∀ f s, s.Clear (.bclustExp f) → GivesOnce (.bclustExp f) s
    (fun l => (s.counted (.bclustExp f)).barUpdate (s.cbHere f.bar) (s.laneTeam l) fun b => b.expect (s.pair l f.a).toNat)
    fun _ => [])

/-- R220, R224: BARV makes one arrival, or with .drop one departure, for each acting lane in lane order, and gives each the phase
from before its own; BCLUST.arv makes one for the lane set, after the core's dirty lines are written back unless its cluster's
L1s are fused. -/
def Obligations.BarrierArrivals : Prop :=
  (∀ f s, s.Clear (.barv f) → GivesInTurn (.barv f) s
    (fun lk u => u.barUpdate (s.barHere f.bar) (s.laneTeam lk) (if f.xo == 1 then Bar.drop else Bar.threadArrive))
    fun u _ => put f.d 1 ((u.barGet (s.barHere f.bar)).getLsbD 0).toNat) ∧
  (∀ f s, s.Clear (.bclustArv f) → GivesOnce (.bclustArv f) s
    (fun l =>
      let s0 := s.counted (.bclustArv f)
      let s1 := if s.unitOf (s.laneCtx l) s.cur.core = s.cur.core then s0.flushAll s.cur.core (s.laneCtx l) else s0
      s1.barUpdate (s.cbHere f.bar) (s.laneTeam l) Bar.threadArrive)
    fun _ => put f.d 1 ((s.barGet (s.cbHere f.bar)).getLsbD 0).toNat)

/-- R221, R222, R225: CVINIT arms a FREE register, or one of the group's own that is not signing, with the present lanes of the
mask (status 0), and else changes nothing (1); CVDROP.free frees such a register (0), and else changes nothing (1); CVDROP.lane takes
the lane out of SET. Lanes of SET that sign first make the register SIGNING and sleep; the signers that make SIGNED equal to SET
complete the round: every signer wakes in one batch, and the register is ARMED again. A lane that is not in SET, or in another group,
or signs at another address or code version, takes CONV_MISMATCH. (That CVDROP.free of a FREE register answers 0 is the model's
choice, log entry 16.) -/
def Obligations.ConvergenceRegisters : Prop :=
  let mine := fun (s : State) (l n : Nat) => (s.cv (s.laneTeam l) n).state = .free ∨
    ((s.cv (s.laneTeam l) n).state = .armed ∧ (s.cv (s.laneTeam l) n).owner = s.cur.gslot)
  let present := fun (s : State) (l : Nat) =>
    lanesMask (((groupLanes (groupOf l)).filter fun lk => (s.lane lk).state ≠ .exited && (s.lane lk).state ≠ .empty).map posOf)
  (∀ f s l ls, s.Clear (.cvinit f) → s.acting (.cvinit f) = l :: ls → mine s l f.bar.toNat →
    GivesFrom (.cvinit f) s
      ((s.counted (.cvinit f)).setCv (s.laneTeam l) f.bar.toNat
        (if s.pair l f.a &&& present s l = 0 then CvReg.free
         else ⟨.armed, s.cur.gslot, s.pair l f.a &&& present s l, 0, 0, 0, none, false, 0, none⟩))
      fun _ => put f.d 1 0) ∧
  (∀ f s l ls, s.Clear (.cvinit f) → s.acting (.cvinit f) = l :: ls → ¬ mine s l f.bar.toNat →
    Gives (.cvinit f) s fun _ => put f.d 1 1) ∧
  (∀ f s l ls, s.Clear (.cvdropFree f) → s.acting (.cvdropFree f) = l :: ls → mine s l f.bar.toNat →
    GivesFrom (.cvdropFree f) s ((s.counted (.cvdropFree f)).setCv (s.laneTeam l) f.bar.toNat CvReg.free)
      fun _ => put f.d 1 0) ∧
  (∀ f s l ls, s.Clear (.cvdropFree f) → s.acting (.cvdropFree f) = l :: ls → ¬ mine s l f.bar.toNat →
    Gives (.cvdropFree f) s fun _ => put f.d 1 1) ∧
  (∀ f s, s.Clear (.cvdropLane f) →
    let in_ := fun (u : State) (lk : Nat) => (u.cv (s.laneTeam lk) f.bar.toNat).state ≠ .free ∧
      (u.cv (s.laneTeam lk) f.bar.toNat).owner = s.cur.gslot ∧ (u.cv (s.laneTeam lk) f.bar.toNat).set.getLsbD (posOf lk) = true
    GivesInTurn (.cvdropLane f) s
      (fun lk u => if in_ u lk then u.cvLeave (s.laneTeam lk) s.cur.gslot (posOf lk) f.bar.toNat else u)
      fun u lk => put f.d 1 (if in_ u lk then 0 else 1)) ∧
  (∀ f s, s.Clear (.cvsign f) → s.acting (.cvsign f) ≠ [] →
    let i : Instr := .cvsign f
    let tm := s.teamOf s.cur.gkey
    let r := s.cv tm f.bar.toNat
    let old := if r.state = .signing then r.signed else 0
    let signed := old ||| lanesMask ((s.acting i).map posOf)
    r.state ≠ .free → r.owner = s.cur.gslot → (∀ l ∈ s.acting i, r.set.getLsbD (posOf l) = true) →
    (∀ l ∈ s.acting i, old.getLsbD (posOf l) = false) →
    (r.state = .signing → r.addr = s.cur.pc ∧ r.ver = (s.team tm).ver ∧ r.full = false) →
    (signed ≠ r.set → ∃ t, exec i s = .next t ∧ (∀ l ∈ s.acting i,
        (t.lane l).state = .asleep (decide ((s.lane l).state = .trapped)) ∧ (t.lane l).sleep = some (.cv f.bar.toNat)) ∧
      (t.cv tm f.bar.toNat).state = .signing ∧ (t.cv tm f.bar.toNat).signed = signed ∧ (t.cv tm f.bar.toNat).set = r.set ∧
      (t.cv tm f.bar.toNat).addr = s.cur.pc ∧ t.mem = s.mem) ∧
    (signed = r.set → (s.team tm).core = s.cur.core → ∃ t b, exec i s = .next t ∧
      (∀ l ∈ s.acting i, (t.lane l).state = .asleep (decide ((s.lane l).state = .trapped)) ∧
        (t.lane l).sleep = some (.due b [])) ∧
      (∀ l ∈ groupLanes s.cur.gkey, (∃ d, (s.lane l).state = .asleep d) → (s.lane l).sleep = some (.cv f.bar.toNat) →
        t.lane l = { s.lane l with sleep := some (.due b []) }) ∧
      (t.cv tm f.bar.toNat).state = .armed ∧ (t.cv tm f.bar.toNat).signed = 0 ∧ (t.cv tm f.bar.toNat).set = r.set ∧
      t.mem = s.mem)) ∧
  (∀ f s l, s.Clear (.cvsign f) → s.acting (.cvsign f) = [l] →
    let r := s.cv (s.laneTeam l) f.bar.toNat
    r.state = .free ∨ r.owner ≠ s.cur.gslot ∨ r.set.getLsbD (posOf l) = false ∨
      (r.state = .signing ∧ (r.addr ≠ s.cur.pc ∨ r.ver ≠ (s.team (s.laneTeam l)).ver)) →
    Faults (.cvsign f) s l 0x30)

/-- R193, R194, R195: what follows an arrival. While a thread of the team has not arrived, nothing; when all have, the checks are made
once, and the team then waits for its shuffle, or each thread takes the fault at its own REGROUP word and no register or byte of
memory changes. The fault is CONV_MISMATCH where two threads differ in address or code version, else REGROUP_BUSY where a
convergence register is not FREE, a block, lease or lent bank is in use, or a thread was TRAPPED when it slept. -/
def Sys2Proof.Claims.regroupSettles : Prop :=
  (∀ (s : State) tm, s.allArrived tm = false ∨ (s.team tm).rg.isSome = true → s.regroupSettle tm = s) ∧
  (∀ (s : State) tm, s.allArrived tm = true → (s.team tm).rg = none →
    (s.regroupFault tm = none → s.regroupSettle tm = s.modTeam tm fun m => { m with rg := some ⟨false, [], 0, 0⟩ }) ∧
    ∀ code, s.regroupFault tm = some code → (∀ lk, (((s.regroupSettle tm).lane lk).regs = (s.lane lk).regs)) ∧
      (s.regroupSettle tm).mem = s.mem ∧ (s.regroupSettle tm).teams = s.teams ∧
      ∀ lk ∈ s.threads tm, (((s.regroupSettle tm).lane lk).fault.code = code) ∧ ((s.regroupSettle tm).lane lk).sleep = none ∧
        ((s.regroupSettle tm).lane lk).fault.pc = ((s.lane lk).site.getD (s.site 0)).pc ∧
        (((s.regroupSettle tm).lane lk).state = .trapped ∨ ((s.regroupSettle tm).lane lk).state = .suspended)) ∧
  (∀ (s : State) tm, s.allArrived tm = true →
    let pcs := fun lk => ((s.lane lk).site.map (·.pc)).getD 0
    let vers := fun lk => ((s.lane lk).arrival.map (·.ver)).getD 0
    let differ := ∃ a ∈ s.threads tm, ∃ b ∈ s.threads tm, pcs a ≠ pcs b ∨ vers a ≠ vers b
    let busy := (∃ p ∈ (s.team tm).cvs, p.2.state ≠ .free) ∨
      (∃ g ∈ (s.team tm).slots, let x := s.group ((s.team tm).core * 64 + g)
        x.ext = true ∨ x.leaseOn = true ∨ x.bank.isSome = true) ∨
      ∃ lk ∈ s.threads tm, (s.lane lk).state = .asleep true
    s.regroupFault tm = if differ then some Code.convMismatch else if busy then some Code.regroupBusy else none)

/-- R192, R193, R195 to R202: REGROUP makes each acting lane record its key and code version and sleep, and settles the team
(`regroupSettles`). A shuffle that is due starts with two passes more than the carry set has registers. The first pass computes the
placement; each of the next moves one carried register of every thread, and no other; the last puts every thread, ACTIVE, with its
own thread identifier, address, predicates and carried registers, in its new lane, and raises RGEN. RGQUERY gives what the last
shuffle recorded of the lane's thread. -/
def Obligations.RegroupRuns : Prop :=
  Sys2Proof.Claims.regroupSettles ∧
  (∀ f s, s.Clear (.regroup f) → ∃ t,
    exec (.regroup f) s = .next (t.regroupSettle (s.teamOf s.cur.gkey)) ∧
    Completed ((s.acting (.regroup f)).foldl (fun u lk => u.modLane lk fun l =>
      { l with arrival := some ⟨(s.team (s.laneTeam lk)).ver, (s.reg1 lk f.a).toNat % 2 ^ 16⟩ }) (s.counted (.regroup f)))
      t (s.acting (.regroup f)) fun _ => [.sleep .regroup]) ∧
  (∀ f s, s.Clear (.rgquery f) → Gives (.rgquery f) s fun lk =>
    put f.d 1 (match f.mod.toNat % 4 with
      | 0 => (s.lane lk).rg.run | 1 => (s.lane lk).rg.rank | 2 => (s.lane lk).rg.first | _ => (s.lane lk).rg.mixed)) ∧
  (∀ t s, s.shuffleDue t = true → exec (.regroupShuffleStart t) s =
    .next (s.modTeam t fun m => { m with rg := some ⟨true, [], (s.carrySet t).length + 2, 0⟩ })) ∧
  (∀ t s r, s.passDue t = true → (s.team t).rg = some r → ∃ u, exec (.regroupPass t) s = .next u ∧ u.mem = s.mem ∧
    (r.done + 1 < r.total ∨ r.done = 0 → ∃ r2, (u.team t).rg = some r2 ∧ r2.done = r.done + 1 ∧ r2.total = r.total) ∧
    (r.done ≠ 0 → r.total ≤ r.done + 1 → (u.team t).rg = none ∧ (u.team t).rgen = (s.team t).rgen + 1)) ∧
  (∀ t s r, s.passDue t = true → (s.team t).rg = some r → r.done = 0 →
    exec (.regroupPass t) s = .next (s.modTeam t fun m => { m with rg := some { r with place := s.placement t, done := 1 } })) ∧
  (∀ t s r, s.passDue t = true → (s.team t).rg = some r →
    let m := s.team t
    let carry := s.carrySet t
    let old := fun (p : Placed) => m.laneAt p.old
    let new := fun (p : Placed) => m.laneAt (p.grp * 64 + p.lane)
    (r.place.map new).Nodup →
    (r.done ≠ 0 → r.done + 1 < r.total → ∃ u, exec (.regroupPass t) s = .next u ∧
      let n := carry.getD (r.done - 1) 0
      (∀ p ∈ r.place, (u.lane (new p)).regs.getD n 0 = (s.lane (old p)).regs.getD n 0 ∧
        (n ∈ (u.lane (new p)).poison ↔ n ∈ (s.lane (old p)).poison)) ∧
      (∀ lk k, k ≠ n → (u.lane lk).regs.getD k 0 = (s.lane lk).regs.getD k 0) ∧
      (∀ lk, (∀ p ∈ r.place, new p ≠ lk) → u.lane lk = s.lane lk) ∧
      (∀ lk, (u.lane lk).pc = (s.lane lk).pc ∧ (u.lane lk).tid = (s.lane lk).tid ∧ (u.lane lk).state = (s.lane lk).state) ∧
      u = { s with lanes := u.lanes, teams := u.teams }) ∧
    (r.done ≠ 0 → r.total ≤ r.done + 1 → ∃ u, exec (.regroupPass t) s = .next u ∧
      (∀ p ∈ r.place, (u.lane (new p)).state = .active ∧ (u.lane (new p)).tid = (s.lane (old p)).tid ∧
        (u.lane (new p)).pc = (s.lane (old p)).pc ∧ (u.lane (new p)).preds = (s.lane (old p)).preds ∧
        (u.lane (new p)).key = p.key ∧ (u.lane (new p)).sleep = none ∧
        ∀ n ∈ carry, n < s.allocation (m.gkeyOf p.grp) →
          (u.lane (new p)).regs.getD n 0 = (s.lane (new p)).regs.getD n 0) ∧
      (∀ lk ∈ s.teamLanes t, (∀ p ∈ r.place, new p ≠ lk) → (u.lane lk).state = .empty) ∧
      (∀ lk, lk ∉ s.teamLanes t → (∀ p ∈ r.place, new p ≠ lk) → u.lane lk = s.lane lk) ∧
      u = { s with lanes := u.lanes, groups := u.groups, teams := u.teams }))

/-! ## Capability instructions (R81 to R106) -/

/-- A quad operand that R93 lets an instruction read the bounds of: untagged, or well formed. -/
def Sys2Proof.Claims.readable (q : Quad × Bool) : Prop := q.2 = true → (Cap.ofQuad q.1).wf = true

/-- A quad operand that R93 lets an instruction move or narrow: untagged, or well formed and not sealed. -/
def Sys2Proof.Claims.movable (q : Quad × Bool) : Prop :=
  q.2 = true → (Cap.ofQuad q.1).wf = true ∧ sealedKind (Cap.ofQuad q.1).kind = false

/-- R93, R106: a tagged source that is not well formed raises CAP_MALFORMED, and one that is sealed CAP_SEALED, in the
instructions that narrow or move it; CMINT raises CAP_MALFORMED and CAP_PERM; the lane's registers keep what they held. -/
def Sys2Proof.Claims.capabilityFaults : Prop :=
  let cap := fun (s : State) (lk : Nat) (a : BitVec 9) => Cap.ofQuad (s.quad lk a).1
  let moves := fun (i : Instr) (f : FmtT) => ∀ s lk, s.Clear i → lk ∈ s.acting i → (s.quad lk f.a).2 = true →
    ((cap s lk f.a).wf = false → Faults i s lk 0x16) ∧
    ((cap s lk f.a).wf = true → sealedKind (cap s lk f.a).kind = true → Faults i s lk 0x11)
  (∀ f, moves (.csetb f) f) ∧ (∀ f, moves (.cadd f) f) ∧ (∀ f, moves (.cseta f) f) ∧
  (∀ f, f.mod.toNat % 4 < 2 → moves (.calign f) f) ∧
  (∀ f s lk, s.Clear (.cget f) → lk ∈ s.acting (.cget f) → modBits f.mod 3 0 ∈ [1, 2, 3, 4] → (s.quad lk f.a).2 = true →
    (cap s lk f.a).wf = false → Faults (.cget f) s lk 0x16) ∧
  (∀ f s lk, s.Clear (.cmint f) → lk ∈ s.acting (.cmint f) →
    ((cap s lk f.a).wf = false → Faults (.cmint f) s lk 0x16) ∧
    ((cap s lk f.a).wf = true → (cap s lk f.a).perm.getLsbD 10 = true → (cap s lk f.a).colour ≠ 0 →
      Faults (.cmint f) s lk 0x14))

/-- R95, R97 to R102, R106: the capability instructions give a next state with the field, the moved or masked quad with its tag,
the code of the check, or the difference of cursors, and change nothing else. -/
def Obligations.CapabilityResults : Prop :=
  Sys2Proof.Claims.capabilityFaults ∧
  let cap := fun (s : State) (lk : Nat) (a : BitVec 9) => Cap.ofQuad (s.quad lk a).1
  let all := fun (p : Quad × Bool → Prop) (i : Instr) (s : State) (a : BitVec 9) => ∀ lk ∈ s.acting i, p (s.quad lk a)
  let moved := fun (s : State) (f : FmtT) (lk : Nat) (n : Int) =>
    putQuad f.d ({ cap s lk f.a with cur := (n % 2 ^ 64).toNat } : Cap).toQuad
      ((s.quad lk f.a).2 && decide (0 ≤ n ∧ n < 2 ^ 64 ∧ (cap s lk f.a).base ≤ n ∧
        n < (cap s lk f.a).base + (cap s lk f.a).window))
  (∀ f s, s.Clear (.cget f) → (modBits f.mod 3 0 ∈ [1, 2, 3, 4] → all Sys2Proof.Claims.readable (.cget f) s f.a) →
    Gives (.cget f) s fun lk =>
      let c := cap s lk f.a
      match modBits f.mod 3 0 with
      | 0 => put f.d 2 c.cur
      | 1 => put f.d 2 (c.base % 2 ^ 64).toNat
      | 2 => put f.d 2 (max 0 (min c.top (2 ^ 64 - 1))).toNat
      | 3 => put f.d 2 (max 0 (min (c.top - c.base) (2 ^ 64 - 1))).toNat
      | 4 => put f.d 2 ((c.cur - c.base) % 2 ^ 64).toNat
      | 5 => put f.d 1 c.perm.toNat
      | 6 => put f.d 1 c.kind
      | 7 => put f.d 1 c.colour
      | 8 => put f.d 1 c.exp
      | _ => put f.d 1 (s.quad lk f.a).2.toNat) ∧
  (∀ f s, s.Clear (.cadd f) → all Sys2Proof.Claims.movable (.cadd f) s f.a → Gives (.cadd f) s fun lk =>
    moved s f lk ((cap s lk f.a).cur + if f.mod.getLsbD 11 then (f.b.toNat : Int) else (s.pair lk f.b).toInt)) ∧
  (∀ f s, s.Clear (.cseta f) → all Sys2Proof.Claims.movable (.cseta f) s f.a → Gives (.cseta f) s fun lk =>
    moved s f lk ((s.pair lk f.b).toNat : Int)) ∧
  (∀ f s, s.Clear (.calign f) → (f.mod.toNat % 4 < 2 → all Sys2Proof.Claims.movable (.calign f) s f.a) →
    Gives (.calign f) s fun lk =>
      let c := cap s lk f.a
      let k := if f.mod.getLsbD 11 then f.b.toNat else (s.reg1 lk f.b).toNat
      let n := (s.pair lk f.a).toNat
      let e := expFor n
      if f.mod.toNat % 4 < 2 then
        if k < 64 then
          moved s f lk (if f.mod.toNat % 4 = 0 then (c.cur / 2 ^ k * 2 ^ k : Nat) else ((c.cur + 2 ^ k - 1) / 2 ^ k * 2 ^ k : Nat))
        else putQuad f.d ({ c with cur := 0 } : Cap).toQuad ((s.quad lk f.a).2 && decide (c.cur = 0))
      else if f.mod.toNat % 4 = 2 then put f.d 2 ((n + 2 ^ e - 1) / 2 ^ e * 2 ^ e)
      else put f.d 2 (2 ^ 64 - 2 ^ e)) ∧
  (∀ f s, s.Clear (.candp f) → Gives (.candp f) s fun lk =>
    let c := cap s lk f.a
    putQuad f.d ({ c with perm := c.perm &&& (s.reg1 lk f.b).setWidth 12 } : Cap).toQuad (s.quad lk f.a).2) ∧
  (∀ f s, s.Clear (.ctest f) → Gives (.ctest f) s fun lk =>
    let n := if f.mod.getLsbD 11 then f.b.toNat else (s.reg1 lk f.b).toNat
    let acc := if f.mod.getLsbD 4 then [Kind.code]
      else if f.mod.getLsbD 2 || f.mod.getLsbD 3 then [Kind.data, Kind.pad] else [Kind.data, Kind.pad, Kind.remote]
    put f.d 1 ((checkCode (s.quad lk f.a).2 (cap s lk f.a) (s.laneColour lk) acc (testPerm f.mod)
      (cap s lk f.a).cur n).getD 0).toNat) ∧
  (∀ f s, s.Clear (.cmovq f) → Gives (.cmovq f) s fun lk => putQuad f.d (s.quad lk f.a).1 (s.quad lk f.a).2) ∧
  (∀ f s, s.Clear (.cclr f) → Gives (.cclr f) s fun lk => putQuad f.d (s.quad lk f.a).1 false) ∧
  (∀ f s, s.Clear (.ceq f) → Gives (.ceq f) s fun lk => put f.d 1
    (decide (if f.mod.getLsbD 0 then (cap s lk f.a).cur = (cap s lk f.b).cur else s.quad lk f.a = s.quad lk f.b)).toNat) ∧
  (∀ f s, s.Clear (.csub f) → Gives (.csub f) s fun lk =>
    put f.d 2 ((((cap s lk f.a).cur : Int) - (cap s lk f.b).cur) % 2 ^ 64).toNat) ∧
  (∀ f s, s.Clear (.cmint f) →
    all (fun q => (Cap.ofQuad q.1).wf = true ∧ ((Cap.ofQuad q.1).perm.getLsbD 10 = true → (Cap.ofQuad q.1).colour = 0))
      (.cmint f) s f.a → Gives (.cmint f) s fun lk => putQuad f.d (s.quad lk f.a).1 true)

/-- R96: CSETB gives a next state in which quad D is the narrowed capability. When its tag is set, its base is the cursor rounded
up and its top the cursor plus n rounded down to the encoding's unit, its cursor is its base, and its other fields are the
source's but for the kind of .cmd; when a condition of R96 fails, the tag is clear. -/
def Obligations.SetBounds : Prop :=
  ∀ f s, s.Clear (.csetb f) → (∀ lk ∈ s.acting (.csetb f), Sys2Proof.Claims.movable (s.quad lk f.a)) →
    ∃ r : Nat → Quad × Bool, Gives (.csetb f) s (fun lk => putQuad f.d (r lk).1 (r lk).2) ∧ ∀ lk ∈ s.acting (.csetb f),
      let c := Cap.ofQuad (s.quad lk f.a).1
      let n := if f.mod.getLsbD 11 then f.b.toNat else (s.pair lk f.b).toNat
      let x := Cap.ofQuad (r lk).1
      ∃ e, n ≤ 2 ^ (e + 15) ∧ (∀ d < e, 2 ^ (d + 15) < n) ∧
        ((r lk).2 = true ↔ (s.quad lk f.a).2 = true ∧ 0 < n ∧ c.base ≤ c.cur ∧ (c.cur + n : Int) ≤ c.top ∧
          (f.mod.getLsbD 0 = true → c.cur % 2 ^ e = 0 ∧ (c.cur + n) % 2 ^ e = 0) ∧
          (f.mod.getLsbD 1 = true → c.kind = Kind.data ∧ c.perm.getLsbD 7 = true ∧ n = 128 ∧ c.cur % 128 = 0)) ∧
        ((r lk).2 = true → x.base = ((c.cur + 2 ^ e - 1) / 2 ^ e * 2 ^ e : Nat) ∧ x.top = ((c.cur + n) / 2 ^ e * 2 ^ e : Nat) ∧
          (x.cur : Int) = x.base ∧ x.exp = e ∧ x.perm = c.perm ∧ x.colour = c.colour ∧
          x.kind = if f.mod.getLsbD 1 then Kind.cmd else c.kind)

/-- R86, R87: derivation never widens. Of a well-formed source, what CSETB, a cursor change or CANDP gives with its tag set lies
within the source's bounds, holds no permission that the source does not, and has its colour; a cursor change keeps base and
top exactly. -/
def Obligations.DerivationNarrows : Prop :=
  (∀ (q : Quad) n exact cmd r, (Cap.ofQuad q).wf = true → csetb (Cap.ofQuad q) true n exact cmd = (r, true) → n < 2 ^ 64 →
    (Cap.ofQuad q).base ≤ (Cap.ofQuad r).base ∧ (Cap.ofQuad r).top ≤ (Cap.ofQuad q).top ∧
    (Cap.ofQuad r).perm = (Cap.ofQuad q).perm ∧ (Cap.ofQuad r).colour = (Cap.ofQuad q).colour) ∧
  (∀ (q : Quad) n r, (Cap.ofQuad q).wf = true → (Cap.ofQuad q).setCursor n = (r, true) →
    (Cap.ofQuad r).base = (Cap.ofQuad q).base ∧ (Cap.ofQuad r).top = (Cap.ofQuad q).top ∧
    ((Cap.ofQuad r).cur : Int) = n ∧ (Cap.ofQuad r).perm = (Cap.ofQuad q).perm ∧ (Cap.ofQuad r).kind = (Cap.ofQuad q).kind ∧
    (Cap.ofQuad r).colour = (Cap.ofQuad q).colour) ∧
  (∀ (q : Quad) (m : BitVec 12),
    let x := Cap.ofQuad ({ Cap.ofQuad q with perm := (Cap.ofQuad q).perm &&& m } : Cap).toQuad
    x.base = (Cap.ofQuad q).base ∧ x.top = (Cap.ofQuad q).top ∧ x.perm = (Cap.ofQuad q).perm &&& m ∧
    x.kind = (Cap.ofQuad q).kind ∧ x.colour = (Cap.ofQuad q).colour)

/-- R103, R104: CPSEAL of a capability that passes its checks gives the blob under the pair's current key, and counts the seal;
CPOPEN of a blob made under a header with a known key gives the REMOTE capability that the table of R104 makes of it. (That CPOPEN
of a blob from a peer without a key entry knows key ID 0, where the issuer is a parish index other than this device's, is the model's
choice, log entry 25.) -/
def Obligations.SealAndOpen : Prop :=
  (∀ (key : BitVec 256) (h : DWord) (c : Quad),
    (sealBlob key h c).extractLsb' 192 64 = h ∧ openBlob key (sealBlob key h c) = some c) ∧
  (∀ f s, s.Clear (.cpseal f) → (∀ lk ∈ s.acting (.cpseal f), ∃ v, cpsealLane f s lk = .ok v) →
    GivesFrom (.cpseal f) s ((s.counted (.cpseal f)).countSeals f (s.acting (.cpseal f))) fun lk =>
      let b := (s.reg1 lk f.b).toNat
      let id := match ((s.counted (.cpseal f)).countSeals f (s.acting (.cpseal f))).keys.get? b with
        | some k => k.cur.getD 0 | none => 0
      put f.d 8 (sealBlob (Config.sealKey b id) (blobHeader s.parish b id (s.reg1 lk f.c).toNat) (s.quad lk f.a).1).toNat) ∧
  (∀ f s (issuer id grant : Nat) (c : Nat → Quad), s.Clear (.cpopen f) → issuer < 1024 → id < 4096 → grant < 4096 →
    s.parish < 1024 →
    (match s.keys.get? issuer with
      | some k => k.cur = some id ∨ k.prev = some id
      | none => id = 0 ∧ issuer < 640 ∧ issuer ≠ s.parish) →
    (∀ lk ∈ s.acting (.cpopen f), (Cap.ofQuad (c lk)).colour = s.laneColour lk ∧
      s.quadBits lk f.a 1 ++ s.quadBits lk f.a 0 =
        sealBlob (Config.sealKey issuer id) (blobHeader issuer s.parish id grant) (c lk)) →
    Gives (.cpopen f) s fun lk => putQuad f.d
      ({ Cap.ofQuad (c lk) with
          colour := grant
          perm := (Cap.ofQuad (c lk)).perm &&& (Perm.ld ||| Perm.st ||| Perm.glob ||| Perm.atom ||| Perm.cache)
          kind := Kind.remote
          cur := issuer * 2 ^ 54 ||| (Cap.ofQuad (c lk)).cur } : Cap).toQuad true)

/-- R89: the access check passes when and only when the capability is tagged, well formed, of an accepted kind, of the context's
colour where that is compared, holds the permissions, and the range lies within its bounds, exactly. -/
def Obligations.AccessCheck : Prop :=
  ∀ tag (c : Cap) colour acc perm (a : Int) size,
    checkCode tag c colour acc perm a size = none ↔
      tag = true ∧ c.wf = true ∧ c.kind ∈ acc ∧ (c.kind = Kind.remote ∨ colour = 0 ∨ c.colour = colour) ∧
      (∀ k, perm.getLsbD k = true → c.perm.getLsbD k = true) ∧ c.base ≤ a ∧ a + size ≤ c.top

/-! ## Memory instructions (R226, R227, R235 to R242, R251 to R263, R211) -/

/-- The instructions that move data between registers and memory through a capability, with their fields and the plan of a
lane: its checked accesses, and the fault it takes instead. -/
def Sys2Proof.Claims.memPlan : Instr → Option (FmtM × (State → Nat → Plan))
  | .ld f => some (f, ldPlan f)
  | .st f => some (f, stPlan f)
  | .ldc f => some (f, ldcPlan f)
  | .stc f => some (f, stcPlan f)
  | .ldm f => some (f, ldmPlan f)
  | .stm f => some (f, stmPlan f)
  | .spillMemory f => some (f, spillPlan f)
  | .fillMemory f => some (f, fillPlan f)
  | .atom f => some (f, atomPlan f)
  | .acas f => some (f, acasPlan f)
  | .cdlg f => some (f, cdlgPlan f)
  | _ => none

/-- R105, R211, R252 to R257: a memory instruction whose accesses pass every lane's checks gives a next state, wherever its
bytes lie and whatever each access waits for: its lanes stand behind it, and of registers nothing is written but those of its
destination field. (An acquire may then find a poisoned granule and fault: PadAccesses has its form.) -/
def Obligations.MemoryInstructionsRun : Prop :=
  ∀ i f plan s, Sys2Proof.Claims.memPlan i = some (f, plan) → s.Clear i →
    (∀ lk ∈ s.acting i, (plan (s.counted i) lk).fault = none ∧ ∀ x ∈ (plan (s.counted i) lk).accs,
      x.1.acquires = false) →
    ∃ s1 ws, GivesFrom i s s1 ws ∧ SameThreads s s1 ∧ ∀ lk ∈ s.acting i, ∀ w ∈ ws lk, ∃ k,
      (∃ v, w = .rw (.reg f.d k v)) ∨ (∃ v b, w = .rw (.quad f.d k v b)) ∨ w = .rw (.bad f.d k)

/-- R105, R211, R240, R255, R260, R261: what accesses to local memory read and write through L1. A plain LD that L1 holds gives D the
bytes there and changes neither memory nor L1; one that it does not hold waits for its home, and what is then read is the bytes that
L1 holds dirty over those of memory. A plain ST writes its bytes into the line in L1, dirty and untagged, and, where L1 holds the
line, changes nothing else of L1 and nothing of memory. LDM, STM, SPILL, FILL and CDLG are such accesses of 16 bytes: granule by
granule in rising order of the registers from the one at which they resume, each at its address. -/
def Sys2Proof.Claims.localAccesses : Prop :=
  let local_ := fun (s : State) (l : Nat) (f : FmtM) (x n : Nat) (st : Bool) =>
    (∀ j < n, regionOf (x + j) = .local ∧ ∃ q nc, gate s.frames s.spares (s.laneColour l) (x + j) st = .go q nc) ∧
    (Cap.ofQuad (s.quad l f.q).1).kind ≠ Kind.remote ∧ (Cap.ofQuad (s.quad l f.q).1).has Perm.cache = true ∧ f.cl ≠ 3 ∧
    f.ord = 0 ∧ s.NumbersUsed ∧ ∀ p ∈ s.outst, p.2.team ≠ s.laneTeam l
  let unit := fun (s : State) (l : Nat) => s.unitOf (s.laneCtx l) s.cur.core
  let sector := fun (s t : State) (l a : Nat) => t.sectorAt (unit s l) (s.laneCtx l) (a / 16)
  let held := fun (s : State) (l a : Nat) => (sector s s l a).valid = true ∨ (sector s s l a).dirty.getLsbD (a % 16) = true
  let byteOf := fun (x : Sector) (a : Nat) => x.data.extractLsb' (8 * (a % 16)) 8
  (∀ f s l x,
    let n := tySize f.ty.toNat
    let v := bytesNat ((List.range n).map fun j => byteOf (sector s s l (x + j)) (x + j))
    s.Clear (.ld f) → s.acting (.ld f) = [l] → local_ s l f x n false →
    s.accPre (s.laneColour l) (s.quad l f.q) accData Perm.ld (s.memAddr l f n) n (min n 16) false = .ok x →
    (∀ j < n, held s l (x + j) ∧ s.sectorBad (unit s l) (s.laneCtx l) ((x + j) / 16) = false) →
    ∃ s1, GivesFrom (.ld f) s s1 (fun _ => put f.d (max 1 (n / 4))
        (if f.ty = 1 then (toSigned 8 v % 2 ^ 32).toNat else if f.ty = 3 then (toSigned 16 v % 2 ^ 32).toNat else v)) ∧
      SameThreads s s1 ∧ s1.mem = s.mem ∧ s1.tags = s.tags ∧ s1.l1 = s.l1) ∧
  (∀ f s l x,
    let n := tySize f.ty.toNat
    s.Clear (.ld f) → s.acting (.ld f) = [l] → local_ s l f x n false → n ≤ 16 →
    s.accPre (s.laneColour l) (s.quad l f.q) accData Perm.ld (s.memAddr l f n) n n false = .ok x →
    (∃ j < n, ¬ held s l (x + j)) →
    ∃ s1, GivesFrom (.ld f) s s1 (fun _ => []) ∧ SameThreads s s1 ∧ ∃ m y, s1.outst.get? m = some y ∧ y.kind = .load ∧
      (y.place = .home ∨ y.place = .port) ∧ y.team = s.laneTeam l ∧ y.tid = (s.lane l).tid ∧ y.addr = x ∧ y.size = n ∧
      y.ty = f.ty.toNat ∧ (f.d.toNat < 0x140 → y.d = some f.d)) ∧
  (∀ (s : State) u x, x.kind = .load → x.addr % 16 + x.size ≤ 16 → ∀ j < x.size,
    let sec := s.sectorAt u x.ctx (x.addr / 16)
    let o := x.addr % 16 + j
    (s.performL1 u x).2.val.extractLsb' (8 * j) 8 =
      (if sec.valid = true ∨ sec.dirty.getLsbD o = true then sec.data else s.granData (s.homeAddr (x.addr / 16 * 16))).extractLsb'
        (8 * o) 8) ∧
  (∀ f s l x,
    let n := tySize f.ty.toNat
    let kept := ∀ j < n, (s.lineAt (unit s l) (s.laneCtx l) ((x + j) / 128)).isSome = true
    s.Clear (.st f) → s.acting (.st f) = [l] → local_ s l f x n true → n ≤ 16 ∨ kept →
    s.accPre (s.laneColour l) (s.quad l f.q) accData Perm.st (s.memAddr l f n) n (min n 16) true = .ok x →
    ∃ s1, GivesFrom (.st f) s s1 (fun _ => []) ∧ SameThreads s s1 ∧
      (∀ j < n, (sector s s1 l (x + j)).dirty.getLsbD ((x + j) % 16) = true ∧ (sector s s1 l (x + j)).tag = false ∧
        byteOf (sector s s1 l (x + j)) (x + j) = s.regByte l f.d j) ∧
      (kept → s1.mem = s.mem ∧ s1.tags = s.tags ∧ ∀ u c g, (∀ j < n, ¬ (u = unit s l ∧ c = s.laneCtx l ∧ g = (x + j) / 16)) →
        s1.sectorAt u c g = s.sectorAt u c g)) ∧
  (let parts := fun (p : Plan) => p.accs.map fun y => (y.1.kind, y.1.addr, y.1.size, y.1.ord)
   let from_ := fun (s : State) (l n x : Nat) (k : AccKind) => (granulesLeft (s.resumed l) n).map fun g => (k, x + 16 * g, 16, 0)
   let here := fun (s : State) (l : Nat) (f : FmtM) => (Cap.ofQuad (s.quad l f.q).1).kind ≠ Kind.remote
   let pre := fun (s : State) (l : Nat) (f : FmtM) acc perm n st x =>
     s.accPre (s.laneColour l) (s.quad l f.q) acc perm (s.memAddr l f 16) n 16 st = .ok x
   (∀ f s l x, let n := 4 * (countBits f + 1)
     here s l f → pre s l f accData Perm.ld (4 * n) false x → (ldmPlan f s l).fault = none →
     parts (ldmPlan f s l) = from_ s l n x .load ∧
       (ldmPlan f s l).accs.map (fun y => (y.1.d, y.1.dk)) = (granulesLeft (s.resumed l) n).map fun g => (some f.d, 4 * g)) ∧
   (∀ f s l x, let n := 4 * (countBits f + 1)
     here s l f → pre s l f accData Perm.st (4 * n) true x → (stmPlan f s l).fault = none →
     parts (stmPlan f s l) = from_ s l n x .store ∧
       (stmPlan f s l).accs.map (fun y => (y.1.val, y.1.tag)) =
         (granulesLeft (s.resumed l) n).map fun g => (s.storeVal l f.d (4 * g) 16, false)) ∧
   (∀ f s l x, let n := 8 * (countBits f + 1)
     pre s l f accLocal Perm.st (4 * n) true x → (spillPlan f s l).fault = none →
     parts (spillPlan f s l) = from_ s l n x .store ∧
       (spillPlan f s l).accs.map (fun y => (y.1.val, y.1.tag)) =
         (granulesLeft (s.resumed l) n).map fun g => (s.storeVal l f.d (4 * g) 16,
           s.filtered (s.quadBits l f.d g) ((Cap.ofQuad (s.quad l f.q).1).has Perm.stc && s.quadTag l f.d g))) ∧
   (∀ f s l x, let n := 8 * (countBits f + 1)
     pre s l f accLocal Perm.ld (4 * n) false x → (fillPlan f s l).fault = none →
     parts (fillPlan f s l) = from_ s l n x .load ∧
       (fillPlan f s l).accs.map (fun y => (y.1.d, y.1.dk, y.1.caps, y.1.ldc)) =
         (granulesLeft (s.resumed l) n).map fun g => (some f.d, 4 * g, true, (Cap.ofQuad (s.quad l f.q).1).has Perm.ldc)) ∧
   (∀ f s l x q, pre s l f [Kind.cmd] Perm.dlg 16 true x → cdlgSource f s l x = .ok q → (cdlgPlan f s l).fault = none →
     parts (cdlgPlan f s l) = [(.store, x, 16, 0)] ∧
       (cdlgPlan f s l).accs.map (fun y => (y.1.val, y.1.tag)) = [(q, s.filtered q true)] ∧
       q = ({ Cap.ofQuad (s.quad l f.d).1 with
         perm := (Cap.ofQuad (s.quad l f.d).1).perm &&& ~~~Perm.dlg } : Cap).toQuad))

/-- R105, R109, R211, R253 to R257: what one lane's access to a pad reads and writes. LD and LDM give D the bytes of memory, LD
extended as its type says; ST and STM store the low bytes of D and leave every other byte, and of several lanes that store to one
byte the highest is the one that it keeps; ATOM and ACAS give D the old value and store the new one; LDC, STC, FILL, SPILL and CDLG
move quads with their tags. Registers other than D and every other thread are unchanged. -/
def Obligations.PadAccesses : Prop :=
  Sys2Proof.Claims.localAccesses ∧
  let ready := fun (i : Instr) (s : State) (l x n : Nat) => s.Clear i ∧ s.acting i = [l] ∧ s.inPad l x n ∧
    (∀ j < n, s.granPoison (x + j) = false) ∧ (s.lane l).fenced = false ∧ s.NumbersUsed ∧
    ∀ p ∈ s.outst, p.2.peer = none → regionOf p.2.addr ≠ .pad
  let checked := fun (s : State) (l : Nat) (f : FmtM) acc perm (a : Int) (n al : Nat) (st : Bool) (x : Nat) =>
    s.accPre (s.laneColour l) (s.quad l f.q) acc perm a n al st = .ok x
  let stored := fun (s t : State) (x n : Nat) (b : Nat → Byte) =>
    ∀ a, t.mem.byte a = if x ≤ a ∧ a < x + n then b (a - x) else s.mem.byte a
  (∀ f s l x,
    let n := tySize f.ty.toNat
    ready (.ld f) s l x n → checked s l f accData Perm.ld (s.memAddr l f n) n (min n 16) false x →
    ∃ s1, GivesFrom (.ld f) s s1 (fun _ => put f.d (max 1 (n / 4))
        (if f.ty = 1 then (toSigned 8 (s.mem.nat x n) % 2 ^ 32).toNat
         else if f.ty = 3 then (toSigned 16 (s.mem.nat x n) % 2 ^ 32).toNat else s.mem.nat x n)) ∧
      SameThreads s s1 ∧ s1.mem = s.mem ∧ s1.tags = s.tags) ∧
  (∀ f s l x,
    let n := tySize f.ty.toNat
    f.ord.toNat < 2 → ready (.st f) s l x n → checked s l f accData Perm.st (s.memAddr l f n) n (min n 16) true x →
    ∃ s1, GivesFrom (.st f) s s1 (fun _ => []) ∧ SameThreads s s1 ∧ stored s s1 x n (s.regByte l f.d) ∧
      ∀ j < n, s1.granTag (x + j) = false) ∧
  (∀ f s l x,
    let n := tySize f.ty.toNat
    f.ord = 1 → ready (.atom f) s l x n → checked s l f accData permAtom (s.atomAddr l f n) n n true x →
    ∃ s1, GivesFrom (.atom f) s s1 (fun _ => put f.d (n / 4) (s.mem.nat x n)) ∧ SameThreads s s1 ∧
      stored s s1 x n fun j => BitVec.ofNat 8
        (atomOp (f.off.toNat / 32) (8 * n) (s.mem.nat x n) (s.storeVal l f.x 0 n).toNat / 256 ^ j)) ∧
  (∀ f s l x,
    let n := tySize f.ty.toNat
    f.ord = 1 → ready (.acas f) s l x n → checked s l f accData permAtom (s.atomAddr l f n) n n true x →
    ∃ s1, GivesFrom (.acas f) s s1 (fun _ => put f.d (n / 4) (s.mem.nat x n)) ∧ SameThreads s s1 ∧
      stored s s1 x n (if s.mem.nat x n = (s.storeVal l f.d 0 n).toNat then s.regByte l f.x else fun j => s.mem.byte (x + j))) ∧
  (∀ f s l x, f.ord.toNat < 2 → ready (.ldc f) s l x 16 → checked s l f accLocal Perm.ld (s.memAddr l f 16) 16 16 false x →
    ∃ s1, GivesFrom (.ldc f) s s1 (fun _ => putQuad f.d (BitVec.ofNat 128 (s.mem.nat x 16))
        ((Cap.ofQuad (s.quad l f.q).1).has Perm.ldc && s.filtered (BitVec.ofNat 128 (s.mem.nat x 16)) (s.granTag x))) ∧
      SameThreads s s1 ∧ s1.mem = s.mem ∧ s1.tags = s.tags) ∧
  (∀ f s l x, f.ord.toNat < 2 → ready (.stc f) s l x 16 →
    checked s l f accLocal (Perm.st ||| Perm.stc) (s.memAddr l f 16) 16 16 true x →
    s.capLocal (s.laneTeam l) (s.quad l f.d).1 (s.quad l f.d).2 x = none →
    ∃ s1, GivesFrom (.stc f) s s1 (fun _ => []) ∧ SameThreads s s1 ∧ stored s s1 x 16 (s.regByte l f.d) ∧
      s1.granTag x = s.filtered (s.quad l f.d).1 (s.quad l f.d).2) ∧
  (∀ f s (x : Nat → Nat),
    let n := tySize f.ty.toNat
    let ls := s.acting (.st f)
    f.ord.toNat < 2 → s.Clear (.st f) → s.NumbersUsed → (∀ p ∈ s.outst, p.2.peer = none → regionOf p.2.addr ≠ .pad) →
    (∀ lk ∈ ls, s.inPad lk (x lk) n ∧ (s.lane lk).fenced = false ∧
      checked s lk f accData Perm.st (s.memAddr lk f n) n (min n 16) true (x lk)) →
    ∃ s1, GivesFrom (.st f) s s1 (fun _ => []) ∧ SameThreads s s1 ∧
      ∀ a, s1.mem.byte a = match ls.reverse.find? (fun lk => decide (x lk ≤ a ∧ a < x lk + n)) with
        | some lk => s.regByte lk f.d (a - x lk)
        | none => s.mem.byte a) ∧
  (∀ f s l x, let n := 4 * (countBits f + 1)
    s.resumed l = 0 → ready (.ldm f) s l x (4 * n) → checked s l f accData Perm.ld (s.memAddr l f 16) (4 * n) 16 false x →
    ∃ s1, GivesFrom (.ldm f) s s1 (fun _ => put f.d n (s.mem.nat x (4 * n))) ∧ SameThreads s s1 ∧ s1.mem = s.mem ∧
      s1.tags = s.tags) ∧
  (∀ f s l x, let n := 4 * (countBits f + 1)
    s.resumed l = 0 → ready (.stm f) s l x (4 * n) → checked s l f accData Perm.st (s.memAddr l f 16) (4 * n) 16 true x →
    ∃ s1, GivesFrom (.stm f) s s1 (fun _ => []) ∧ SameThreads s s1 ∧ stored s s1 x (4 * n) (s.regByte l f.d) ∧
      ∀ j < 4 * n, s1.granTag (x + j) = false) ∧
  (∀ f s l x, let n := 8 * (countBits f + 1)
    let tag := fun g => (Cap.ofQuad (s.quad l f.q).1).has Perm.stc && s.quadTag l f.d g
    s.resumed l = 0 → ready (.spillMemory f) s l x (4 * n) → checked s l f accLocal Perm.st (s.memAddr l f 16) (4 * n) 16 true x →
    (∀ g < n / 4, s.capLocal (s.laneTeam l) (s.quadBits l f.d g) (tag g) (x + 16 * g) = none) →
    ∃ s1, GivesFrom (.spillMemory f) s s1 (fun _ => []) ∧ SameThreads s s1 ∧ stored s s1 x (4 * n) (s.regByte l f.d) ∧
      ∀ g < n / 4, s1.granTag (x + 16 * g) = s.filtered (s.quadBits l f.d g) (tag g)) ∧
  (∀ f s l x, let n := 8 * (countBits f + 1)
    s.resumed l = 0 → ready (.fillMemory f) s l x (4 * n) → checked s l f accLocal Perm.ld (s.memAddr l f 16) (4 * n) 16 false x →
    ∃ s1, GivesFrom (.fillMemory f) s s1 (fun _ => (List.range (n / 4)).map fun g =>
        let q := BitVec.ofNat 128 (s.mem.nat (x + 16 * g) 16)
        .rw (.quad f.d g q ((Cap.ofQuad (s.quad l f.q).1).has Perm.ldc && s.filtered q (s.granTag (x + 16 * g))))) ∧
      SameThreads s s1 ∧ s1.mem = s.mem ∧ s1.tags = s.tags) ∧
  (∀ f s l x q, ready (.cdlg f) s l x 16 → checked s l f [Kind.cmd] Perm.dlg (s.memAddr l f 16) 16 16 true x →
    cdlgSource f s l x = .ok q → s.capLocal (s.laneTeam l) (s.quad l f.d).1 true x = none →
    ∃ s1, GivesFrom (.cdlg f) s s1 (fun _ => []) ∧ SameThreads s s1 ∧
      stored s s1 x 16 (fun j => q.extractLsb' (8 * j) 8) ∧ s1.granTag x = s.filtered q true)

/-- R14, R89, R252, R364, R366: LD, ST, LDC, STC, ATOM and ACAS with an access that fails its checks take the first failure's fault,
and no byte of memory and no register changes. Where they pass, LD or ST of which any byte lies in a hole takes ADDRESS_HOLE,
whatever the frame state table says of the others. -/
def Obligations.RefusedAccesses : Prop :=
  let refused := fun (i : Instr) (s : State) (e : Flt) => ∀ l, s.acting i = [l] →
    Faults i s l e.code ∧ ∀ t, exec i s = .next t → (t.lane l).fault.info = e.info ∧ t.mem = s.mem ∧ t.tags = s.tags
  let fails := fun (i : Instr) (f : FmtM) acc perm (a : State → Nat → Int) (n al : Nat) (st : Bool) =>
    ∀ (s : State) e, s.Clear i → (∀ l ∈ s.acting i,
      s.accPre (s.laneColour l) (s.quad l f.q) acc perm (a s l) n al st = .error e) → refused i s e
  let n := fun (f : FmtM) => tySize f.ty.toNat
  (∀ f, fails (.ld f) f accData Perm.ld (fun s l => s.memAddr l f (n f)) (n f) (min (n f) 16) false) ∧
  (∀ f, fails (.st f) f accData Perm.st (fun s l => s.memAddr l f (n f)) (n f) (min (n f) 16) true) ∧
  (∀ f, fails (.ldc f) f accLocal Perm.ld (fun s l => s.memAddr l f 16) 16 16 false) ∧
  (∀ f, fails (.stc f) f accLocal (Perm.st ||| Perm.stc) (fun s l => s.memAddr l f 16) 16 16 true) ∧
  (∀ f, fails (.atom f) f accData permAtom (fun s l => s.atomAddr l f (n f)) (n f) (n f) true) ∧
  (∀ f, fails (.acas f) f accData permAtom (fun s l => s.atomAddr l f (n f)) (n f) (n f) true) ∧
  (let hole := fun (s : State) (l : Nat) (f : FmtM) perm st => ∃ x,
      s.accPre (s.laneColour l) (s.quad l f.q) accData perm (s.memAddr l f (n f)) (n f) (min (n f) 16) st = .ok x ∧
      (Cap.ofQuad (s.quad l f.q).1).kind ≠ Kind.remote ∧ ∃ j < n f, regionOf (x + j) = .hole
   (∀ f s l, s.Clear (.ld f) → s.acting (.ld f) = [l] → hole s l f Perm.ld false → Faults (.ld f) s l Code.addressHole) ∧
   (∀ f s l, s.Clear (.st f) → s.acting (.st f) = [l] → hole s l f Perm.st true → Faults (.st f) s l Code.addressHole))

/-- R237 to R242, R259, R262, R263, R267: FENCE, PREF, CCTL, ILINE and RETAIN give a next state in which no thread and no
register has changed but for RETAIN.set's status and FENCE's note. FENCE writes back and discards as its order and scope say, waits only where an
earlier access of its threads is outstanding, and notes in each acting lane whether a release below .clus is still to be carried
by a wider one; CCTL acts on each lane's checked line in lane order; ILINE drops the line from
the core's cache, or from those of the context; RETAIN.set reserves ways where they are free (0), after which the lines beyond the
ways that their class now has leave their sets, and else changes nothing (1). -/
def Obligations.CacheInstructions : Prop :=
  (∀ f s, s.Clear (.fence f) → ∃ s1, GivesFrom (.fence f) s s1 (fun _ => []) ∧ SameThreads s { s1 with lanes := s.lanes } ∧
    (∀ lk, s1.lane lk = if lk ∈ s.acting (.fence f) ∧ f.ord ≠ 2 then { s.lane lk with fenced := decide (f.scope.toNat < 2) }
      else s.lane lk) ∧
    (s.outst = [] → s.cmds = [] → s.acting (.fence f) ≠ [] →
      s1 = { (s.counted (.fence f)).fenceL1 (s.ctxOf s.cur.gkey) s.cur.core f.ord.toNat f.scope.toNat with
        lanes := s1.lanes })) ∧
  (∀ f s, s.Clear (.pref f) → ∃ s1, GivesFrom (.pref f) s s1 (fun _ => []) ∧ SameThreads s s1) ∧
  (let line := fun (i : Instr) (f : FmtM) (op : State → Nat → Nat → Nat → State) => ∀ s (x : Nat → Nat), s.Clear i →
      (∀ lk ∈ s.acting i, (s.counted i).lineCheck lk f accLocal Perm.ld = .ok (x lk)) →
      GivesInTurn i s (fun lk u =>
        if regionOf (x lk) = .local then op u (u.unitOf (s.laneCtx lk) s.cur.core) (s.laneCtx lk) (x lk / 128) else u) fun _ _ => []
   (∀ f, line (.cctlWb f) f State.flushKeep) ∧ (∀ f, line (.cctlInv f) f State.cctlInv) ∧
   (∀ f, line (.cctlWbinv f) f State.flushDrop)) ∧
  (∀ f s, s.Clear (.cctlWball f) → GivesOnce (.cctlWball f) s
    (fun l => (s.counted (.cctlWball f)).flushAll (s.unitOf (s.laneCtx l) s.cur.core) (s.laneCtx l)) fun _ => []) ∧
  (∀ f s (x : Nat → Nat), s.Clear (.iline f) →
    (∀ lk ∈ s.acting (.iline f), (s.counted (.iline f)).lineCheck lk f [Kind.data, Kind.code] 0 = .ok (x lk)) →
    ∃ s1, GivesFrom (.iline f) s s1 (fun _ => []) ∧ SameThreads s s1 ∧ s1.mem = s.mem ∧
      (f.ty = 0 → ∀ l, l ∈ s1.icache ↔ l ∈ s.icache ∧ ¬ (l.core = s.cur.core ∧ ∃ lk ∈ s.acting (.iline f), l.line = x lk / 128))) ∧
  (∀ f s l ls, s.Clear (.retainSet f) → s.acting (.retainSet f) = l :: ls →
    let c := Cap.ofQuad (s.quad l f.q).1
    let w := s.reg1 l f.d
    let cores := s.retainCores (s.laneCtx l) s.cur.core
    let full := ∃ k ∈ cores, s.waysOf k (s.laneCtx l) 0 <
      sumBy (fun j => if j = f.off.toNat % 4 then 0 else (s.span (s.laneCtx l) k j).ways) (List.range 4) +
        (w.extractLsb' 0 4).toNat + 1
    checkAccess (s.quad l f.q) (s.laneColour l) [Kind.data, Kind.pad] Perm.ld c.base c.len = none →
    (full → Gives (.retainSet f) s fun _ => put f.d 1 1) ∧
    (¬ full → GivesFrom (.retainSet f) s (((s.counted (.retainSet f)).putSpan (s.laneCtx l) (f.off.toNat % 4)
      ⟨c.base.toNat, c.top.toNat, (w.extractLsb' 0 4).toNat, (w.extractLsb' 4 3).toNat, 0⟩ cores).trimSets (s.laneCtx l) cores)
      fun _ => put f.d 1 0)) ∧
  (∀ f s, s.Clear (.retainClr f) → ∃ s1, GivesFrom (.retainClr f) s s1 (fun _ => []) ∧ SameThreads s s1 ∧ s1.mem = s.mem ∧
    ∀ l ls, s.acting (.retainClr f) = l :: ls → s1.span (s.laneCtx l) s.cur.core (f.off.toNat % 4) = ⟨0, 0, 0, 0, 0⟩)

/-- R240 to R242, R253, R365, R385, R418, R419: the events of memory. The data of a load that are due return from its home, or from
the host, which performs the access in host memory; an atomic access that is due is performed at its home slice; either is then
finished, which writes the registers of its thread and nothing else of any thread; the two halves of a 32-byte load are finished
together. An acquire that finds a poisoned granule stores nothing, and its lane takes POISON and gets no register. A promotion that an access waits for writes the
owner's bytes back and removes the record; the oldest notice is recorded; an access that the host has not answered for 12,500,000
cycles, or whose window has gone, is refused with DATA_LOST; and a FENCE that need wait no longer completes. -/
def Obligations.MemoryEvents : Prop :=
  (∀ n s x, s.outst.get? n = some x → x.place = .home → s.loadDue x = true →
    exec (.loadReturn n) s = .next ((s.homeNow x).1.finishAcc n x (s.homeNow x).2)) ∧
  (∀ n s x h, s.outst.get? n = some x → x.place = .host → x.passed = some (.host h) → x.team ≠ 0 →
    exec (.loadReturn n) s = .next ((s.performHost h x).1.finishAcc n x (s.performHost h x).2) ∧
    (s.performHost h x).2.val = BitVec.ofNat 128 (s.hostMem.nat h x.size) ∧
    ∀ a, x.kind = .store → (s.performHost h x).1.hostMem.byte a =
      if h ≤ a ∧ a < h + x.size then BitVec.ofNat 8 (x.val.toNat / 256 ^ (a - h)) else s.hostMem.byte a) ∧
  (∀ n s x h, s.outst.get? n = some x → x.place = .host → x.passed = some (.host h) → x.team = 0 →
    let data := natBytes x.size (s.hostMem.nat h x.size)
    let s0 : State := { s with outst := s.outst.erase n }
    (x.kind = .load → (s.heldReqs.get? x.batch).isSome = true →
      exec (.loadReturn n) s = .next (s0.answerHeld x.batch 0 0 data [] [])) ∧
    (x.kind = .load → s.heldReqs.get? x.batch = none →
      exec (.loadReturn n) s = .next (s0.engineAnswer x (answerParts x.addr data [] []))) ∧
    (∀ r, x.kind ≠ .load → s.heldReqs.get? x.batch = some r → exec (.loadReturn n) s =
      .next (({ s0 with hostMem := s.hostMem.setBytes h r.m.data }.bytesTaken x).answerHeld x.batch 0 0 [] [] [])) ∧
    (x.kind ≠ .load → s.heldReqs.get? x.batch = none → exec (.loadReturn n) s =
      .next ({ s0 with hostMem := s.hostMem.setBytes h x.payload }.bytesTaken x))) ∧
  (∀ n s x, s.outst.get? n = some x → x.place = .host → (∀ h, x.passed ≠ some (.host h)) →
    exec (.loadReturn n) s = .next (s.refuseRemote n x Code.dataLost Fst.absent)) ∧
  (∀ n s x, s.outst.get? n = some x → s.homeDue x = true →
    exec (.homeSliceAtomic n) s = .next ((s.homeNow x).1.finishAcc n x (s.homeNow x).2)) ∧
  (∀ (s : State) x, s.atHome x = true → regionOf x.addr = .local →
    (s.homeNow x).2 = (s.performAt (s.spareAddr x.home) x).2 ∧
      (s.homeNow x).1.mem = (s.performAt (s.spareAddr x.home) x).1.mem) ∧
  (∀ (s : State) p x, x.acquires = true → s.granPoison p = true → (s.performAt p x).1 = s ∧ (s.performAt p x).2.poison = true) ∧
  (∀ (s : State) n x v lk, x.team ≠ 0 → s.ofTree x = false → x.mate = false → s.findThread x.team x.tid = some lk →
    (s.lane lk).state = .active → x.acquires = true → v.poison = true →
    ((s.finishAcc n x v).lane lk).fault.code = Code.poison ∧ ((s.finishAcc n x v).lane lk).regs = (s.lane lk).regs ∧
      (s.finishAcc n x v).mem = s.mem ∧ (s.finishAcc n x v).outst = s.outst.erase n) ∧
  (∀ (s : State) n x v m y, x.team ≠ 0 → s.ofTree x = false → x.mate = true → s.mateOf n x = some (m, y) →
    (y.got = none → s.finishAcc n x v = { s with outst := s.outst.set n { x with place := .mate, got := some v } }) ∧
    ∀ w lk, y.got = some w → s.findThread x.team x.tid = some lk → (s.lane lk).state ≠ .exited → y.acquires = x.acquires →
      ¬ (x.acquires = true ∧ (v.poison = true ∨ w.poison = true)) →
      let t := s.finishAcc n x v
      t.outst = (s.outst.erase n).erase m ∧ t.mem = s.mem ∧ (∀ j, j ≠ lk → t.lane j = s.lane j) ∧
      t.lane lk = (if x.dk < y.dk then x.writes s v ++ y.writes s w else y.writes s w ++ x.writes s v).foldl Lane.put (s.lane lk)) ∧
  (∀ (s : State) n x v lk, x.team ≠ 0 → s.ofTree x = false → x.mate = false → s.findThread x.team x.tid = some lk →
    (s.lane lk).state ≠ .exited → ¬ (x.acquires = true ∧ v.poison = true) →
    let t := s.finishAcc n x v
    t.outst = s.outst.erase n ∧ t.lane lk = (x.writes s v).foldl Lane.put (s.lane lk) ∧ t.mem = s.mem ∧
    t.group (groupOf lk) = (x.writes s v).foldl Group.put (s.group (groupOf lk)) ∧
    (∀ g, g ≠ groupOf lk → t.group g = s.group g) ∧ (∀ j, j ≠ lk → t.lane j = s.lane j) ∧
    t = { s with outst := t.outst, lanes := t.lanes, groups := t.groups, l1 := t.l1 }) ∧
  (∀ g s r, s.recordOf g = some r → s.ackDue g = true → ∃ t, exec (.promotionAck g) s = .next t ∧ t.recordOf g = none ∧
    SameThreads s t ∧ t = { s.flushAll r.unit r.ctx with sync := t.sync }) ∧
  (∀ s r rest, s.notices = r :: rest → ∃ t, exec .syncNotice s = .next t ∧ t.notices = rest ∧ r ∈ t.sync ∧ SameThreads s t) ∧
  (∀ n s x, s.outst.get? n = some x → x.place = .host → x.since + 12500000 ≤ s.now → x.team ≠ 0 → x.peer = none → x.batch ≠ 0 →
    s.cmds.get? x.batch = none → s.ofTree x = false → x.mate = false → ∀ lk,
    s.findThread x.team x.tid = some lk → (s.lane lk).state ≠ .exited →
    ∃ t, exec (.hostAccessTimeout n) s = .next t ∧ t.outst = s.outst.erase n ∧ (t.lane lk).regs = (s.lane lk).regs ∧
      t.mem = s.mem ∧ t.hostMem = s.hostMem ∧ (∀ j, j ≠ lk → t.lane j = s.lane j) ∧
      ∃ aux, (t.lane lk).late = (s.lane lk).late ++ [⟨0x24, BitVec.ofNat 64 x.addr, aux⟩]) ∧
  (∀ n s x, s.fences.get? n = some x → s.fenceDue x = true → ∃ t, exec (.fenceComplete n) s = .next t ∧
    t.fences = s.fences.erase n ∧ SameThreads s t ∧
    t = ({ s with fences := s.fences.erase n } : State).fenceL1 x.ctx x.core x.ord x.scope)

/-- R126, R226, R227: WAITA. Where every acting lane passes its checks, each goes on with a word that meets its condition, or sleeps on
the word that it names, or takes POISON for one that is poisoned; a lane that fails its checks takes their fault. For one lane and a
word of its pad, the word read decides which. A sleeping lane whose word meets the condition wakes behind its WAITA with the word
(with a fault where it is poisoned); in a group that is held it keeps the wake for the end of the hold; lanes of one batch wake
together, each with what it has to write, and so do, at a flip of a barrier's phase, the lanes that sleep in BWAIT or BCLUST.wait on
it with a parity that the new phase differs from (R224). At its deadline a lane wakes with the word as it stands. A poll of a word of the host
observes it, a poll of a lender's word that the slice does not hold asks for it, and any other poll only notes its time. (That a word of
a lender is polled every 1,024 cycles, as R226 has it for one of the host, is the model's choice, log entry 24.) -/
def Obligations.WaitOnAddress : Prop :=
  (∀ f s (x : Nat → Nat) (g : Nat → GateRes), s.Clear (.waita f) →
    (∀ lk ∈ s.acting (.waita f), waitCheck f s lk = .ok (x lk, g lk)) → ∃ t, exec (.waita f) s = .next t ∧
      (∀ lk ∈ s.setLanes, lk ∉ s.acting (.waita f) → t.lane lk = s.behind (s.lane lk)) ∧
      (∀ lk, lk ∉ s.setLanes → t.lane lk = { s.lane lk with sleep := (t.lane lk).sleep }) ∧
      ∀ lk ∈ s.acting (.waita f),
        let w := waitWord f s lk (x lk) (decide ((s.acting (.waita f)).head? = some lk))
        (∃ v : AccVal, waitCond w.cond v.val.toNat w.cmp.toNat = true ∧
          t.lane lk = (w.writes v).foldl Lane.put (s.behind (s.lane lk))) ∨
        (∃ last, t.lane lk = s.putWr (s.behind (s.lane lk)) (.sleep (.waita { w with last := last }))) ∨
        ((t.lane lk).fault.code = Code.poison ∧ (t.lane lk).fault.pc = s.cur.pc ∧ (t.lane lk).regs = (s.lane lk).regs)) ∧
  (∀ f s l e, s.Clear (.waita f) → s.acting (.waita f) = [l] → waitCheck f s l = .error e → Faults (.waita f) s l e.code) ∧
  (∀ f s l x, s.Clear (.waita f) → s.acting (.waita f) = [l] →
    let n := if f.xo.getLsbD 2 then 8 else 4
    let v := s.mem.nat x n
    let b := if f.xo.getLsbD 2 then (s.pair l f.b).toNat else (s.reg1 l f.b).toNat
    waitCheck f (s.counted (.waita f)) l = .ok (x, .go x false) → s.inPad l x n → s.granPoison x = false →
    (waitCond (f.xo.toNat % 4) v b = true → ∃ s1, GivesFrom (.waita f) s s1 (fun _ => put f.d (n / 4) v) ∧
      SameThreads s s1 ∧ s1.mem = s.mem) ∧
    (waitCond (f.xo.toNat % 4) v b = false → ∃ s1 w, GivesFrom (.waita f) s s1 (fun _ => [.sleep (.waita w)]) ∧
      SameThreads s s1 ∧ s1.mem = s.mem ∧ w.addr = x ∧ w.cond = f.xo.toNat % 4 ∧ w.d = f.d ∧ w.cmp.toNat = b ∧
      w.deadline = if s.reg1 l f.c = 0 then none else some (s.now + (s.reg1 l f.c).toNat))) ∧
  (∀ lk s w v, s.wakeDue lk = true → (s.lane lk).sleep = some (.waita w) → (s.waitRead lk w).2 = some v →
    waitCond w.cond v.val.toNat w.cmp.toNat = true ∧
    (v.poison = false → s.held (groupOf lk) = false → ∃ t, exec (.laneWake lk) s = .next t ∧ Woke s t lk (w.writes v)) ∧
    (v.poison = false → s.held (groupOf lk) = true → ∃ t b, exec (.laneWake lk) s = .next t ∧
      t.lane lk = { s.lane lk with sleep := some (.due b (w.writes v)) } ∧ (∀ k, k ≠ lk → t.lane k = s.lane k) ∧
      t.groups = s.groups ∧ t.teams = s.teams) ∧
    (v.poison = true → ∃ t, exec (.laneWake lk) s = .next t ∧ (t.lane lk).fault.code = Code.poison ∧
      (t.lane lk).sleep = none ∧ (t.lane lk).regs = (s.lane lk).regs ∧
      (t.lane lk).fault.pc = ((s.lane lk).site.getD (s.site 0)).pc)) ∧
  (∀ lk s b, s.wakeDue lk = true → (∃ ws, (s.lane lk).sleep = some (.due b ws)) →
    let ws := fun k => match (s.lane k).sleep with | some (.due _ ws) => ws | _ => []
    ∃ t, exec (.laneWake lk) s = .next t ∧ lk ∈ s.batchOf lk b ∧
      (∀ k ∈ s.batchOf lk b, t.lane k = (ws k).foldl Lane.put (s.awake (s.lane k))) ∧
      t.group (groupOf lk) = ((s.batchOf lk b).flatMap ws).foldl Group.put (s.group (groupOf lk)) ∧
      (∀ k, k ∉ s.batchOf lk b → t.lane k = s.lane k) ∧ (∀ g, g ≠ groupOf lk → t.group g = s.group g) ∧
      t = { s with lanes := t.lanes, groups := t.groups }) ∧
  (∀ (s : State) loc tm f, let r : BarRes := f (Bar.ofQuad (s.barGet loc))
    r.ovf = false → (r.flip = false → (s.barUpdate loc tm f).lanes = s.lanes) ∧
    (r.flip = true → ∃ b, ∀ lk, (s.barUpdate loc tm f).lane lk =
      if lk ∈ (s.barTeams loc).flatMap s.teamLanes ∧ sleepsOn (s.lane lk) loc r.bar.phase = true
      then { s.lane lk with sleep := some (.due b []) } else s.lane lk)) ∧
  (∀ (l : Lane) tm i (phase p : Bool), l.sleep = some (.bwait i p) → (sleepsOn l (.team tm i) phase = true ↔ phase ≠ p)) ∧
  (∀ (l : Lane) c cl i (phase p : Bool), l.sleep = some (.bclust i p) → (sleepsOn l (.cluster c cl i) phase = true ↔ phase ≠ p)) ∧
  (∀ lk s w v, s.timeoutDue lk = true → (s.lane lk).sleep = some (.waita w) → (s.lastSeen lk w).2 = some v →
    ∃ t, exec (.waitaTimeout lk) s = .next t ∧ Woke s t lk (w.writes v)) ∧
  (∀ lk s w, s.pollDue lk = true → (s.lane lk).sleep = some (.waita w) → w.polled + 1024 ≤ s.now ∧
    ∃ t w1, exec (.waitaHostPoll lk) s = .next t ∧ t.lane lk = { s.lane lk with sleep := some (.waita w1) } ∧
      (∀ k, k ≠ lk → t.lane k = s.lane k) ∧ t.groups = s.groups ∧ t.teams = s.teams ∧ t.mem = s.mem ∧ t.hostMem = s.hostMem ∧
      (∀ h, s.gateOf (s.waitAcc lk w) = .host h → w1 = { w with polled := s.now, last := some (s.hostMem.nat h w.size) }) ∧
      ((∀ h, s.gateOf (s.waitAcc lk w) ≠ .host h) → w1 = { w with polled := s.now }) ∧
      (∀ p a, s.gateOf (s.waitAcc lk w) = .lender p a → s.sliceRead w.addr w.size = none → ∃ n y r, (n, y) ∈ t.outst ∧ y.addr = w.addr ∧ y.d = none ∧
        y.team = s.laneTeam lk ∧ y.tid = (s.lane lk).tid ∧ (y.place = .remote p r ∨ (n, y) ∈ s.outst)))

/-! ## The matrix engine (R269 to R288, R452) -/

/-- R271 to R277, R281, R285, R286, R288: the matrix instructions give a next state. TIDSET writes the team's entry with status
0, and with status 1 or 2 nothing; TIDGET reads it; WLOAD makes its slot LOADING and starts the read; WINV empties a slot; MPRED
writes and reads masks; TREELD starts its read, or answers 2 for more than 256 nodes; MQUANT writes the quantised elements and
the exponent; and the lanes of a set that sign MMA or MMAT first, whatever their guards, sleep until the round completes. -/
def Obligations.MatrixInstructions : Prop :=
  let entry := fun (s : State) (f : FmtT) (l : Nat) =>
    (⟨BitVec.ofNat 512 (s.regsNat l f.a 16), s.quadTag l f.a 0, true⟩ : TnEntry)
  (∀ f s l ls, s.Clear (.tidset f) → s.acting (.tidset f) = l :: ls →
    let e := entry s f l
    (s.tidStatus l e ≠ 0 → Gives (.tidset f) s fun _ => put f.d 1 (s.tidStatus l e)) ∧
    (s.tidStatus l e = 0 → GivesFrom (.tidset f) s ((s.counted (.tidset f)).modTeam (s.laneTeam l) fun m =>
        { m with tns := m.tns.set (f.mod.toNat % 64) { e with tag := s.filtered e.base.1 e.tag } }) fun _ => put f.d 1 0)) ∧
  (∀ f s, s.Clear (.tidget f) → Gives (.tidget f) s fun lk =>
    put f.d 16 (((s.team (s.laneTeam lk)).tns.getD (f.mod.toNat % 64) TnEntry.zero).bits).toNat) ∧
  (∀ f s l ls n a bytes, s.Clear (.wload f) → s.acting (.wload f) = l :: ls →
    wloadCheck f (s.counted (.wload f)) l = .ok (n, a, bytes) →
    ∃ s1, GivesFrom (.wload f) s s1 (fun _ => []) ∧ SameThreads s s1 ∧
      ((s1.ctx (s.laneCtx l)).slot s.cur.core n).state = .loading ∧
      ((s1.ctx (s.laneCtx l)).slot s.cur.core n).fmt = ((s.team (s.laneTeam l)).tn f.tid.toNat).fmt ∧
      ∃ k w, s1.wloads.get? k = some w ∧ w.core = s.cur.core ∧ w.slot = n ∧ w.addr = a ∧ w.bytes = bytes ∧ w.buf = []) ∧
  (∀ f s l ls, s.Clear (.winv f) → s.acting (.winv f) = l :: ls →
    let n := (f.mod.toNat % 256 + (s.reg1 l f.a).toNat % 256) % 256
    n < s.slotCount (s.laneCtx l) s.cur.core →
    GivesFrom (.winv f) s ((s.counted (.winv f)).setSlot (s.laneCtx l) s.cur.core n WSlot.zero) fun _ => []) ∧
  (∀ f s, s.Clear (.mpredSet f) → GivesOnce (.mpredSet f) s
    (fun l => (s.counted (.mpredSet f)).modCtx (s.laneCtx l) fun x =>
      let k := s.cur.core * 4 + f.mod.toNat % 4
      if f.mod.getLsbD 2 then { x with mcol := x.mcol.set k ((s.reg1 l f.a).setWidth 16) }
      else { x with mrow := x.mrow.set k (s.pair l f.a) }) fun _ => []) ∧
  (∀ f s, s.Clear (.mpredGet f) → Gives (.mpredGet f) s fun lk =>
    let x := s.ctx (s.laneCtx lk)
    if f.mod.getLsbD 2 then put f.d 1 (x.mcolAt s.cur.core (f.mod.toNat % 4)).toNat
    else put f.d 2 (x.mrowAt s.cur.core (f.mod.toNat % 4)).toNat) ∧
  (∀ f s l ls, s.Clear (.treeld f) → s.acting (.treeld f) = l :: ls → 256 < (s.reg1 l f.b).toNat →
    Gives (.treeld f) s fun _ => put f.d 1 2) ∧
  (∀ f s l ls, s.Clear (.treeld f) → s.acting (.treeld f) = l :: ls →
    let n := (s.reg1 l f.b).toNat
    n ≤ 256 → (treePlan f (s.counted (.treeld f)) l).fault = none →
    ∃ s1, GivesFrom (.treeld f) s s1 (fun _ => []) ∧ SameThreads s { s1 with teams := s.teams } ∧
      ∃ x, (s1.team (s.laneTeam l)).treePend = some x ∧ x.addr = (Cap.ofQuad (s.quad l f.a).1).cur ∧ x.n = n ∧ x.d = f.d ∧
        x.gkey = groupOf l ∧ x.acting = posOf l ∧ x.mask = lanesMask ((l :: ls).map posOf)) ∧
  (∀ f s, s.Clear (.mquant f) → ∃ v : Nat → Nat, Gives (.mquant f) s (fun lk => put f.d 17 (v lk)) ∧ ∀ lk,
    let t16 := !f.mod.getLsbD 0
    let n := if t16 then 32 else 64
    let x := fun k => f32.val (s.reg lk f.a k).toNat
    let e := if f.mod.getLsbD 1 then (s.reg1 lk f.b).toNat % 256
      else blockExp (if t16 then 31247 else 83) ((List.range n).map x)
    v lk / 2 ^ 512 = e ∧ ∀ k < n, elemU (if t16 then 16 else 8) (v lk) k = triOfF32 t16 0 e (x k)) ∧
  (let signs := fun (i : Instr) (f : FmtX) (tree : Bool) => ∀ s, s.decodeCheck i = none → s.setLanes ≠ [] →
      let r := s.cv (s.teamOf s.cur.gkey) f.bar.toNat
      r.state = .armed → r.owner = s.cur.gslot → (∀ l ∈ s.setLanes, r.set.getLsbD (posOf l) = true) →
      ∃ t, exec i s = .next t ∧ t.mem = s.mem ∧
        (∀ l ∈ s.setLanes, t.lane l = s.putWr (s.behind (s.lane l)) (.sleep (.cv f.bar.toNat))) ∧
        (∀ l, l ∉ s.setLanes → t.lane l = s.lane l) ∧
        (∀ g, g ≠ s.cur.gkey → t.group g = s.group g) ∧ t.mma = s.mma ∧
        let q := t.cv (s.teamOf s.cur.gkey) f.bar.toNat
        q.state = .signing ∧ q.signed = lanesMask (s.setLanes.map posOf) ∧
        q.guards = lanesMask ((s.setLanes.filter fun l => s.guard f.g l).map posOf) ∧ q.mma = some (f, tree) ∧
        q.addr = s.cur.pc ∧ (q.args.isSome = true ↔ q.signed = r.set ∨ r.args.isSome = true)
   (∀ f, signs (.mma f) f false) ∧ (∀ f, signs (.mmat f) f true))

/-- R275, R281, R282, R284, R285: a matrix round that is due. It is the first of its core's full rounds in matrix order, with the engine
free, its slot not LOADING and no TREELD before it under way. Without a live row it ends at once; where it passes the checks, the engine holds one result for
each live row and selected column; and where it fails them, every signer with a true guard takes ILLEGAL_OPERAND. In each case
the register's next round starts empty, and no register and no byte of memory changes. -/
def Sys2Proof.Claims.matrixRounds : Prop :=
  (∀ t n (s : State) a, s.roundDue t n = true → (s.cv t n).args = some a → s.mma.get? (s.team t).core = none ∧
    ((s.ctx (s.team t).ctx).slot (s.team t).core a.slot).state ≠ .loading ∧ a.treeBy = none ∧
    ∀ x ∈ s.fullRounds (s.team t).core, a.order ≤ x.1) ∧
  (∀ t n (s : State) a f tree, s.roundDue t n = true → (s.cv t n).args = some a → (s.cv t n).mma = some (f, tree) →
    let m := s.team t
    let r := s.cv t n
    let gk := m.core * 64 + r.owner
    let w := (s.ctx m.ctx).slot m.core a.slot
    let signers := (List.range 64).filter fun i => r.signed.getLsbD i && r.guards.getLsbD i
    let live := signers.filter fun i => a.mrow.getLsbD i
    let cols := (List.range 16).filter fun j => a.mcol.getLsbD j
    let closed := fun (u : State) => (u.cv t n).signed = 0 ∧ (u.cv t n).set = r.set ∧ (u.cv t n).args = none ∧
      (u.cv t n).mma = none ∧ ((u.cv t n).state = if r.set = 0 then .free else .armed) ∧ u.mem = s.mem ∧
      ∀ lk, (u.lane lk).regs = (s.lane lk).regs ∧ (u.lane lk).pc = (s.lane lk).pc
    let wakes := fun (u : State) => ∃ b,
      (∀ lk ∈ groupLanes gk, (s.lane lk).sleep = some (.cv n) → (∃ x, (s.lane lk).state = .asleep x) →
        u.lane lk = { s.lane lk with sleep := some (.due b []) }) ∧
      ∀ lk, ¬ (lk ∈ groupLanes gk ∧ (s.lane lk).sleep = some (.cv n)) → u.lane lk = s.lane lk
    (live = [] → ∃ u, exec (.mmaRoundComplete t n) s = .next u ∧ closed u ∧ wakes u ∧ u.mma = s.mma) ∧
    (live ≠ [] → s.mmaOk m gk f a = true → ∃ u, exec (.mmaRoundComplete t n) s = .next u ∧ closed u ∧ wakes u ∧
      u.mma.get? m.core = some ⟨m.ctx, live.flatMap fun i => cols.flatMap fun j =>
        mmaCell w (bytesNat w.image) (s.lane (gk * 64 + i)) f tree a (gk * 64 + i) i j⟩ ∧
      u = { s with lanes := u.lanes, teams := u.teams, mma := u.mma, fresh := u.fresh }) ∧
    (live ≠ [] → s.mmaOk m gk f a = false → ∃ u, exec (.mmaRoundComplete t n) s = .next u ∧
      (u.cv t n).signed = 0 ∧ (u.cv t n).args = none ∧ u.mem = s.mem ∧ u.mma = s.mma ∧
      (∀ lk, (u.lane lk).regs = (s.lane lk).regs) ∧
      ∀ i ∈ signers, (u.lane (gk * 64 + i)).fault.code = 0x02 ∧
        (u.lane (gk * 64 + i)).fault.pc = ((s.lane (gk * 64 + i)).site.getD (s.site 0)).pc))

/-- R274 to R276, R284, R286, R452: the events of the matrix engine. Its rounds are `matrixRounds`. When an occupancy ends, the results
are in their registers, poisoned or not, and no other register, tag or lane has changed. The last byte of an image makes its slot
READY with it, where no later load of the slot has begun, and arrives on the load's barrier; a refusal empties the slot and arrives
with ERR. A tree that R286 accepts takes effect with status 0; another answers 1 and leaves the table; nothing else changes. -/
def Obligations.MatrixEvents : Prop :=
  Sys2Proof.Claims.matrixRounds ∧
  (∀ core s r, s.mma.get? core = some r → (r.writes.map fun w => (w.1, w.2.1)).Nodup → ∃ t,
    exec (.mmaComplete core) s = .next t ∧ t.mma.get? core = none ∧ t.mem = s.mem ∧
    (∀ w ∈ r.writes, (t.lane w.1).regs.getD w.2.1 0 = w.2.2.1 ∧ (w.2.1 ∈ (t.lane w.1).poison ↔ w.2.2.2 = true)) ∧
    (∀ lk n, (∀ w ∈ r.writes, ¬ (w.1 = lk ∧ w.2.1 = n)) → (t.lane lk).regs.getD n 0 = (s.lane lk).regs.getD n 0 ∧
      (n ∈ (t.lane lk).poison ↔ n ∈ (s.lane lk).poison)) ∧
    (∀ lk, t.lane lk = { s.lane lk with regs := (t.lane lk).regs, tags := (t.lane lk).tags, poison := (t.lane lk).poison }) ∧
    (∀ lk q, (∀ w ∈ r.writes, ¬ (w.1 = lk ∧ w.2.1 / 4 = q)) → (q ∈ (t.lane lk).tags ↔ q ∈ (s.lane lk).tags)) ∧
    (∀ c, t.ctx c = { s.ctx c with counters := (t.ctx c).counters }) ∧
    t = { s with lanes := t.lanes, mma := t.mma, ctxs := t.ctxs }) ∧
  (let arrives := fun (s t : State) (w : WLoad) (err : Bool) =>
      ∀ b, w.bar = some b → t.barGet (.team w.team b) = (s.barUpdate (.team w.team b) w.team fun x =>
        ({ x with err := x.err || err } : Bar).engineArrive w.bytes).barGet (.team w.team b)
   (∀ n s w, s.wloads.get? n = some w → s.loadReady n w = true → ∃ t, exec (.wloadComplete n) s = .next t ∧
     t.wloads.get? n = none ∧ arrives s t w false ∧ t.mem = s.mem ∧
     (∀ k, k ≠ w.slot → (t.ctx w.ctx).slot w.core k = (s.ctx w.ctx).slot w.core k) ∧
     (s.laterLoad n w = true ∨ ((s.ctx w.ctx).slot w.core w.slot).state ≠ .loading →
       (t.ctx w.ctx).slot w.core w.slot = (s.ctx w.ctx).slot w.core w.slot) ∧
     (s.laterLoad n w = false → ((s.ctx w.ctx).slot w.core w.slot).state = .loading →
       ((t.ctx w.ctx).slot w.core w.slot).state = .ready ∧
       ((t.ctx w.ctx).slot w.core w.slot).fmt = ((s.ctx w.ctx).slot w.core w.slot).fmt ∧
       ((t.ctx w.ctx).slot w.core w.slot).image =
         piecesBytes (w.pieces.map (·.n)) (s.gather (s.loadEng n w) w.pieces).vals)) ∧
   (∀ n code addr bytes s w, s.wloads.get? n = some w → ∃ t, exec (.wloadRefused n code addr bytes) s = .next t ∧
     t.wloads.get? n = none ∧ arrives s t w true ∧ t.mem = s.mem ∧
     (s.laterLoad n w = false → (t.ctx w.ctx).slot w.core w.slot = WSlot.zero) ∧
     (s.laterLoad n w = true → (t.ctx w.ctx).slot w.core w.slot = (s.ctx w.ctx).slot w.core w.slot))) ∧
  (∀ (s : State) n y v p, y.team ≠ 0 → (s.team y.team).treePend = some p → y.batch = p.num →
    let t := s.finishAcc n y v
    t.outst = s.outst.erase n ∧ (t.team y.team).treePend = some { p with buf := p.buf.set y.dk v } ∧
    t = { s with outst := t.outst, teams := t.teams }) ∧
  (∀ tm s x, (s.team tm).treePend = some x → s.treeReady tm = true → (∃ v ∈ x.vals, v.poison = true) →
    ∃ t, exec (.treeldComplete tm) s = .next t ∧ t.mem = s.mem ∧ (t.team tm).treePend = none ∧ (t.team tm).tree = (s.team tm).tree ∧
      (∀ i ∈ maskLanes x.mask, (s.lane (x.gkey * 64 + i)).state ≠ .exited → x.d.toNat < 0x100 →
        x.d.toNat ∈ (t.lane (x.gkey * 64 + i)).poison ∧ ∀ k, k ≠ x.d.toNat →
          (t.lane (x.gkey * 64 + i)).regs.getD k 0 = (s.lane (x.gkey * 64 + i)).regs.getD k 0)) ∧
  (∀ tm s x, (s.team tm).treePend = some x → s.treeReady tm = true → (∀ v ∈ x.vals, v.poison = false) →
    let p := (piecesBytes x.sizes x.vals).map BitVec.toNat
    let ok := p = [] ∨ (p.getD 0 0 = 0xFF ∧ ∀ k < p.length, k = 0 ∨ p.getD k 0 < k)
    ∃ t, exec (.treeldComplete tm) s = .next t ∧ t.mem = s.mem ∧ (t.team tm).treePend = none ∧
      (t.team tm).tree = (if ok then p else (s.team tm).tree) ∧
      (∀ n a, (s.cv tm n).args = some a → (t.cv tm n).args =
        some (if a.treeBy.isSome then { a with tree := (t.team tm).tree, treeBy := none } else a)) ∧
      (∀ i ∈ maskLanes x.mask, (s.lane (x.gkey * 64 + i)).state ≠ .exited → x.d.toNat < 0x100 →
        t.lane (x.gkey * 64 + i) = (s.lane (x.gkey * 64 + i)).put (.reg x.d 0 (if ok then 0 else 1))) ∧
      (∀ lk, (∀ i ∈ maskLanes x.mask, lk ≠ x.gkey * 64 + i) → t.lane lk = s.lane lk) ∧
      t = { s with lanes := t.lanes, groups := t.groups, teams := t.teams })

/-- R78, R283: the S64 accumulator. Where no element of a residue sum is NaN and neither scale is, the new accumulator is the old one
plus the exact sum of the products, of which there are at most 128, the largest K of R278, if that fits; where an element is NaN, it
is the NaN marker −2^63. -/
def Obligations.ExactAccumulator : Prop :=
  ∀ fmt (ps : List (Nat × Nat)) sa sb c, c < 2 ^ 64 →
    let v := fun x => triVal (decide (fmt = Fmt.tri16)) x
    ((∃ p ∈ ps, v p.1 = none ∨ v p.2 = none) → mmaS64 fmt ps sa sb c = 2 ^ 63) ∧
    (∀ r, ps.length ≤ 128 → residueSum (decide (fmt = Fmt.tri16)) ps = some r →
      r = (ps.map fun p => (v p.1).getD 0 * (v p.2).getD 0).sum ∧
      (sa ≠ .nan → sb ≠ .nan → c ≠ 2 ^ 63 → -2 ^ 63 < toSigned 64 c + r → toSigned 64 c + r < 2 ^ 63 →
        toSigned 64 (mmaS64 fmt ps sa sb c) = toSigned 64 c + r))

/-! ## Copy and collective commands (R289 to R312) -/

/-- R300, R304, R308, R309: XPUB records its tile and arrives on the cluster barrier; XSIG arrives on, or credits, the barrier that its BARR capability names, after the
issuing core's dirty lines are written back and what they replace is dropped where the barrier's team runs; XSTAT gives the state,
code and bytes of the latest command of a block; XCANCEL ends the command of a block that has not ended, with status 0, and answers
1 where there is none to end and 2 for a collective that has joined. (The model's choices: that XSTAT reads the record of its own
core, and what else log entry 63 names; status 0 for a running collective that has not joined, log entry 102.) -/
def Sys2Proof.Claims.commandControl : Prop :=
  (∀ f s l ls, s.Clear (.xpub f) → s.acting (.xpub f) = l :: ls →
    let n := (s.reg1 l f.b).toNat
    let q := s.quad l f.a
    let p := Cap.ofQuad q.1
    let k := (s.cur.core / 8 * 4 + f.xo.toNat % 4) * 8 + s.cur.core % 8
    let loc := BarLoc.cluster (s.laneCtx l) (s.cur.core / 8) (f.xo.toNat % 4)
    n % 16 = 0 → 16 ≤ n → n ≤ 1048576 → (s.counted (.xpub f)).padTile l q n Perm.ld = none → p.cur % 16 = 0 →
    ∃ s1, GivesFrom (.xpub f) s s1 (fun _ => []) ∧
      (s1.ctx (s.laneCtx l)).pubs.get? k = some ⟨(p.cur - padBase) % 0x100000, n,
        (s.barGet loc).getLsbD 0, p.perm⟩ ∧ s1.barGet loc = (s.barUpdate loc (s.laneTeam l) Bar.threadArrive).barGet loc) ∧
  (∀ f s l ls t i, s.Clear (.xsig f) → s.acting (.xsig f) = l :: ls →
    let q := s.quad l f.a
    let a := (Cap.ofQuad q.1).cur
    checkAccess q (s.laneColour l) [Kind.barr] Perm.st a 16 = none → a % 16 = 0 → s.barrierAt a = some (t, i) →
    GivesFrom (.xsig f) s
      ((((s.counted (.xsig f)).flushAll (s.unitOf (s.laneCtx l) s.cur.core) (s.laneCtx l)).seenBy (.team t i) s.cur.core).barUpdate
        (.team t i) t fun b =>
        if f.xo.getLsbD 0 then b.credit (s.reg1 l f.b).toNat else b.signal (s.reg1 l f.b).toNat) fun _ => []) ∧
  (∀ f s l ls a, s.Clear (.xstat f) → s.acting (.xstat f) = l :: ls → blockCheck f 0 s l = .ok a →
    (s.blockCmd (s.laneCtx l) s.cur.core a = none → Gives (.xstat f) s fun _ => put f.d 2 0) ∧
    ∀ n c, s.blockCmd (s.laneCtx l) s.cur.core a = some (n, c) → ∃ v : DWord, Gives (.xstat f) s (fun _ => put f.d 2 v.toNat) ∧
      v.extractLsb' 32 32 = BitVec.ofNat 32 c.bytes ∧ v.extractLsb' 8 8 = c.code ∧ (v.extractLsb' 0 8).toNat =
        match c.state with
        | .queued => if (s.ctx c.ctx).state = .active then 1 else 3
        | .running => 2 | .done => 4 | .faulted => 5 | .cancelled => 6) ∧
  (∀ f s l ls a, s.Clear (.xcancel f) → s.acting (.xcancel f) = l :: ls → blockCheck f 0 s l = .ok a →
    (s.blockOwner a = none → Gives (.xcancel f) s fun _ => put f.d 1 1) ∧
    ∀ n c, s.blockOwner a = some (n, c) → c.unfinished = true ∧
      (c.joined = true → Gives (.xcancel f) s fun _ => put f.d 1 2) ∧
      (c.joined = false → GivesFrom (.xcancel f) s
        ((s.counted (.xcancel f)).stopCmd n ((s.counted (.xcancel f)).readBlock n c) .cancelled 0 0) fun _ => put f.d 1 0))

/-- R290, R297 to R299, R301 to R303, R307: an instruction whose operands pass its checks gives a next state, with no register or
thread changed but XRUN's status, and a QUEUED command that holds what the instruction names: the core, thread, byte count,
completion, and what is to be moved, through the filter of a pass that is under way (R123). Where no pass is, the filter changes
nothing. An XRUN of a block of which a command, of any context, has not ended answers 1. (The order of checks that the manual does not
order is the model's choice, log entry 58, and so are the readings of log entry 63.) -/
def Obligations.CommandsIssued : Prop :=
  Sys2Proof.Claims.commandControl ∧
  let queues := fun (i : Instr) (s : State) (l : Nat) (ws : List Wr) (op : Byte) (count : Nat) (block : Option ((Quad × Bool) × Nat))
      (body : CmdBody) (comp : Comp) =>
    ∃ s1 k, GivesFrom i s s1 (fun _ => ws) ∧ SameThreads s s1 ∧ s1.cmds.get? k = some (s.siftCmd
      { core := s.cur.core
        ctx := s.laneCtx l
        team := s.laneTeam l
        tid := (s.lane l).tid
        opcode := op
        opc := 0
        block := block
        body := body
        count := count
        comp := comp
        state := .queued
        code := 0
        failAddr := 0
        bytes := 0
        engine := 0
        moved := false
        joined := false
        buf := [] })
  let copies := fun (i : Instr) (f : FmtX) (op : Byte) (blocks : Bool) => ∀ s l ls e b comp, s.Clear i → s.acting i = l :: ls →
    let st := f.xo.getLsbD 0
    let q := s.quad l f.b
    let p := s.quad l f.d
    boxOf f s l = .ok (e, b) →
    (s.counted i).padTile l p (imageSize e.fmt b) (if st then Perm.ld else Perm.st) = none → (Cap.ofQuad p.1).cur % 16 = 0 →
    (blocks = true → checkAccess q (s.laneColour l) accData Perm.ld (Cap.ofQuad q.1).cur 16 = none ∧
      (Cap.ofQuad q.1).cur % 16 = 0) →
    compOf f f.c s l = .ok comp →
    queues i s l [] op (imageSize e.fmt b) none (.tcopy e b p st (if blocks then some q else none)) comp
  (∀ f, copies (.xcopy f) f 0xB0 false) ∧ (∀ f, copies (.xcopyp f) f 0xB1 true) ∧
  (∀ f s l ls e b comp, s.Clear (.xstore f) → s.acting (.xstore f) = l :: ls →
    let regs := rowBytes e.fmt b / 4
    boxOf f s l = .ok (e, b) → boxLen b 1 ≤ 64 → boxLen b 2 = 1 → boxLen b 3 = 1 → boxLen b 4 = 1 →
    f.d.toNat + regs ≤ s.allocation (groupOf l) → compOf f f.c s l = .ok comp →
    queues (.xstore f) s l [] 0xB2 (imageSize e.fmt b) none (.xstore e b
      (((l :: ls).filter fun lk => posOf lk < boxLen b 1).map fun lk =>
        (posOf lk, (List.range regs).map fun k => (s.reg lk f.d k, s.regsBad lk f.d k 1)))) comp) ∧
  (∀ f s l ls, s.Clear (.xbulk f) → s.acting (.xbulk f) = l :: ls →
    let n := (s.reg1 l f.b).toNat
    let q := s.quad l f.a
    n % 16 = 0 → 16 ≤ n → n ≤ 256 → f.d.toNat + n / 4 ≤ 0x140 → (Cap.ofQuad q.1).cur % 16 = 0 →
    checkAccess q (s.laneColour l) [Kind.remote] Perm.st (Cap.ofQuad q.1).cur n = none →
    (∀ k < n / 4, s.regsBad l f.d k 1 = false) →
    queues (.xbulk f) s l [] 0xB3 n none (.bulk q.1 (natBytes n (s.regsNat l f.d (n / 4))) f.bar.toNat) .none) ∧
  (∀ f s l ls, s.Clear (.xpull f) → s.acting (.xpull f) = l :: ls → (s.reg1 l f.b).toNat < 8 →
    (s.counted (.xpull f)).padTile l (s.quad l f.d) 0 Perm.st = none →
    queues (.xpull f) s l [] 0xB5 0 none (.pull (f.xo.toNat % 4) (s.reg1 l f.b).toNat (s.quad l f.d) none) (.barrier f.bar.toNat)) ∧
  (∀ f s l ls comp, s.Clear (.xfill f) → s.acting (.xfill f) = l :: ls →
    let n := (s.pair l f.b).toNat
    let q := s.quad l f.a
    n % 16 = 0 → 16 ≤ n → n ≤ 2 ^ 40 - 16 → (Cap.ofQuad q.1).cur % 16 = 0 →
    checkAccess q (s.laneColour l) accData Perm.st (Cap.ofQuad q.1).cur n = none → compOf f f.d s l = .ok comp →
    queues (.xfill f) s l [] 0xB7 n none (.fill q n (s.reg1 l f.c)) comp) ∧
  (∀ f s l ls a, s.Clear (.xrun f) → s.acting (.xrun f) = l :: ls → blockCheck f Perm.cmd s l = .ok a →
    ((∃ p ∈ s.cmds, p.2.unfinished = true ∧ ∃ q, p.2.block = some (q, a)) → Gives (.xrun f) s fun _ => put f.d 1 1) ∧
    ((¬ ∃ p ∈ s.cmds, p.2.unfinished = true ∧ ∃ q, p.2.block = some (q, a)) →
      queues (.xrun f) s l (put f.d 1 0) 0xB6 0 (some (s.quad l f.a, a)) .block .none)) ∧
  (∀ (s : State) c, s.pass = none → s.siftCmd c = c)

/-- R290, R291, R292, R352: a command whose payload has been moved and answered ends, and makes its completion: none; an arrival of
its byte count on a barrier of its team; or its value word in the team's pad. A value word that leaves the core puts its request to
the port first, and is stored when that has left. One that has been ended before its time and still owes its
completion makes it in error, with ERR on the barrier. Of memory only the barrier or the value word changes. A command that a status
record names is kept as DONE with its bytes. -/
def Sys2Proof.Claims.commandEnds : Prop :=
  let only := fun (s t : State) (tm i : Nat) => ∀ x, ¬ ((s.team tm).padAddr (16 * i) ≤ x ∧ x < (s.team tm).padAddr (16 * i) + 16) →
    t.mem.byte x = s.mem.byte x
  (∀ n s c, s.cmds.get? n = some c → s.cmdEndDue n c = true → c.comp = .none → ∃ t, exec (.engineCommandEnd n) s = .next t ∧
    SameThreads s t ∧ t.mem = s.mem ∧
    ((∃ r ∈ s.xrecs, r.cmd = n) → ∃ d, t.cmds.get? n = some d ∧ d.state = .done ∧ d.code = 0 ∧ d.bytes = c.count) ∧
    ((∀ r ∈ s.xrecs, r.cmd ≠ n) → t.cmds.get? n = none)) ∧
  (∀ n s c i, s.cmds.get? n = some c → s.cmdEndDue n c = true → c.state = .running → c.comp = .barrier i →
    ∃ t, exec (.engineCommandEnd n) s = .next t ∧ only s t c.team i ∧ t.barGet (.team c.team i) =
      (s.barUpdate (.team c.team i) c.team fun b => b.engineArrive c.count).barGet (.team c.team i)) ∧
  (∀ n s c off v, s.cmds.get? n = some c → s.cmdEndDue n c = true → c.state = .running → c.comp = .padWord off v →
    let a := (s.team c.team).padAddr off
    a % 4 = 0 → ∃ t, exec (.engineCommandEnd n) s = .next t ∧ t.lanes = s.lanes ∧ ∀ x, t.mem.byte x =
      if a ≤ x ∧ x < a + 4 then v.extractLsb' (8 * (x - a)) 8 else s.mem.byte x) ∧
  (∀ n s c q a v, s.cmds.get? n = some c → s.cmdEndDue n c = true → s.compAt (s.cmdEng n c) c = .ok (.cap q a v) →
    (∀ r, s.wordReq n c (.cap q a v) = some r → exec (.engineCommandEnd n) s = .next (s.enter r).1) ∧
    (s.wordReq n c (.cap q a v) = none → ∃ t, exec (.engineCommandEnd n) s = .next t ∧ t.mem =
      (s.engineWrite (s.cmdEng n c) q a 4 ((if c.state = .running then v else 0xFFFFFFFF).setWidth 128) false false).mem)) ∧
  (∀ n s c i, s.cmds.get? n = some c → s.cmdEndDue n c = true → c.state = .faulted ∨ c.state = .cancelled → c.comp = .barrier i →
    ∃ t, exec (.engineCommandEnd n) s = .next t ∧ only s t c.team i ∧ t.barGet (.team c.team i) =
      (s.barUpdate (.team c.team i) c.team fun b => ({ b with err := true } : Bar).engineArrive c.count).barGet (.team c.team i))

/-- R310: what ranks of other devices bring is kept with what has come before; the collective of a communicator runs once a part of every
rank is there, of which the first of each counts (log entry 93: the model's choice); where the ranks agree and the operation is
allowed, each joined command of this device then holds its rank's result, to be written to its destination. -/
def Sys2Proof.Claims.collectiveRuns : Prop :=
  (∀ n s c h src dst scales key data scl parts u, s.cmds.get? n = some c →
    c.body = .coll h src dst scales key data scl → c.joined = true →
    let s1 : State := { s with parts := s.parts ++ parts.map fun p => ⟨Hdr.comm h, key, p⟩ }
    (s1.runColl (Hdr.comm h) key = some u → exec (.collectiveRun n parts) s = .next u) ∧
    (s1.runColl (Hdr.comm h) key = none → exec (.collectiveRun n parts) s = .next s1)) ∧
  (∀ (s : State) comm key m, s.comms.get? comm = some m → m.ended = false →
    let mine := s.joinedRanks m comm key
    let far := s.farParts m comm key
    (∀ p ∈ far, ∃ x ∈ s.parts, x.comm = comm ∧ x.key = key ∧ x.part = p ∧ ∃ r, m.ranks[p.rank]? = some r ∧ r.1 ≠ s.parish) ∧
    (far.map (·.rank)).Nodup ∧ (mine.map fun p => p.2.rank).Nodup) ∧
  (∀ (s : State) comm key m, s.comms.get? comm = some m → m.ended = false →
    let mine := s.joinedRanks m comm key
    let far := s.farParts m comm key
    let xs := mine.map Prod.snd ++ far.map CollPart.toIn
    mine ≠ [] → (mine.map Prod.fst).Nodup → (∀ r < m.ranks.length, ∃ x ∈ xs, x.rank = r) →
    (∀ x ∈ xs, ∀ y ∈ xs, x.params = y.params) →
    (∀ p ∈ mine, ∃ d h src dst scales k data scl, s.cmds.get? p.1 = some d ∧ d.body = .coll h src dst scales k data scl ∧
      collOk h m.ranks.length = true) →
    ∃ u, s.runColl comm key = some u ∧ SameThreads s u ∧ u.mem = s.mem ∧
      ∀ p ∈ mine, ∀ d h src dst scales k data scl, s.cmds.get? p.1 = some d → d.body = .coll h src dst scales k data scl →
        ∃ e rest, u.cmds.get? p.1 = some e ∧ e.comp = d.comp ∧ e.count = d.count ∧
          e.body = .result dst (((Cap.ofQuad dst.1).cur, (collResult h xs p.2.rank m.ranks.length).1) :: rest))

/-- R245, R247, R290 to R293, R301, R305 to R307, R310: what commands do as they run. The oldest queued command of a core whose context
is ACTIVE starts: it is RUNNING with the body and the completion that its instruction gave it, or, for a block, once the block has
been read, with those that the block names; until then the requests for the block go out. A block's operation takes the step that
`cmdStep` gives it: its requests are admitted or sent, its payload begins, granules of the source are read, or one granule of the
destination is written, or it ends with an error; only a write changes memory, and as the moves that it names. A collective reads
its source in the same way, and then joins: it waits, and, where its communicator has ranks of other devices, what it brings is sent
there: over the links within the parish, and sealed to another parish (R420). XPULL reads its publisher's record. Ending is `commandEnds`, and collectives run as `collectiveRuns` says. -/
def Obligations.CommandsRun : Prop :=
  Sys2Proof.Claims.commandEnds ∧ Sys2Proof.Claims.collectiveRuns ∧
  (∀ (s : State) core n c, s.headCmd core = some (n, c) → (n, c) ∈ s.cmds ∧ c.core = core ∧
    (c.comp ≠ .unread → c.state = .queued ∧ (s.ctx c.ctx).state = .active ∧
      ∀ p ∈ s.cmds.takeWhile fun p => decide (p ≠ (n, c)), ¬ (p.2.core = core ∧ p.2.state = .queued ∧
        (s.ctx p.2.ctx).state = .active))) ∧
  (∀ core s n c, s.headCmd core = some (n, c) → c.block = none → c.body ≠ .block → c.comp ≠ .unread → ∃ t, exec (.engineCommandStart core) s = .next t ∧
    SameThreads s t ∧ t.mem = s.mem ∧ t = { s with cmds := t.cmds } ∧
    (∃ d, t.cmds.get? n = some d ∧ d = { c with state := .running, engine := d.engine }) ∧
    ∀ k, k ≠ n → t.cmds.get? k = s.cmds.get? k) ∧
  (∀ core s n c, s.headCmd core = some (n, c) →
    (∀ rs, s.startStep n c = some (.enter rs) → exec (.engineCommandStart core) s = .next (s.enterAll rs)) ∧
    (∀ asks, s.startStep n c = some (.ask asks) → exec (.engineCommandStart core) s =
      .next (asks.foldl (fun s p => s.sendEngine p.1 p.2) s)) ∧
    (s.startStep n c = some .go → exec (.engineCommandStart core) s = .next (s.startCmd n c))) ∧
  (∀ (s : State) n c, c.body = .block → c.comp ≠ .unread → (s.gather (s.cmdEng n c) c.blockPieces).bad = none →
    let gs := s.blockGrans n c
    let h := (gs.getD 0 (0, false)).1
    let r := s.parseBlock { c with state := .running, engine := Config.engineOf n % 8 } gs
    (∀ b, r.1 = .ok b → SameThreads s (s.startCmd n c) ∧ (s.startCmd n c).mem = s.mem ∧
      ∃ d, (s.startCmd n c).cmds.get? n = some d ∧ d.state = .running ∧ d.opc = Hdr.opc h ∧ d.count = r.2 ∧ d.body = b ∧
        d.comp = blockComp h (gs.getD 5 (0, false)))) ∧
  (let steps := fun (op : Nat → Instr) (opc : Nat) => ∀ n s c, s.cmds.get? n = some c → c.opcode = 0xB6 → c.opc = opc →
      (∀ h src dst scales key data scl, c.body ≠ .coll h src dst scales key data scl) →
      (∀ b, s.cmdStep n c = some (.stop b) → exec (op n) s = .next (s.failCmd n c b.1 b.2)) ∧
      (∀ rs, s.cmdStep n c = some (.enter rs) → exec (op n) s = .next (s.enterAll rs)) ∧
      (∀ asks, s.cmdStep n c = some (.ask asks) → exec (op n) s = .next (asks.foldl (fun s p => s.sendEngine p.1 p.2) s)) ∧
      (∀ ms, s.cmdStep n c = some (.start ms) → ∃ t d, exec (op n) s = .next t ∧ t.lanes = s.lanes ∧ t.mem = s.mem ∧
        t.cmds.get? n = some d ∧ d.body = .moving ms (c.caps ++ moveCaps ms) ∧ d.moved = (c.moved || ms.isEmpty)) ∧
      (∀ m ms caps, c.body = .moving (m :: ms) caps → c.state = .running → c.moved = false → s.readsOwed n = false →
        s.cmdStep n c = s.moveSome (s.cmdEng n c) (m :: ms))
   let moves := fun (op : Nat → Instr) (opc : Nat) => ∀ n s c ms caps, s.cmds.get? n = some c → c.opcode = 0xB6 → c.opc = opc →
      c.body = .moving ms caps → c.moved = false → c.state = .running → s.readsOwed n = false →
      (∀ vs, s.moveSome (s.cmdEng n c) ms = some (.got vs) → ∃ t d, exec (op n) s = .next t ∧ t.mem = s.mem ∧ t.lanes = s.lanes ∧
        t.cmds.get? n = some d ∧ d.buf = addRead c.buf vs ∧ d.body = c.body ∧ d.bytes = c.bytes) ∧
      (∀ ws, s.moveSome (s.cmdEng n c) ms = some (.write ws) →
        let u := (joinWrites (s.cmdEng n c) ws).foldl (fun u m => u.doMove (s.cmdEng n c) m (m.value (s.cmdEng n c))) s
        ∃ t d, exec (op n) s = .next t ∧ t.mem = u.mem ∧ t.lanes = s.lanes ∧ t.cmds.get? n = some d ∧ d.comp = c.comp ∧
          d.body = .moving (ms.filter fun m => !ws.contains m) caps ∧ (d.moved = true ↔ ∀ m ∈ ms, m ∈ ws) ∧
          d.bytes = min c.count (c.bytes + if u.writesOwed n = s.writesOwed n then coveredBytes ws else 0)) ∧
      (∀ b, s.moveSome (s.cmdEng n c) ms = some (.stop b) → exec (op n) s = .next (s.failCmd n c b.1 b.2))
   let runs := fun (op : Nat → Instr) (opc : Nat) => steps op opc ∧ moves op opc
   runs .cmdCopy 1 ∧ runs .cmdTcopy 2 ∧ runs .cmdTcopyp 3 ∧ runs .cmdFill 4 ∧ runs .cmdAllreduce 0x10 ∧
   runs .cmdReducescatter 0x11 ∧ runs .cmdAllgather 0x12 ∧ runs .cmdBroadcast 0x13) ∧
  (let joins := fun (op : Nat → Instr) (opc : Nat) => ∀ n s c h src dst scales key x y, s.cmds.get? n = some c →
      c.opcode = 0xB6 → c.opc = opc → c.body = .coll h src dst scales key x y →
      (∀ b, s.joinStep n c = some (.stop b) → exec (op n) s = .next (s.failCmd n c b.1 b.2)) ∧
      (∀ rs, s.joinStep n c = some (.enter rs) → exec (op n) s = .next (s.enterAll rs)) ∧
      (∀ asks, s.joinStep n c = some (.ask asks) → exec (op n) s = .next (asks.foldl (fun s p => s.sendEngine p.1 p.2) s)) ∧
      (∀ vs, s.joinStep n c = some (.got vs) → exec (op n) s =
        .next { s with cmds := s.cmds.set n { c with buf := addRead c.buf vs } }) ∧
      ∀ data scl m r, s.joinStep n c = some (.join data scl) → s.commOf c h = some (m, r) →
        (∃ k y, m.ranks[k]? = some y ∧ y.1 ≠ s.parish ∧ ∀ p ∈ s.farParts m (Hdr.comm h) key, p.rank ≠ k) →
        let part : CollPart :=
          ⟨r, Hdr.opc h, Hdr.rop h, Hdr.fmt h, Hdr.sfmt h, Hdr.ofmt h, Hdr.count h, Hdr.root h, data, scl⟩
        ∃ t, exec (op n) s = .next t ∧ SameThreads s t ∧ t.mem = s.mem ∧ t.cmds.get? n =
          some { c with joined := true, buf := [], body := .coll h src dst scales key data scl } ∧
          (∀ k, k ≠ n → t.cmds.get? k = s.cmds.get? k) ∧
          ∀ z ∈ m.ranks, z.1 ≠ s.parish → (z.1 < 1024 → t.told z.1 (.part part (Hdr.comm h) key)) ∧
            (1024 ≤ z.1 → ∃ id, Out.part part (Hdr.comm h) key (z.1 / 1024) (z.1 % 1024) id ∈ t.out)
   joins .cmdAllreduce 0x10 ∧ joins .cmdReducescatter 0x11 ∧ joins .cmdAllgather 0x12 ∧ joins .cmdBroadcast 0x13) ∧
  (∀ n s c cb src dest, s.cmds.get? n = some c → c.state = .running → c.body = .pull cb src dest none →
    (s.barGet (.cluster c.ctx (c.core / 8) cb)).getLsbD 0 ≠ (s.pubOf c cb src).phase →
    ∃ t d, exec (.xpullRecordRead n) s = .next t ∧ SameThreads s t ∧ t.mem = s.mem ∧ t.cmds.get? n = some d ∧
      t = { s with cmds := t.cmds } ∧
      d = { c with body := .pull cb src dest (some (s.pubOf c cb src)), count := (s.pubOf c cb src).len })

/-- R311: what a collective gives. An ALLGATHER's result is the ranks' data in rank order, and a BROADCAST's is the root's; the
ranks of a REDUCESCATTER get the parts of the reduction that an ALLREDUCE of the same elements gives whole. -/
def Obligations.CollectiveResults : Prop :=
  (∀ h (xs : List RankIn) r n, Hdr.opc h = 0x12 → xs.Pairwise (fun a b => a.rank < b.rank) →
    (collResult h xs r n).1 = xs.flatMap (·.data)) ∧
  (∀ h (xs : List RankIn) r n x, Hdr.opc h = 0x13 → xs.Pairwise (fun a b => a.rank < b.rank) → x ∈ xs →
    x.rank = Hdr.root h → (collResult h xs r n).1 = x.data) ∧
  (∀ h (xs : List RankIn) r n, Hdr.opc h = 0x11 → writesScales h = false → r < n → n ∣ Hdr.count h →
    ∀ h2, Hdr.opc h2 = 0x10 → Hdr.fmt h2 = Hdr.fmt h → Hdr.ofmt h2 = Hdr.ofmt h → Hdr.sfmt h2 = Hdr.sfmt h →
      Hdr.rop h2 = Hdr.rop h → Hdr.count h2 = Hdr.count h →
      (collResult h xs r n).1 = (((collResult h2 xs r n).1).drop (r * (Hdr.count h / n) * fmtSize (Hdr.ofmt h))).take
        (Hdr.count h / n * fmtSize (Hdr.ofmt h)))

/-! ## Messages between devices (R114, R302, R404, R412 to R417) -/

/-- R114, R302, R412, R413, R415 to R417: a message for another device is forwarded, one with a reserved code is discarded and
counted; a request that its grant does not enter is answered with REMOTE_GRANT and touches no memory; one seen before is answered
with the answer kept; a load, store or RMW that may go on is performed where the gate puts it, and answered, and changes no other
byte; one of a lease stores its tag too; a bulk packet is written to the pad, credited to the barrier that it names, and answered; a
good answer ends the access that it answers, whose thread gets its registers; a held request goes on when its counts have been
reached; a launch or control message acts once; and in RECOVERY nothing is heard (R421). (The model's choices: poison that travels
with data, log entry 51; that launch and control messages act once, log entry 95.) -/
def Obligations.RemoteMessages : Prop :=
  (∀ m s, s.deaf = false → exec (.remoteRequest m) s = .next (s.receive m) ∧ exec (.remoteAnswer m) s = .next (s.receive m) ∧
    exec (.xbulkPacket m) s = .next (s.receive m)) ∧
  (∀ m s, s.deaf = true → exec (.remoteRequest m) s = .next s ∧ exec (.remoteAnswer m) s = .next s ∧
    exec (.xbulkPacket m) s = .next s) ∧
  (∀ (s : State) m, m.dst ≠ s.parish → s.receive m = s.sendMsg m) ∧
  (∀ (s : State) m, m.dst = s.parish → 9 ≤ m.op ∨ m.rsvd ≠ 0 → s.receive m = { s with discarded := s.discarded + 1 }) ∧
  (∀ (s : State) m, m.dst = s.parish → m.rsvd = 0 → m.op = 7 ∨ m.op = 8 →
    ((∃ k ∈ s.kept, k.1 = m.src ∧ k.2.1 = m.rnum) → s.receive m = s) ∧
    ((∀ k ∈ s.kept, ¬ (k.1 = m.src ∧ k.2.1 = m.rnum)) → s.receive m =
      ({ s with kept := keepNewest m.src 65536 ((m.src, m.rnum, m) :: s.kept) } : State).takeBody m.src m.body)) ∧
  (let fresh := fun (s : State) (m : FabMsg) => m.dst = s.parish ∧ m.rsvd = 0 ∧ (∀ k ∈ s.kept, ¬ (k.1 = m.src ∧ k.2.1 = m.rnum)) ∧
      s.heldReqs = [] ∧ m.ofl = false
   (∀ (s : State) m, fresh s m → m.op < 5 → s.grantAdmits m = false → (s.receive m).mem = s.mem ∧
      SameThreads s (s.receive m) ∧ ∃ a, (m.src, m.rnum, a) ∈ (s.receive m).kept ∧ a.status = 0x23 ∧ a.dst = m.src ∧
        a.rnum = m.rnum) ∧
   (∀ (s : State) m p nc, fresh s m → m.op = 1 → m.ord = 0 → s.remoteTo m = .gate (.go p nc) →
      p % 16 + m.len ≤ 16 → m.data.length = m.len →
      SameThreads s (s.receive m) ∧ (∀ a, (s.receive m).mem.byte a =
        if p ≤ a ∧ a < p + m.len then m.data.getD (a - p) 0 else s.mem.byte a) ∧
      ∃ a, (m.src, m.rnum, a) ∈ (s.receive m).kept ∧ a.status = 0 ∧ a.dst = m.src) ∧
   (∀ (s : State) m p nc, fresh s m → m.op = 1 → s.sync = [] → s.notices = [] → s.remoteTo m = .gate (.go p nc) → 16 < m.len →
      m.data.length = m.len → SameThreads s (s.receive m) ∧ (∀ a, (s.receive m).mem.byte a =
        if p ≤ a ∧ a < p + m.len then m.data.getD (a - p) 0 else s.mem.byte a) ∧
      ∃ a, (m.src, m.rnum, a) ∈ (s.receive m).kept ∧ a.status = 0 ∧ a.dst = m.src) ∧
   (∀ (s : State) m p nc, fresh s m → m.op = 2 ∨ m.op = 3 → m.ord = 0 → s.remoteTo m = .gate (.go p nc) →
      let n := min 16 (if m.op = 3 then m.len / 2 else m.len)
      let old := BitVec.ofNat 128 (s.mem.nat p n)
      p % 16 + n ≤ 16 → ∃ w, (reqAcc m (s.fresh + 1) s.now).newValue old = w ∧ SameThreads s (s.receive m) ∧
        (∀ a, (s.receive m).mem.byte a = match w with
          | some w => if p ≤ a ∧ a < p + n then w.extractLsb' (8 * (a - p)) 8 else s.mem.byte a
          | none => s.mem.byte a) ∧
        ∃ a, (m.src, m.rnum, a) ∈ (s.receive m).kept ∧ a.status = 0 ∧ a.dst = m.src ∧ a.data = natBytes n old.toNat) ∧
   (∀ (s : State) m p nc, fresh s m → m.op = 6 → m.sub = 1 → m.ord = 0 → s.leaseTo m = .gate (.go p nc) → p % 16 = 0 →
      m.len = 16 → m.data.length = 16 → let v := BitVec.ofNat 128 (bytesNat m.data)
      SameThreads s (s.receive m) ∧ (s.receive m).granTag p = m.tags.headD false ∧ (∀ a, (s.receive m).mem.byte a =
        if p ≤ a ∧ a < p + 16 then v.extractLsb' (8 * (a - p)) 8 else s.mem.byte a) ∧
      ∃ a, (m.src, m.rnum, a) ∈ (s.receive m).kept ∧ a.status = 0 ∧ a.dst = m.src) ∧
   (∀ (s : State) m t, fresh s m → m.op = 4 → s.grantAdmits m = true → s.bulkTeam m = some t →
      let b := (s.team t).padAddr (16 * (m.bar % 16))
      (∀ a, ¬ (b ≤ a ∧ a < b + 16) → (s.receive m).mem.byte a = if m.addr.toNat ≤ a ∧ a < m.addr.toNat + m.data.length then
        m.data.getD (a - m.addr.toNat) 0 else s.mem.byte a) ∧
      (s.receive m).barGet (.team t (m.bar % 16)) =
        (s.barUpdate (.team t (m.bar % 16)) t fun b => b.credit m.data.length).barGet (.team t (m.bar % 16)) ∧
      ∃ a, (m.src, m.rnum, a) ∈ (s.receive m).kept ∧ a.status = 0 ∧ a.dst = m.src) ∧
   (∀ (s : State) m p nc, fresh s m → m.op = 0 → m.ord = 0 → s.remoteTo m = .gate (.go p nc) → p % 16 + m.len ≤ 16 →
      SameThreads s (s.receive m) ∧ (s.receive m).mem = s.mem ∧
      ∃ a, (m.src, m.rnum, a) ∈ (s.receive m).kept ∧ a.status = 0 ∧ a.dst = m.src ∧
        a.data = natBytes m.len (s.mem.nat p m.len))) ∧
  (∀ (s : State) m n x lk, m.dst = s.parish → m.rsvd = 0 → m.op = 5 → m.status = 0 → s.ofTree x = false → x.mate = false →
    s.outst.find? (fun p => p.2.place = .remote m.src m.rnum) = some (n, x) → x.team ≠ 0 → x.batch ≠ 0 → x.acquires = false →
    s.findThread x.team x.tid = some lk → (s.lane lk).state ≠ .exited → s.cmds.get? x.batch = none →
    let t := s.receive m
    let ws := x.writes s ⟨BitVec.ofNat 128 (bytesNat (m.data.take 16)), false, m.poison.headD false⟩
    t.outst = s.outst.erase n ∧ t.mem = s.mem ∧ t.lane lk = ws.foldl Lane.put (s.lane lk) ∧
      t.group (groupOf lk) = ws.foldl Group.put (s.group (groupOf lk)) ∧ (∀ k, k ≠ lk → t.lane k = s.lane k) ∧
      ∀ g, g ≠ groupOf lk → t.group g = s.group g) ∧
  (∀ (s : State) m k, m.dst = s.parish → m.rsvd = 0 → m.op < 5 → s.kept.find? (fun k => decide (k.1 = m.src ∧ k.2.1 = m.rnum)) = some k →
    s.receive m = s.sendMsg k.2.2) ∧
  (∀ n s h, s.heldReqs.get? n = some h → s.heldDue n h = true → exec (.oflRelease n) s = .next (s.serveReq n h.m)) ∧
  (∀ n (s : State) h, s.heldReqs.get? n = some h → h.m.ofl = true → s.heldDue n h = true → ∀ q < 4,
    ((s.counts.getD (h.m.src * 4 + q) ⟨0, []⟩).upTo + 2 ^ 32 - h.m.counts.getD q 0) % 2 ^ 32 < 2 ^ 31)

/-! ## Queues, services and register blocks (R203 to R214, R313 to R322, R375) -/

/-- The services of SVC (R375), with the number of each. -/
def Sys2Proof.Claims.svcOf : Instr → Option (Nat × FmtS)
  | .svcWalltime f => some (f.fn.toNat, f)
  | .svcQcreate f => some (0x10, f)
  | .svcQclose f => some (0x11, f)
  | .svcCommcreate f => some (0x20, f)
  | .svcCommend f => some (0x21, f)
  | .svcBarrmint f => some (0x30, f)
  | .svcGrantreq f => some (0x40, f)
  | _ => none

/-- R314, R316 to R321, R375: QPUT, QGET, QSTAT and EVGET give a next state with their status. A message enters an open queue with
room, behind those it holds; the oldest message leaves; a full or empty queue makes the .wait forms sleep and the others answer
1; a queue that is closed, or of a capability that names none, answers 2. A message that comes while a QGET sleeps goes to the
oldest such, and one that leaves lets the oldest sleeping QPUT's in: their lanes then have their results to wake with. An SVC sleeps
until the reeve answers, and wakes with the answer's registers. -/
def Obligations.QueuesAndServices : Prop :=
  let named := fun (s : State) (f : FmtT) (l : Nat) (perm : BitVec 12) (x : Option MsgQueue) =>
    let c := Cap.ofQuad (s.quad l f.a).1
    checkAccess (s.quad l f.a) (s.laneColour l) [Kind.queue] perm c.cur 0 = none ∧ s.queues.get? c.cur = x
  let dead := fun (x : Option MsgQueue) => ∀ y, x = some y → y.state = .free
  let key := fun (s : State) (f : FmtT) (l : Nat) => (Cap.ofQuad (s.quad l f.a).1).cur
  (∀ f s l ls x, s.Clear (.qput f) → s.acting (.qput f) = l :: ls → named s f l Perm.st x →
    (dead x → Gives (.qput f) s fun _ => put f.d 1 2) ∧
    ∀ y, x = some y →
      (y.state = .closed → Gives (.qput f) s fun _ => put f.d 1 2) ∧
      (y.state = .opened → y.msgs.length < y.depth → y.cons = [] → ∃ s1, GivesFrom (.qput f) s s1 (fun _ => put f.d 1 0) ∧
        SameThreads s s1 ∧ s1.queues.get? (key s f l) = some { y with
          msgs := y.msgs ++ [s.message l f.b ((Cap.ofQuad (s.quad l f.a).1).has Perm.stc)] }) ∧
      (y.state = .opened → y.msgs.length < y.depth → y.cons ≠ [] → GivesFrom (.qput f) s
        (((s.counted (.qput f)).releaseDev (s.laneCtx l) (groupOf l)).putMessage (key s f l) y
          (s.message l f.b ((Cap.ofQuad (s.quad l f.a).1).has Perm.stc))) fun _ => put f.d 1 0) ∧
      (y.state = .opened → y.depth ≤ y.msgs.length → f.mod.getLsbD 0 = false → Gives (.qput f) s fun _ => put f.d 1 1) ∧
      (y.state = .opened → y.depth ≤ y.msgs.length → f.mod.getLsbD 0 = true → ∃ s1,
        GivesFrom (.qput f) s s1 (fun _ => [.sleep (.queue (key s f l))]) ∧ SameThreads s s1 ∧
        ∃ w, s1.queues.get? (key s f l) = some { y with prod := y.prod ++ [w] })) ∧
  (∀ f s l ls x, s.Clear (.qget f) → s.acting (.qget f) = l :: ls → named s f l Perm.ld x →
    (dead x → Gives (.qget f) s fun _ => put f.d 1 2) ∧
    ∀ y, x = some y →
      (∀ m ms, y.state ≠ .free → y.msgs = m :: ms → y.prod = [] → ∃ s1, GivesFrom (.qget f) s s1 (fun _ =>
          ((List.range 4).map fun k => .rw (.quad f.b k (m.getD k (0, false)).1
            (s.filtered (m.getD k (0, false)).1 (m.getD k (0, false)).2 && (Cap.ofQuad (s.quad l f.a).1).has Perm.ldc))) ++
          put f.d 1 0) ∧
        SameThreads s s1 ∧ s1.mem = s.mem ∧ s1.queues.get? (key s f l) = some { y with msgs := ms }) ∧
      (∀ m ms, y.state ≠ .free → y.msgs = m :: ms → y.prod ≠ [] → GivesFrom (.qget f) s
        (((s.counted (.qget f)).refillQueue (key s f l) { y with msgs := ms }).acquireDev (s.laneCtx l) (groupOf l)) fun _ =>
          ((List.range 4).map fun k => .rw (.quad f.b k (m.getD k (0, false)).1
            (s.filtered (m.getD k (0, false)).1 (m.getD k (0, false)).2 && (Cap.ofQuad (s.quad l f.a).1).has Perm.ldc))) ++
          put f.d 1 0) ∧
      (y.msgs = [] → y.state = .closed → Gives (.qget f) s fun _ => put f.d 1 2) ∧
      (y.msgs = [] → y.state = .opened → f.mod.getLsbD 0 = false → Gives (.qget f) s fun _ => put f.d 1 1) ∧
      (y.msgs = [] → y.state = .opened → f.mod.getLsbD 0 = true → ∃ s1,
        GivesFrom (.qget f) s s1 (fun _ => [.sleep (.queue (key s f l))]) ∧ SameThreads s s1 ∧
        ∃ w, s1.queues.get? (key s f l) = some { y with cons := y.cons ++ [w] })) ∧
  (let owed := fun (s t : State) (w : Waiter) (ws : List RegWrite) => (∀ k, w.mask.getLsbD k = true → k < 64 →
      (∃ b, (s.lane (w.gkey * 64 + k)).state = .asleep b) → ∃ b, t.lane (w.gkey * 64 + k) =
        { s.lane (w.gkey * 64 + k) with sleep := some (.due b (onceWrites w.acting ws k)) }) ∧ t.groups = s.groups
   (∀ (s : State) q x w ws msg, x.cons = w :: ws → let t := s.putMessage q x msg
      t.queues = s.queues.set q { x with cons := ws } ∧ owed s t w (messageWrites w (s.siftMsg msg))) ∧
   (∀ (s : State) q x w ws, x.prod = w :: ws → let t := s.refillQueue q x
      t.queues = s.queues.set q { x with prod := ws, msgs := x.msgs ++ [s.siftMsg w.msg] } ∧ owed s t w [.reg w.d 0 0]) ∧
   (∀ s : State, s.pass = none → ∀ msg, s.siftMsg msg = msg)) ∧
  (∀ f s l ls x, s.Clear (.qstat f) → s.acting (.qstat f) = l :: ls → named s f l 0 x →
    (dead x → Gives (.qstat f) s fun _ => put f.d 2 0) ∧
    ∀ y, x = some y → y.state ≠ .free → y.depth < 2 ^ 13 → y.msgs.length < 2 ^ 13 →
      ∃ v : DWord, Gives (.qstat f) s (fun _ => put f.d 2 v.toNat) ∧
      (v.extractLsb' 0 13).toNat = y.depth ∧ (v.extractLsb' 13 13).toNat = y.msgs.length ∧
      (v.extractLsb' 26 2).toNat = (if y.state = .opened then 1 else 2) ∧
      (v.extractLsb' 28 12).toNat = min y.cons.length 4095 ∧ (v.extractLsb' 40 12).toNat = min y.prod.length 4095) ∧
  (∀ f s l ls, s.Clear (.evget f) → s.acting (.evget f) = l :: ls →
    let x := s.ctx (s.laneCtx l)
    let q := if x.colour = 0 then s.fwq else x.evq
    (∀ r rs, q.recs = r :: rs → ∃ s1, GivesFrom (.evget f) s s1 (fun _ => put f.d 8 r.toNat ++ put f.b 1 0) ∧
      SameThreads s s1 ∧ s1.mem = s.mem ∧
      (if x.colour = 0 then s1.fwq else (s1.ctx (s.laneCtx l)).evq) = { q with recs := rs }) ∧
    (q.recs = [] → f.mod.getLsbD 0 = false → Gives (.evget f) s fun _ => put f.b 1 1) ∧
    (q.recs = [] → f.mod.getLsbD 0 = true → ∃ s1, GivesFrom (.evget f) s s1 (fun _ => [.sleep .event]) ∧ SameThreads s s1)) ∧
  (∀ i fn f s l ls, Sys2Proof.Claims.svcOf i = some (fn, f) → s.Clear i → s.acting i = l :: ls →
    ∃ s1 n j, GivesFrom i s s1 (fun _ => [.sleep (.reeve n)]) ∧ SameThreads s s1 ∧ s1.jobs.get? n = some j ∧
      j.who.gkey = groupOf l ∧ j.who.mask = lanesMask ((l :: ls).map posOf) ∧ j.who.d = f.d ∧
      j.ask = .svc fn ((List.range 4).map fun k => s.reg l f.a k) (s.quadBits l f.a 1, s.quadTag l f.a 1)) ∧
  (∀ n s j fn args cap s1 a, s.jobs.get? n = some j → j.ask = .svc fn args cap → s.answerDue n j = true →
    ({ s with jobs := s.jobs.erase n } : State).serve n j fn args cap = .done s1 a →
    exec (.reeveAnswer n) s = .next (s1.answer j.who (a.writes s.tick j.who.d))) ∧
  (∀ (s : State) c depth, ((∃ k, 1 ≤ k ∧ k ≤ 12 ∧ depth = 2 ^ k) → (s.svcQcreate c depth).2.status = 0 ∧
      ∃ q, (s.svcQcreate c depth).1.queues = s.queues.set q ⟨c, depth, .opened, [], [], []⟩) ∧
    ((¬ ∃ k, 1 ≤ k ∧ k ≤ 12 ∧ depth = 2 ^ k) → s.svcQcreate c depth = (s, Answer.of 2)))

/-- R203 to R209, R212, R214: REGACQ, REGREL, SPILL and FILL in lease form and HANDOFF give a next state. REGACQ answers 3 for a
kernel without an extended block, 1 where the group has it, 2 where .try cannot have it now; a grant zeroes the block's
registers, and a waiting lane set sleeps until its grant. What SPILL.lease stores, in a bank or in the group's backing area, FILL.lease
brings back; a lease that begins reads zero; one that is revoked keeps its contents, in that area. HANDOFF raises POISON for a poisoned
register that it hands over. (The model's choices: that REGACQ.wait sleeps also where the block is free, and wakes with 1 where the group
has it by then, log entry 61; who lends, and where in the area a quad lies, log entry 77; what becomes of a quad that the range holds
in part, log entry 78.) -/
def Obligations.RegisterBlocks : Prop :=
  (let common := fun (i : Instr) (f : FmtS) => ∀ s l ls, s.Clear i → s.acting i = l :: ls →
      (s.extRegs (groupOf l) = 0 → Gives i s fun _ => put f.d 1 3) ∧
      (s.extRegs (groupOf l) ≠ 0 → (s.group (groupOf l)).ext = true → Gives i s fun _ => put f.d 1 1)
   (∀ f, common (.regacqWait f) f) ∧ (∀ f, common (.regacqTry f) f)) ∧
  (∀ f s l ls, s.Clear (.regacqWait f) → s.acting (.regacqWait f) = l :: ls → s.extRegs (groupOf l) ≠ 0 →
    (s.group (groupOf l)).ext = false → ∃ s1 w, GivesFrom (.regacqWait f) s s1 (fun _ => [.sleep .regacq]) ∧ SameThreads s s1 ∧
      s1.regq (s.laneCtx l) s.cur.core = s.regq (s.laneCtx l) s.cur.core ++ [w] ∧ w.gkey = groupOf l ∧ w.d = f.d) ∧
  (∀ f s l ls, s.Clear (.regacqTry f) → s.acting (.regacqTry f) = l :: ls → s.extRegs (groupOf l) ≠ 0 →
    (s.group (groupOf l)).ext = false →
    let can := s.regq (s.laneCtx l) s.cur.core = [] ∧ s.extRegs (groupOf l) / 8 ≤ s.octsFree (s.laneCtx l) s.cur.core
    (can → GivesFrom (.regacqTry f) s ((s.counted (.regacqTry f)).grantExt (groupOf l)) fun _ => put f.d 1 0) ∧
    (¬ can → Gives (.regacqTry f) s fun _ => put f.d 1 2)) ∧
  (∀ (s : State) gk, ((s.grantExt gk).group gk).ext = true ∧ (s.grantExt gk).mem = s.mem ∧
    ∀ lk ∈ groupLanes gk, ∀ r, (s.allocation gk ≤ r → r < s.allocation gk + s.extRegs gk →
        ((s.grantExt gk).lane lk).regs.getD r 0 = 0) ∧
      (¬ (s.allocation gk ≤ r ∧ r < s.allocation gk + s.extRegs gk) →
        ((s.grantExt gk).lane lk).regs.getD r 0 = (s.lane lk).regs.getD r 0)) ∧
  (∀ c core s w rest, s.regq c core = w :: rest → s.regacqReady c core = true → ∃ t, exec (.regacqGrant c core) s = .next t ∧
    (t.group w.gkey).ext = true ∧ t.regq c core = rest ∧ (s.extRegs w.gkey / 8 ≤ s.octsFree c core → t.mem = s.mem)) ∧
  (∀ (s : State) gk a, s.memOk → (s.group gk).bank.isSome = true → (s.group gk).leasePoison = [] →
    let u := s.modGroup gk fun g => { g with bank := none }
    u.leaseArea gk = some a → a % 16 = 0 → (∀ q < 32, ∀ lane < 64, (u.toBacking gk).leaseAt gk q lane = s.leaseAt gk q lane) ∧
      ((u.toBacking gk).group gk).bank = none ∧
      ∀ x, x < a ∨ a + 0x8000 ≤ x → (∀ k ∈ (s.group gk).lease, k.1 < 8192) → (∀ k ∈ (s.group gk).leaseTags, k < 8192) →
        (u.toBacking gk).mem.byte x = s.mem.byte x) ∧
  (∀ f s l ls, s.Clear (.regrel f) → s.acting (.regrel f) = l :: ls →
    ((s.group (groupOf l)).ext = true → GivesFrom (.regrel f) s
      ((s.counted (.regrel f)).modGroup (groupOf l) fun g => { g with ext := false }) fun _ => put f.d 1 0) ∧
    ((s.group (groupOf l)).ext = false → Gives (.regrel f) s fun _ => put f.d 1 1)) ∧
  (∀ f s l ls, s.Clear (.regrelLease f) → s.acting (.regrelLease f) = l :: ls →
    ((s.group (groupOf l)).leaseOn = true → GivesFrom (.regrelLease f) s
      ((s.counted (.regrelLease f)).modGroup (groupOf l) fun g =>
        { g with leaseOn := false, lease := [], leaseTags := [], leasePoison := [], bank := none }) fun _ => put f.d 1 0) ∧
    ((s.group (groupOf l)).leaseOn = false → Gives (.regrelLease f) s fun _ => put f.d 1 1)) ∧
  (∀ f s, s.Clear (.spillLease f) → s.memOk → (s.ctx (s.ctxOf s.cur.gkey)).backing % 16 = 0 →
    let gk := s.cur.gkey
    ∃ s1, GivesFrom (.spillLease f) s s1 (fun _ => []) ∧ s1.lanes = s.lanes ∧
      (∀ x, (∀ a, s1.leaseArea gk = some a → x < a ∨ a + 0x8000 ≤ x) → (s.group gk).leaseOn = true → s1.mem.byte x = s.mem.byte x) ∧
      (∀ lk ∈ s.acting (.spillLease f), (s1.group gk).leaseOn = true ∧ ∀ i < 2 * (countBits f + 1),
        let w := s1.leaseAt gk (2 * f.off.toNat + i) (posOf lk)
        w.1 = s.quadBits lk f.d i ∧ w.2.1 = s.filtered (s.quadBits lk f.d i) (s.quadTag lk f.d i)) ∧
      ∀ q < 32, ∀ p < 64, gk * 64 + p ∉ s.acting (.spillLease f) ∨ q < 2 * f.off.toNat ∨ 2 * (f.off.toNat + countBits f + 1) ≤ q →
        s.acting (.spillLease f) ≠ [] →
        s1.leaseAt gk q p = if (s.group gk).leaseOn then s.leaseAt gk q p else (0, false, [])) ∧
  (∀ f s, s.Clear (.fillLease f) → ∃ ws, Gives (.fillLease f) s ws ∧ ∀ lk ∈ s.acting (.fillLease f), f.d.toNat < 0x100 →
    ∀ i < 2 * (countBits f + 1),
      let l := (ws lk).foldl (fun l w => s.putWr l w) (s.lane lk)
      let w := s.leaseAt (groupOf lk) (2 * f.off.toNat + i) (posOf lk)
      (∀ j < 4, l.regs.getD (f.d.toNat + 4 * i + j) 0 = w.1.extractLsb' (32 * j) 32) ∧
        (f.d.toNat / 4 + i ∈ l.tags ↔ s.filtered w.1 w.2.1 = true)) ∧
  (∀ f s lk r, s.Clear (.handoff f) → s.acting (.handoff f) = [lk] → (s.handSnap lk).poison.head? = some r →
    Faults (.handoff f) s lk Code.poison) ∧
  (∀ f s, s.Clear (.handoff f) → (∀ lk ∈ s.acting (.handoff f), (s.handSnap lk).poison = []) →
    ∃ s1, GivesFrom (.handoff f) s s1 (fun _ => []) ∧ s1.lanes = s.lanes ∧ s1.mem = s.mem ∧
    (((s.acting (.handoff f)).map fun lk => (s.lane lk).tid).Nodup → ∀ lk ∈ s.acting (.handoff f),
      (s1.team (s.teamOf s.cur.gkey)).snaps.get? (s.lane lk).tid = some (s.handSnap lk)))

/-! ## Launches (R324 to R344) -/

/-- R130, R334 to R344: LAUNCH answers its status and, where it is 0, queues an entry with the context's next generation. The events
of a launch: placement of the next team of the head entry, ageing, retirement of a team whose work is done, the messages of a
launch on several devices, what the host sends, what the loader registers, and what firmware releases or ends. (The status of a
host message that fails its checks is the model's choice, log entry 42, and so is what becomes of one to a SAVED context, log entry
87; that messages between devices name both contexts is log entry 88; that those for a launch of a SAVED context wait in its image
is log entry 94.) -/
def Obligations.LaunchesRun : Prop :=
  let request := fun (s : State) (f : FmtT) (l a : Nat) =>
    ({ ctx := s.laneCtx l
       core := s.cur.core
       kernel := s.recordAt a
       args := if f.b.toNat = 0x140 then (0, false) else s.quad l f.b
       comp := if f.d.toNat = 0x140 then none else some (s.quad l f.d)
       block := Block.ofWords ((List.range 5).map fun k => s.reg l f.c k)
       cookie := 0 } : Request)
  (∀ f s l ls a, s.Clear (.launch f) → s.acting (.launch f) = l :: ls → launchCheck f s l = .ok a →
    let r := request s f l a
    (s.launchStatus r ≠ 0 → Gives (.launch f) s fun _ => [.rw (.reg f.c 5 (BitVec.ofNat 32 (s.launchStatus r)))]) ∧
    ∀ v k, s.launchStatus r = 0 → s.versionOf r.kernel = some (v, k) → ∃ s1, GivesFrom (.launch f) s s1 (fun _ =>
        [.rw (.reg f.c 5 0), .rw (.reg f.c 6 (BitVec.ofNat 32 (s.ctx (s.laneCtx l)).gen))]) ∧
      (s1.ctx (s.laneCtx l)).gen = (if (s.ctx (s.laneCtx l)).gen = 0xFFFFFFFF then 1 else (s.ctx (s.laneCtx l)).gen + 1) ∧
      ∃ n ∈ (s1.ctx (s.laneCtx l)).lq, (s1.launch n).gen = (s.ctx (s.laneCtx l)).gen ∧ (s1.launch n).ver = v ∧
        (s1.launch n).state = .queued ∧ (s1.launch n).nx = r.block.nx ∧ (s1.launch n).ny = r.block.ny ∧
        (s1.launch n).nz = r.block.nz) ∧
  (∀ c s n rest k v, s.placeDue c = true → (s.ctx c).lq = n :: rest → (s.launch n).next < (s.launch n).hi →
    s.nextCore (s.launch n) = some k → s.vers.get? (s.launch n).ver = some v →
    exec (.teamPlacement c) s = .next ((s.placeTeam n k v).placed n) ∧
    ((s.placeTeam n k v).launch n).next = (s.launch n).next + 1 ∧ ((s.placeTeam n k v).launch n).live = (s.launch n).live + 1 ∧
    ((s.placeTeam n k v).team (s.fresh + 1)).core = k ∧ ((s.placeTeam n k v).team (s.fresh + 1)).launch = n ∧
    ((s.placeTeam n k v).team (s.fresh + 1)).index = (s.launch n).next) ∧
  (∀ (s : State) tid entry snap, (s.newLane tid entry snap).state = .active ∧ (s.newLane tid entry snap).pc = entry ∧
    (s.newLane tid entry snap).tid = tid ∧ (s.newLane tid entry snap).preds = 0 ∧
    (snap = none → (s.newLane tid entry snap).regs = [] ∧ (s.newLane tid entry snap).tags = [])) ∧
  (∀ n s, s.ageDue n = true → ∃ t, exec (.launchLevelAge n) s = .next t ∧ (t.launch n).level = (s.launch n).level + 1 ∧
    t.lanes = s.lanes ∧ t.mem = s.mem) ∧
  (∀ tm s, s.retireDue tm = true → ∃ t, exec (.teamRetire tm) s = .next t ∧ t.teams.get? tm = none ∧
    ∀ g ∈ (s.team tm).slots, ∀ lk ∈ groupLanes ((s.team tm).core * 64 + g), (t.lane lk).state = .empty) ∧
  (∀ msg s, (s.ctx (leAt msg 52 4)).state = .free → exec (.hostLaunchMessage msg) s = .next { s with discarded := s.discarded + 1 }) ∧
  (∀ msg (s : State), let c := leAt msg 52 4
    let n := leAt msg 60 4
    let r : Request := ⟨c, 0, s.hostKernel c msg, (0, false), none,
      Block.ofWords ((List.range 5).map fun k => BitVec.ofNat 32 (leAt msg (32 + 4 * k) 4)), leAt msg 64 8⟩
    (s.ctx c).state = .active → n ≤ 1024 → msg.length = 88 + n →
    hostTag c (s.ctx c).keyId msg n = msg.drop (72 + n) → zeroAt msg 56 4 = true →
    (s.launchStatus r ≠ 0 → exec (.hostLaunchMessage msg) s =
      .next (s.post c 0x04 2 (launchPayload 0 (s.launchStatus r) (leAt msg 64 8) (s.launchStatus r = 1)) 0x4000)) ∧
    ∀ v k, s.launchStatus r = 0 → s.versionOf r.kernel = some (v, k) → ∃ t, exec (.hostLaunchMessage msg) s = .next t ∧
      ∃ e ∈ (t.ctx c).lq, (t.launch e).gen = (s.ctx c).gen ∧ (t.launch e).ver = v ∧ (t.launch e).state = .queued ∧
        (t.launch e).cookie = leAt msg 64 8) ∧
  (∀ msg (s : State), let c := leAt msg 52 4
    let n := leAt msg 60 4
    (s.ctx c).state = .saved → n ≤ 1024 → msg.length = 88 + n → hostTag c (s.launchKeyId c) msg n = msg.drop (72 + n) →
    exec (.hostLaunchMessage msg) s = .next (s.post c 0x04 2 (launchPayload 0 1 (leAt msg 64 8) true) 0x4000)) ∧
  (∀ e s, (s.ctx e.ctx).state = .free → ∃ t, exec (.multiLaunchEntry e) s = .next t ∧ t.launches = s.launches ∧ t.ctxs = s.ctxs ∧
    t.told e.src (.launch .refusal e.ctx ⟨e.srcCtx, e.gen⟩)) ∧
  (∀ e (s : State) v k, (s.ctx e.ctx).state = .active →
    let r : Request := ⟨e.ctx, 0, (s.records.get? e.record).map fun k => (e.record, k), (0, false), none,
      { Block.ofWords e.block with multi := false }, 0⟩
    s.launchStatus r = 0 → s.versionOf r.kernel = some (v, k) → ∃ t, exec (.multiLaunchEntry e) s = .next t ∧
      ∃ n ∈ (t.ctx e.ctx).lq, (t.launch n).gen = e.gen ∧ (t.launch n).issuer = e.src ∧ (t.launch n).issuerCtx = e.srcCtx ∧
        (t.launch n).multi = true ∧ (t.launch n).own = false ∧ (t.launch n).rank = e.rank) ∧
  (let has := fun (s : State) (n : Nat) (src srcCtx : Nat) (x : Nat × Nat × Nat) =>
      (x.2.1, x.2.2) = (src, srcCtx) ∨ (x.2.1, x.2.2) ∈ (s.launch n).armed
   (∀ src srcCtx ctx gen s n, s.answered1 src srcCtx ctx gen = some n →
      (∃ x ∈ s.otherRanks (s.launch n), ¬ has s n src srcCtx x) → ∃ t, exec (.multiArmed ⟨src, srcCtx⟩ ⟨ctx, gen⟩) s = .next t ∧
        (t.launch n).armed = (if (src, srcCtx) ∈ (s.launch n).armed then (s.launch n).armed
          else (s.launch n).armed ++ [(src, srcCtx)]) ∧
        (t.launch n).state = (s.launch n).state ∧ t = { s with launches := t.launches }) ∧
   (∀ src srcCtx ctx gen s n, s.answered1 src srcCtx ctx gen = some n → (s.launch n).own = true →
      (s.launch n).state = .armed → (∀ x ∈ s.otherRanks (s.launch n), has s n src srcCtx x) →
      ∃ u : State, exec (.multiArmed ⟨src, srcCtx⟩ ⟨ctx, gen⟩) s = .next (u.startTeams n) ∧ u.teams = s.teams ∧ u.lanes = s.lanes ∧
        ∀ x ∈ s.otherRanks (s.launch n), u.told x.2.1 (.launch .go (s.launch n).ctx ⟨x.2.2, (s.launch n).gen⟩))) ∧
  (∀ src srcCtx ctx gen s n, (s.ctx ctx).state ≠ .saved → s.multiNamed src srcCtx ctx gen false = [n] → (s.launch n).state = .armed →
    exec (.multiGo ⟨src, srcCtx⟩ ⟨ctx, gen⟩) s = .next (s.startTeams n)) ∧
  (let kept := fun (s : State) (src ctx : Nat) (b : MsgBody) =>
      { s with images := s.images.modify ctx fun m => { m with late := m.late ++ [(src, b)] } }
   ∀ src srcCtx ctx gen s, (s.ctx ctx).state = .saved →
    exec (.multiGo ⟨src, srcCtx⟩ ⟨ctx, gen⟩) s = .next (kept s src ctx (.launch .go srcCtx ⟨ctx, gen⟩)) ∧
    exec (.multiAbort ⟨src, srcCtx⟩ ⟨ctx, gen⟩) s = .next (kept s src ctx (.launch .abort srcCtx ⟨ctx, gen⟩)) ∧
    (s.answered1 src srcCtx ctx gen = none →
      exec (.multiArmed ⟨src, srcCtx⟩ ⟨ctx, gen⟩) s = .next (kept s src ctx (.launch .armed srcCtx ⟨ctx, gen⟩)) ∧
      exec (.multiRefusal ⟨src, srcCtx⟩ ⟨ctx, gen⟩) s = .next (kept s src ctx (.launch .refusal srcCtx ⟨ctx, gen⟩)))) ∧
  (∀ src srcCtx ctx gen s n, (s.ctx ctx).state ≠ .saved → s.multiNamed src srcCtx ctx gen false = [n] →
    ∃ t, exec (.multiAbort ⟨src, srcCtx⟩ ⟨ctx, gen⟩) s = .next t ∧ (t.launch n).state = .ended ∧ ∀ p ∈ t.teams, p.2.launch ≠ n) ∧
  (∀ n s, s.armedLate n = true → exec (.multiArmedTimeout n) s = .next (s.abortLaunch n 4)) ∧
  (∀ src srcCtx ctx gen s n, s.answered1 src srcCtx ctx gen = some n →
    exec (.multiRefusal ⟨src, srcCtx⟩ ⟨ctx, gen⟩) s = .next (s.abortLaunch n 4)) ∧
  (∀ c obj s, (s.ctx c).state = .active → ∃ t st blobs, exec (.loadCodeObject c obj) s = .next t ∧
    t.out = s.out ++ [.loaded c st blobs] ∧ t.lanes = s.lanes ∧ (objMalformed obj = true → st = 1) ∧
    (st ≠ 0 → blobs = [] ∧ t.mem = s.mem ∧ t.records = s.records ∧ t.vers = s.vers)) ∧
  (∀ r s k, s.records.get? r = some k → ∃ t, exec (.kernelRecordRelease r) s = .next t ∧ t.records.get? r = none ∧
    (∀ v, s.vers.get? k.ver = some v → ∃ x, t.vers.get? k.ver = some x ∧ (x.state = .superseded ∨ x.state = .freed))) ∧
  (∀ n s l, s.launches.get? n = some l → l.state = .running → l.multi = false → ∃ t, exec (.launchEndService n) s = .next t ∧
    (t.launch n).forced = true ∧ (t.launch n).next = l.hi ∧ Out.service .endLaunch l.ctx 0 ∈ t.out) ∧
  (∀ c s, (s.ctx c).state = .active → ∃ t, exec (.launchKeyReplace c) s = .next t ∧
    (t.ctx c).keyId = ((s.ctx c).keyId + 1) % 4096 ∧ t.mem = s.mem ∧ t.lanes = s.lanes)

/-! ## Privileged instructions and leases (R113 to R125, R331 to R333, R350, R355, R390 to R399) -/

/-- R115, R119, R125, R331, R333, R350, R355, R390, R391: the privileged instructions give a next state with their status, in a
context of colour 0 (R43; DecodeFaultTaken states the other case). SWEEP starts or queues a pass; GRANTSET writes one entry of
the grant table; FSTSET makes the transitions of R381 that are firmware's; FSTGET reads an entry; CTXGATE gates and ungates;
SHARESET sets shares and pools for the next refill; MRTLOAD asks the reeve; CVERNEW gives a record another version. (The order of
statuses that the manual does not order is the model's choice, log entry 59, and so are the fields of frame entries that log entry 64
names.) -/
def Obligations.PrivilegedInstructions : Prop :=
  (∀ f s l ls, s.Clear (.sweep f) → s.acting (.sweep f) = l :: ls →
    let n := nextPass s.sweepCur
    (s.sweepCur = s.sweepDone → ∃ s1 p, GivesFrom (.sweep f) s s1 (fun _ => put f.d 1 n) ∧ SameThreads s s1 ∧ s1.mem = s.mem ∧
      s1.sweepCur = n ∧ s1.pass = some p ∧ p.n = n ∧ p.acked = [] ∧ p.swept = [] ∧
      ∀ g e, (g, e) ∈ s.frames → (g ∈ p.set ↔ g < 524288 ∧
        Fst.state (frameEntry s.frames (liveFrame s.frames g)) = Fst.quarantine ∧
        (n + 2 ^ 32 - Fst.arg (frameEntry s.frames (liveFrame s.frames g))) % 2 ^ 32 < 2 ^ 31)) ∧
    (s.sweepCur ≠ s.sweepDone → f.imm.getLsbD 0 = true →
      GivesFrom (.sweep f) s { s.counted (.sweep f) with sweepQueued := true } fun _ => put f.d 1 n) ∧
    (s.sweepCur ≠ s.sweepDone → f.imm.getLsbD 0 = false → Gives (.sweep f) s fun _ => put f.d 1 0)) ∧
  (∀ f s l ls, s.Clear (.grantset f) → s.acting (.grantset f) = l :: ls →
    let n := (s.reg1 l f.b).toNat
    let e : BitVec 256 := s.quadBits l f.a 1 ++ s.quadBits l f.a 0
    let g := Grant.ofBits e
    let ok := e.extractLsb' 1 93 = 0 ∧ (g.valid = true → g.hi % 4096 = 0 ∧ g.hi ≤ 2 ^ 54 ∧ g.lo % 4096 = 0 ∧ g.lo < g.hi ∧
      1 ≤ g.colour ∧ g.pmask &&& ~~~0xA03#12 = 0 ∧ g.target < 640 ∧ g.target ≠ s.parish)
    (¬ (n < 4096 ∧ ok) → Gives (.grantset f) s fun _ => put f.d 1 1) ∧
    (n < 4096 ∧ ok → ∃ s1, GivesFrom (.grantset f) s s1 (fun _ => put f.d 1 0) ∧ SameThreads s s1 ∧ s1.mem = s.mem ∧
      s1.grants.getD n 0 = e ∧ ∀ k, k ≠ n → s1.grants.getD k 0 = s.grants.getD k 0)) ∧
  (∀ f s l ls, s.Clear (.fstset f) → s.acting (.fstset f) = l :: ls →
    let s0 := s.counted (.fstset f)
    let u := s0.flushAll (s0.unitOf (s.laneCtx l) s.cur.core) (s.laneCtx l)
    let g0 := (s.reg1 l f.b).toNat
    let n := s.pair l f.a
    let g := liveFrame u.frames g0
    let e := frameEntry u.frames g
    let bad := Fst.lease n ≠ 0 ∨ Fst.tier n ≠ 0 ∨ Fst.tagsum n = true ∨ 12 ≤ Fst.state n ∨ fstArgBad n = true
    let other := f.mod.getLsbD 0 = true ∧ Fst.state e ≠ (s.reg1 l f.c).toNat % 16
    (655359 < g0 → GivesFrom (.fstset f) s u fun _ => put f.d 1 2) ∧
    (g0 ≤ 655359 → bad → GivesFrom (.fstset f) s u fun _ => put f.d 1 3) ∧
    (g0 ≤ 655359 → ¬ bad → other → GivesFrom (.fstset f) s u fun _ => put f.d 1 1) ∧
    (g0 ≤ 655359 → ¬ bad → ¬ other → fstRow e n = false → GivesFrom (.fstset f) s u fun _ => put f.d 1 2) ∧
    (g0 ≤ 655359 → ¬ bad → ¬ other → fstRow e n = true → ∃ s1, GivesFrom (.fstset f) s s1 (fun _ => put f.d 1 0) ∧
      (Fst.state n = Fst.owned ∨ Fst.state n = Fst.shared → frameEntry s1.frames g =
        Fst.mk (if 524288 ≤ g then Fst.arg n else 0) 0 (if 524288 ≤ g then 2 else Fst.tier e) (Fst.nocache n) (Fst.tagsum e) (Fst.colour n) (Fst.state n)) ∧
      (Fst.state n = Fst.quarantine → Fst.state (frameEntry s1.frames g) = Fst.quarantine ∧
        Fst.arg (frameEntry s1.frames g) = nextPass s.sweepCur % 2 ^ 32) ∧
      (Fst.state n = Fst.scrub → g < 393216 → Fst.state (frameEntry s1.frames g) = Fst.scrub ∧
        scrubDone (frameEntry s1.frames g) = 0 ∧ scrubNext (frameEntry s1.frames g) = scrubNext n ∧
        scrubNextCol (frameEntry s1.frames g) = scrubNextCol n))) ∧
  (∀ f s l ls, s.Clear (.fstget f) → s.acting (.fstget f) = l :: ls →
    let g := (s.reg1 l f.b).toNat
    (655359 < g → Gives (.fstget f) s fun _ => put f.d 2 0xFFFFFFFFFFFFFFFF) ∧
    (g ≤ 655359 → Gives (.fstget f) s fun _ => put f.d 2
      (frameEntry s.frames (if f.mod.getLsbD 0 then liveFrame s.frames g else g)).toNat)) ∧
  (let gates := fun (i : Instr) (f : FmtS) (already : CtxState) (act : Nat → State → State) => ∀ s l ls,
      s.Clear i → s.acting i = l :: ls →
      let n := (s.reg1 l f.a).toNat
      let st := (s.ctx n).state
      let none' := 1023 < n ∨ (st ≠ .active ∧ st ≠ .gated)
      (none' → Gives i s fun _ => put f.d 1 2) ∧
      (¬ none' → n = s.laneCtx l → Gives i s fun _ => put f.d 1 3) ∧
      (¬ none' → n ≠ s.laneCtx l → st = already → Gives i s fun _ => put f.d 1 1) ∧
      (¬ none' → n ≠ s.laneCtx l → st ≠ already → GivesFrom i s (act n (s.counted i)) fun _ => put f.d 1 0)
   (∀ f, gates (.ctxgateGate f) f .gated fun n u => u.modCtx n fun x => { x with state := .gated, gatedAt := u.now }) ∧
   (∀ f, gates (.ctxgateUngate f) f .active fun n u => (u.countGate n).modCtx n fun x => { x with state := .active })) ∧
  (∀ f s l ls, s.Clear (.ctxgateState f) → s.acting (.ctxgateState f) = l :: ls →
    let n := (s.reg1 l f.a).toNat
    Gives (.ctxgateState f) s fun _ => put f.d 1 (if 1023 < n then 0xFFFFFFFF else match (s.ctx n).state with
      | .free => 0 | .active => 1 | .gated => 2 | .saved => 3 | .resetting => 4)) ∧
  (∀ f s l ls, s.Clear (.shareset f) → s.acting (.shareset f) = l :: ls →
    let c := (s.reg1 l f.a).toNat
    let v := (s.reg1 l f.b).toNat
    let k := (s.reg1 l f.c).toNat
    let cores := if f.mod.getLsbD 0 then (s.ctx c).coreSet else [k]
    let named := c ≤ 1023 ∧ (s.ctx c).state ≠ .free ∧ cores ≠ [] ∧ ∀ x ∈ cores, x ∈ (s.ctx c).coreSet
    let fits := 1 ≤ v ∧ v ≤ 65535 ∧ ∀ x ∈ cores, s.shareSum x (some c) + v ≤ s.poolNext x
    (f.mod.getLsbD 1 = false →
      (¬ named → Gives (.shareset f) s fun _ => put f.d 1 1) ∧
      (named → ¬ fits → Gives (.shareset f) s fun _ => put f.d 1 2) ∧
      (named → fits → ∃ s1, GivesFrom (.shareset f) s s1 (fun _ => put f.d 1 0) ∧ SameThreads s s1 ∧ s1.mem = s.mem ∧
        ∀ x ∈ cores, (s1.ctx c).shareNext x = v)) ∧
    (f.mod.getLsbD 1 = true →
      (2047 < k → Gives (.shareset f) s fun _ => put f.d 1 1) ∧
      (k ≤ 2047 → v < 256 ∨ 65535 < v ∨ v < s.shareSum k none → Gives (.shareset f) s fun _ => put f.d 1 2) ∧
      (k ≤ 2047 → 256 ≤ v → v ≤ 65535 → s.shareSum k none ≤ v → ∃ s1, GivesFrom (.shareset f) s s1 (fun _ => put f.d 1 0) ∧
        SameThreads s s1 ∧ s1.mem = s.mem ∧ s1.poolNext k = v))) ∧
  (∀ f s l ls a, s.Clear (.mrtload f) → s.acting (.mrtload f) = l :: ls →
    s.accPre (s.laneColour l) (s.quad l f.a) accData Perm.ld (Cap.ofQuad (s.quad l f.a).1).cur 64 64 false = .ok a →
    ∃ s1 n j, GivesFrom (.mrtload f) s s1 (fun _ => [.sleep (.reeve n)]) ∧ SameThreads s s1 ∧ s1.mrt = s.mrt ∧
      s1.jobs.get? n = some j ∧ j.who.gkey = groupOf l ∧ j.who.d = f.d ∧ j.ask = .mrt (s.quad l f.a)) ∧
  (∀ n (s : State) j cap st t, s.jobs.get? n = some j → j.ask = .mrt cap → s.answerDue n j = true →
    ({ s with jobs := s.jobs.erase n } : State).mrtStep n j cap = .done st t →
    (s.tenantRuns = true → st = 1 ∧ t = none) ∧
    exec (.reeveAnswer n) s = .next (({ s with jobs := s.jobs.erase n, mrt := t.getD s.mrt } : State).answer j.who
      [.reg j.who.d 0 (BitVec.ofNat 32 st)])) ∧
  (∀ f s l ls a b, s.Clear (.cvernew f) → s.acting (.cvernew f) = l :: ls → s.kernelCheck l (s.quad l f.a) = .ok a →
    s.kernelCheck l (s.quad l f.b) = .ok b →
    (s.recordAt a = none → Gives (.cvernew f) s fun _ => put f.d 1 1) ∧
    ∀ ra, s.recordAt a = some ra →
      (s.recordAt b = none → Gives (.cvernew f) s fun _ => put f.d 1 2) ∧
      ∀ rb va vb, s.recordAt b = some rb → s.vers.get? ra.2.ver = some va → s.vers.get? rb.2.ver = some vb →
        (ra.1 = rb.1 ∨ va.colour ≠ vb.colour → Gives (.cvernew f) s fun _ => put f.d 1 2) ∧
        (ra.1 ≠ rb.1 → va.colour = vb.colour → ∃ s1 x, GivesFrom (.cvernew f) s s1 (fun _ => put f.d 1 0) ∧
          s1.records.get? ra.1 = some { ra.2 with ver := rb.2.ver } ∧ s1.records.get? rb.1 = none ∧ s1.launches = s.launches ∧
          s1.vers.get? ra.2.ver = some x ∧ (x.state = .superseded ∨ x.state = .freed)))

/-- R392, R394: the bits of a lease record that LEASEOP.query stores. -/
def Sys2Proof.Claims.recordBits (r : Lease) (b : BitVec 512) : Prop :=
  b.extractLsb' 384 128 = r.fallback ∧ (b.extractLsb' 320 64).toNat = r.term % 2 ^ 64 ∧
    (b.extractLsb' 256 64).toNat = r.tbound % 2 ^ 64 ∧ (b.extractLsb' 237 19).toNat = r.lframe % 2 ^ 19 ∧
    (b.extractLsb' 219 18).toNat = r.count % 2 ^ 18 ∧ (b.extractLsb' 202 17).toNat = r.wframe % 2 ^ 17 ∧
    (b.extractLsb' 190 12).toNat = r.colour % 2 ^ 12 ∧ (b.extractLsb' 180 10).toNat = r.lender % 2 ^ 10 ∧
    (b.extractLsb' 170 10).toNat = r.borrower % 2 ^ 10 ∧ (b.extractLsb' 166 4).toNat = r.state % 2 ^ 4 ∧
    (b.extractLsb' 154 12).toNat = r.id % 2 ^ 12 ∧ (b.extractLsb' 144 10).toNat = r.bctx % 2 ^ 10 ∧
    b.extractLsb' 128 16 = 0 ∧ (b.extractLsb' 64 64).toNat = r.deadline % 2 ^ 64 ∧ b.extractLsb' 0 64 = 0

/-- R396: a reclaim has begun at the lender. -/
def Sys2Proof.Claims.reclaiming (s t : State) (n : Nat) (r : Lease) : Prop :=
  t.leases.get? n = some { r with state := 3, deadline := s.now + r.tbound } ∧
    ∀ g ∈ s.lentFrames r, Fst.state (frameEntry t.frames g) = Fst.reclaim

/-- R396: the lender's frames have gone to SCRUB, and the record lasts until they have left it. -/
def Sys2Proof.Claims.returned (s t : State) (n : Nat) (r : Lease) : Prop :=
  (∀ x, t.leases.get? n = some x → x.state = 5) ∧
    ∀ g ∈ s.lentFrames r, g < 393216 → Fst.state (frameEntry t.frames g) = Fst.scrub

/-- R397, R398: a handshake has begun at the borrower. -/
def Sys2Proof.Claims.draining (s t : State) (n : Nat) (r : Lease) : Prop :=
  t.leases.get? n = some { r with state := 10, deadline := s.now + r.tbound, drain := 0 } ∧
    ∀ g ∈ r.window, Fst.state (frameEntry t.frames g) = Fst.draining

/-- R397: the borrower's extent is lost. -/
def Sys2Proof.Claims.lost (t : State) (n : Nat) (r : Lease) : Prop :=
  t.leases.get? n = some { r with state := 12, deadline := 0, left := r.window } ∧
    ∀ g ∈ r.window, Fst.state (frameEntry t.frames g) = Fst.absent ∧ Fst.arg (frameEntry t.frames g) = 0 ∧
      Fst.lease (frameEntry t.frames g) = 0

/-- R392, R393, R395, R396, R397, R399, R453: LEASEOP gives a next state in each of its forms, with its status. An offer and an
acceptance read an image and make a record; reclaim, release and force move one; query stores one. (PERM of a LEASE
capability is free, log entry 46. That an image which does not lie on this device is asked for while the lane set sleeps is the
model's choice, log entry 49; that an offer takes no notice of FALLBACK
is log entry 68.) -/
def Obligations.LeaseInstructions : Prop :=
  (let named := fun (i : Instr) (f : FmtT) (s : State) (l : Nat) (x : Option (Nat × Lease)) =>
      let c := Cap.ofQuad (s.quad l f.a).1
      s.Clear i ∧ (∃ ls, s.acting i = l :: ls) ∧ checkAccess (s.quad l f.a) (s.laneColour l) [Kind.lease] 0 c.cur 0 = none ∧
        s.leaseOf c.cur = x
   let done := fun (i : Instr) (f : FmtT) (s s1 : State) => GivesFrom i s s1 fun _ => put f.d 1 0
   (∀ f s l, (named (.leaseopReclaim f) f s l none → Gives (.leaseopReclaim f) s fun _ => put f.d 1 4) ∧
     ∀ n r, named (.leaseopReclaim f) f s l (some (n, r)) →
       (r.asLender = true → r.state = 1 → ∃ s1, done (.leaseopReclaim f) f s s1 ∧ s1.leases.get? n = none) ∧
       (r.asLender = true → r.state = 2 → ∃ s1, done (.leaseopReclaim f) f s s1 ∧ Sys2Proof.Claims.reclaiming s s1 n r ∧
         s1.told r.borrower (.lease .reclaim r.id)) ∧
       (¬ (r.asLender = true ∧ (r.state = 1 ∨ r.state = 2)) → Gives (.leaseopReclaim f) s fun _ => put f.d 1 4)) ∧
   (∀ f s l, (named (.leaseopRelease f) f s l none → Gives (.leaseopRelease f) s fun _ => put f.d 1 4) ∧
     ∀ n r, named (.leaseopRelease f) f s l (some (n, r)) →
       (r.asLender = false → r.state = 9 → ∃ s1, done (.leaseopRelease f) f s s1 ∧ Sys2Proof.Claims.draining s s1 n r ∧
         s1.told r.lender (.lease .release r.id)) ∧
       (¬ (r.asLender = false ∧ r.state = 9) → Gives (.leaseopRelease f) s fun _ => put f.d 1 4)) ∧
   (∀ f s l, (named (.leaseopForce f) f s l none → Gives (.leaseopForce f) s fun _ => put f.d 1 4) ∧
     ∀ n r, named (.leaseopForce f) f s l (some (n, r)) →
       (r.asLender = true → 2 ≤ r.state → r.state ≤ 4 → ∃ s1, done (.leaseopForce f) f s s1 ∧ Sys2Proof.Claims.returned s s1 n r ∧
         s1.told r.borrower (.lease (.force false) r.id)) ∧
       (r.asLender = false → r.state = 9 ∨ r.state = 10 → ∃ s1, done (.leaseopForce f) f s s1 ∧ Sys2Proof.Claims.lost s1 n r ∧
         s1.told r.lender (.lease (.force true) r.id)) ∧
       (r.asLender = true → r.state < 2 ∨ 4 < r.state → Gives (.leaseopForce f) s fun _ => put f.d 1 4) ∧
       (r.asLender = false → r.state ≠ 9 → r.state ≠ 10 → Gives (.leaseopForce f) s fun _ => put f.d 1 4)) ∧
   (∀ f s l x a, named (.leaseopQuery f) f s l x → s.leaseRange l (s.quad l f.b) Perm.st true = .ok a →
     (x = none → Gives (.leaseopQuery f) s fun _ => put f.d 1 4) ∧
     ∀ n r, x = some (n, r) → ∃ u b, SameThreads s u ∧ u.leases = s.leases ∧ Sys2Proof.Claims.recordBits r b ∧
       done (.leaseopQuery f) f s ((List.range 4).foldl (fun u i => u.engineWrite ((s.counted (.leaseopQuery f)).leaseEng l)
         (s.quad l f.b) (a + 16 * i) 16 (b.extractLsb' (128 * i) 128) false false) u))) ∧
  (let asked := fun (i : Instr) (f : FmtT) (accept : Bool) => ∀ s l ls a, s.Clear i → s.acting i = l :: ls →
      s.leaseRange l (s.quad l f.a) Perm.ld false = .ok a →
      let v := (s.counted i).flushAll ((s.counted i).unitOf (s.laneCtx l) s.cur.core) (s.laneCtx l)
      let j : Job := ⟨(s.counted i).waiter f.g l f.d f.b, .lease accept (s.quad l f.a), [], none⟩
      let read := v.takeNum.2.leaseImage (v.fresh + 1) j (s.quad l f.a)
      (∀ asks, read = .wait asks → GivesFrom i s { v.takeNum.2 with jobs := v.takeNum.2.jobs.set (v.fresh + 1) j } fun _ =>
        [.sleep (.reeve (v.fresh + 1))]) ∧
      ∀ e, read = .fault e → s.acting i = [l] → Faults i s l e.code
   (∀ f, asked (.leaseopOffer f) f false) ∧ (∀ f, asked (.leaseopAccept f) f true)) ∧
  (∀ f s l ls a b tag, s.Clear (.leaseopOffer f) → s.acting (.leaseopOffer f) = l :: ls →
    s.leaseRange l (s.quad l f.a) Perm.ld false = .ok a →
    let s0 := s.counted (.leaseopOffer f)
    let v := s0.flushAll (s0.unitOf (s.laneCtx l) s.cur.core) (s.laneCtx l)
    let u := v.takeNum.2
    u.leaseImage (v.fresh + 1) ⟨s0.waiter f.g l f.d f.b, .lease false (s.quad l f.a), [], none⟩ (s.quad l f.a) = .image b tag →
    (∀ st, u.offer b = .inl st → GivesFrom (.leaseopOffer f) s u fun _ => put f.d 1 st) ∧
    ∀ n r, u.offer b = .inr (n, r) → ∃ s1, GivesFrom (.leaseopOffer f) s s1 (fun _ =>
        put f.d 1 0 ++ putQuad f.b (s.leaseCap n r.gen) true) ∧
      s1.leases.get? n = some { r with state := 1, deadline := 0 } ∧ s1.mem = u.mem ∧
      s.leases.get? n = none ∧ n < 4096 ∧ r.asLender = true ∧ r.lender = s.parish ∧ r.borrower < 640 ∧ r.borrower ≠ s.parish ∧
      1 ≤ r.count ∧ r.count ≤ 131072 ∧ r.lframe + r.count ≤ 393216 ∧ r.colour ≠ 0 ∧
      ∀ g ∈ r.extent, Fst.state (frameEntry u.frames (liveFrame u.frames g)) = Fst.free ∧ g ∉ u.spares) ∧
  (∀ f s l ls a b tag, s.Clear (.leaseopAccept f) → s.acting (.leaseopAccept f) = l :: ls →
    s.leaseRange l (s.quad l f.a) Perm.ld false = .ok a →
    let s0 := s.counted (.leaseopAccept f)
    let v := s0.flushAll (s0.unitOf (s.laneCtx l) s.cur.core) (s.laneCtx l)
    let u := v.takeNum.2
    u.leaseImage (v.fresh + 1) ⟨s0.waiter f.g l f.d f.b, .lease true (s.quad l f.a), [], none⟩ (s.quad l f.a) = .image b tag →
    (∀ st, u.acceptLease b tag = .inl st → GivesFrom (.leaseopAccept f) s u fun _ => put f.d 1 st) ∧
    ∀ n r, u.acceptLease b tag = .inr (n, r) → ∃ s1 w, GivesFrom (.leaseopAccept f) s s1 (fun _ => [.sleep (.lease n)]) ∧
      s1.leases.get? n = some { r with state := 8, deadline := 0, who := some w } ∧ w.gkey = groupOf l ∧ w.d = f.d ∧ w.b = f.b ∧
      s1.told r.lender (.accept ⟨s.parish, r.id, r.count, r.colour, r.wframe⟩) ∧
      s.leases.get? n = none ∧ n < 4096 ∧ r.asLender = false ∧ r.borrower = s.parish ∧
      r.wframe + r.count ≤ 131072 ∧ (s.ctx r.bctx).colour = r.colour ∧ u.fallbackOk r = true ∧
      ∀ g ∈ r.window, Fst.state (frameEntry u.frames (liveFrame u.frames g)) = Fst.free)

/-- R396, R397, R398, R453: the messages of a lease and what falls due move its records and frames. A message leaves on the link that
its route has, behind those that stand there, or waits until there is one. The copy goes out 128 bytes at a time, with the tags that
pass the filter; COPIED follows when all of it has been acknowledged. (What COPIED after its deadline does is the model's choice, log
entry 68, and so is the size of the parts that the copy travels in, log entry 50.) -/
def Obligations.LeaseProtocol : Prop :=
  (∀ (s : State) p b, (s.sendBody p b).told p b) ∧
  (∀ (s : State) m, (s.nextLink m = none → s.sendMsg m = { s with unsent := s.unsent ++ [m] }) ∧
    ∀ l legs, s.nextLink m = some (l, legs) → ((s.sendMsg m).link l).txq = (s.link l).txq ++ [m] ∧
      s.sendMsg m = { s with legs := legs, links := (s.sendMsg m).links } ∧ ∀ k, k ≠ l → (s.sendMsg m).link k = s.link k) ∧
  (∀ m s n r, s.lenderRec m.borrower m.id = some (n, r) → r.state = 1 → r.count = m.count → r.colour = m.colour →
    s.allFree r.extent = true → ∃ t, exec (.leaseAcceptMsg m) s = .next t ∧
      t.leases.get? n = some { r with state := 2, deadline := 0, wframe := m.wframe } ∧
      t.told r.borrower (.lease (.granted r.lframe) r.id) ∧
      ∀ g ∈ s.lentFrames r, Fst.state (frameEntry t.frames g) = Fst.lent ∧ Fst.colour (frameEntry t.frames g) = r.colour % 4096) ∧
  (∀ m s, (∀ n r, s.lenderRec m.borrower m.id = some (n, r) → r.state ≠ 1 ∨ r.count ≠ m.count ∨ r.colour ≠ m.colour ∨
      s.allFree r.extent = false) →
    exec (.leaseAcceptMsg m) s = .next (s.sendBody m.borrower (.lease .refused m.id))) ∧
  (∀ n s r, s.leases.get? n = some r → r.asLender = true → r.state = 2 → r.term ≠ 0 → r.term ≤ s.now →
    ∃ t, exec (.leaseTerm n) s = .next t ∧ Sys2Proof.Claims.reclaiming s t n r ∧ t.told r.borrower (.lease .reclaim r.id)) ∧
  (∀ b id s n r, s.lenderRec b id = some (n, r) → r.state = 2 →
    ∃ t, exec (.leaseReleaseMsg b id) s = .next t ∧ Sys2Proof.Claims.reclaiming s t n r) ∧
  (∀ b id s n r, s.lenderRec b id = some (n, r) → r.state = 3 →
    ∃ t, exec (.leaseDrained b id) s = .next t ∧ t.leases.get? n = some { r with state := 4, sent := 0, num := s.fresh + 1 } ∧
      t.frames = s.frames) ∧
  (∀ n s r, s.leases.get? n = some r → r.asLender = true → r.state = 4 → s.now < r.deadline → r.sent < r.count * 0x200000 →
    let t := s.copyOn n
    let a := frameAddr (liveFrame s.frames (r.lframe + r.sent / 0x200000)) + r.sent % 0x200000
    t.leases.get? n = some { r with sent := r.sent + 128 } ∧ t.mem = s.mem ∧ SameThreads s t ∧
      ∃ x ∈ t.asked, x.m.dst = r.borrower ∧ x.m.op = 6 ∧ x.m.sub = 1 ∧ x.m.grant = r.id ∧
        x.m.addr = BitVec.ofNat 54 (frameAddr (393216 + r.wframe) + r.sent) ∧ x.m.data = natBytes 128 (s.mem.nat a 128) ∧
        x.m.tags = (List.range 8).map fun k => s.filtered (s.granData (a + 16 * k)) (s.granTag (a + 16 * k))) ∧
  (∀ n s r, s.leases.get? n = some r → s.copyDue r = true →
    ∃ t, exec (.leaseCopyDone n) s = .next t ∧ Sys2Proof.Claims.returned s t n r ∧ t.told r.borrower (.lease .copied r.id)) ∧
  (∀ a id lf s n r, s.acceptingRec a id = some (n, r) →
    ∃ t, exec (.leaseGranted a id lf) s = .next t ∧
      t.leases.get? n = some { r with state := 9, deadline := 0, who := none } ∧
      ∀ i < r.count, let e := frameEntry t.frames (393216 + r.wframe + i)
        Fst.state e = Fst.borrowed ∧ Fst.arg e = (a * 2 ^ 22 + r.lframe + i) % 2 ^ 32 ∧ Fst.colour e = r.colour % 4096 ∧
          Fst.lease e = id % 4096 ∧ Fst.tier e = 1) ∧
  (∀ a id s n r, s.acceptingRec a id = some (n, r) →
    ∃ t, exec (.leaseRefused a id) s = .next t ∧ t.leases.get? n = none ∧ t.frames = s.frames) ∧
  (∀ n s r, s.leases.get? n = some r → r.state = 8 → r.born + 16777216 ≤ s.now →
    ∃ t, exec (.leaseAcceptTimeout n) s = .next t ∧ t.leases.get? n = none ∧ t.frames = s.frames) ∧
  (∀ a id s n r, s.borrowerRec a id = some (n, r) → r.state = 9 →
    ∃ t, exec (.leaseReclaimMsg a id) s = .next t ∧ Sys2Proof.Claims.draining s t n r) ∧
  (∀ n s r, s.leases.get? n = some r → s.drainReady r = true → ∃ t, exec (.leaseDrainDone n) s = .next t ∧
    t.frames = s.frames ∧ t.mem = s.mem ∧
    let u := (s.windowLines r).foldl (fun u a => u.mscFlush a) s
    (u.drainOwed r = true → t = { u with leases := u.leases.set n { r with drain := 1 } }) ∧
    (u.drainOwed r = false → t.leases.get? n = some { r with drain := 2 } ∧ t.told r.lender (.lease .drained r.id))) ∧
  (∀ a id s n r, s.borrowerRec a id = some (n, r) → r.state = 10 →
    (r.deadline ≤ s.now ∨ s.fallbackOk r = false → ∃ t, exec (.leaseCopied a s.parish id) s = .next t ∧ Sys2Proof.Claims.lost t n r) ∧
    (s.now < r.deadline → s.fallbackOk r = true → ∃ t, exec (.leaseCopied a s.parish id) s = .next t ∧
      t.leases.get? n = some { r with state := 11, deadline := 0, left := r.window } ∧
      ∀ i < r.count, let e := frameEntry t.frames (393216 + r.wframe + i)
        Fst.state e = Fst.demoted ∧ Fst.arg e = (r.fallFrame + i) % 2 ^ 32 ∧
          Fst.tier e = (if r.fallFrame < 393216 then 0 else 2))) ∧
  (∀ a id s n r, s.borrowerRec a id = some (n, r) → r.state = 10 →
    ∃ t, exec (.leaseAbort a id) s = .next t ∧ Sys2Proof.Claims.lost t n r) ∧
  (∀ b id s n r, s.lenderRec b id = some (n, r) → 2 ≤ r.state → r.state ≤ 4 →
    ∃ t, exec (.leaseForceMsg b id true) s = .next t ∧ Sys2Proof.Claims.returned s t n r ∧
      t.told r.borrower (.lease (.force false) r.id)) ∧
  (∀ a id s n r, s.borrowerRec a id = some (n, r) → r.state = 9 ∨ r.state = 10 →
    ∃ t, exec (.leaseForceMsg a id false) s = .next t ∧ Sys2Proof.Claims.lost t n r) ∧
  (∀ n s r, s.leases.get? n = some r → r.deadline ≤ s.now → r.asLender = true → r.state = 3 ∨ r.state = 4 →
    ∃ t, exec (.leaseDeadline n) s = .next t ∧ Sys2Proof.Claims.returned s t n r ∧ t.told r.borrower (.lease .abort r.id)) ∧
  (∀ n s r, s.leases.get? n = some r → r.deadline ≤ s.now → r.asLender = false → r.state = 10 →
    ∃ t, exec (.leaseDeadline n) s = .next t ∧ Sys2Proof.Claims.lost t n r)

/-! ## Contexts, pages, the device and the link as events (R317, R323, R345 to R362, R376 to R389, R400 to R427) -/

/-- R174, R208, R348, R352, R353, R357, R359, R361, R362: what firmware asks of a context (create, with a frame reserved for each
core; drain; save; restore; discard; reset), and what falls due: a refill at each multiple of 1,024 of the reference counter, an
update of the shared counters at each of 1,048,576, a governor's step of a die at each of 8,192, the lowest at 95 °C, and a request
that can pay. Each event gives a next state. (The model's choices: that frames of a colour which another context has stay where they
are, log entry 43; where the backing area lies and what takes it back, log entry 77; what a save waits for, what a restore needs, and
that a deadline of a drain counts from its request, log entry 67; images of other parts, log entry 89; messages that came while the
context was SAVED, log entry 94; the temperature at a governor's step, log entry 96.) -/
def Obligations.ContextEvents : Prop :=
  (∀ p s, s.canCreate p = false → exec (.contextCreate p) s = .next (s.send (.service .create p.number 1))) ∧
  (∀ p s, s.canCreate p = true → s.bootstat = 1 ∧ p.number < 1024 ∧ (s.ctx p.number).state = .free ∧
    ∃ t, exec (.contextCreate p) s = .next t ∧ (t.ctx p.number).state = .active ∧ (t.ctx p.number).colour = p.colour ∧
      (t.ctx p.number).gen = 1 ∧ (t.ctx p.number).counters = [] ∧ (t.ctx p.number).clockAt = s.now ∧
      Out.service .create p.number 0 ∈ t.out ∧ (∀ c, c ≠ p.number → t.ctx c = s.ctx c) ∧ t.mem = s.mem ∧ t.teams = s.teams ∧
      (∀ i < p.cores.length, Fst.state (frameEntry t.frames (p.backing / 0x200000 + i)) = Fst.owned ∧
        Fst.colour (frameEntry t.frames (p.backing / 0x200000 + i)) = 0) ∧
      ∀ k ∈ p.cores, k.core ∈ (t.ctx p.number).coreSet ∧ ((t.ctx p.number).buckets.getD k.core Bucket.empty).share = k.share ∧
        ((t.ctx p.number).buckets.getD k.core Bucket.empty).own = k.share) ∧
  (∀ c k d s a, (s.ctx c).alloc.get? k = some a → a.member = true → a.drain = false →
    (s.ctx c).state = .active ∨ (s.ctx c).state = .gated → ∃ t, exec (.coreDrain c k d) s = .next t ∧
      ((∃ p ∈ s.teams, p.2.ctx = c ∧ p.2.core = k) →
        (t.ctx c).alloc.get? k = some { a with drain := true, deadline := some (s.now + d) } ∧ t.teams = s.teams) ∧
      ((∀ p ∈ s.teams, ¬ (p.2.ctx = c ∧ p.2.core = k)) →
        (t.ctx c).alloc.get? k = none ∧ Out.service .drain c 0 ∈ t.out)) ∧
  (∀ c k s a x, (s.ctx c).alloc.get? k = some a → a.drain = true → a.moving = false → a.deadline = some x → x ≤ s.now →
    ∃ t, exec (.drainDeadline c k) s = .next t ∧ (t.ctx c).alloc.get? k = some { a with moving := true, deadline := none } ∧
      t.teams = s.teams ∧ t.lanes = s.lanes) ∧
  (∀ c s, (s.ctx c).state = .active ∨ (s.ctx c).state = .gated →
    let u := if (s.ctx c).state = .active then s.modCtx c fun x => { x with state := .gated, gatedAt := s.now } else s
    (u.saveReady c = true → ∃ t, exec (.contextSave c) s = .next t ∧ (t.ctx c).state = .saved ∧ (t.images.get? c).isSome = true ∧
      (∀ p ∈ t.teams, p.2.ctx ≠ c) ∧ (∀ p ∈ t.launches, p.2.ctx ≠ c) ∧ Out.service .save c 0 ∈ t.out) ∧
    (u.saveReady c = false → ∃ t, exec (.contextSave c) s = .next t ∧ (t.ctx c).state = .gated ∧ (t.ctx c).saving = true ∧
      t.teams = s.teams)) ∧
  (∀ i c s, s.restoreStatus i c ≠ 0 →
    exec (.contextRestore (.held i) c) s = .next (s.send (.service .restore c (s.restoreStatus i c)))) ∧
  (∀ i c (s : State), s.images.get? i = none → s.restoreStatus i c = 2) ∧
  (let loaded := fun (t : State) (c : Nat) (m : Image) =>
      (t.ctx c).state = .gated ∧ (t.ctx c).alloc = m.ctx.alloc ∧ (t.ctx c).gen = m.ctx.gen ∧
      (∀ p ∈ m.work.teams, ∃ e, t.teams.get? p.1 = some e ∧ e.ctx = c) ∧
      ∀ p ∈ m.launches, ∃ e, t.launches.get? p.1 = some e ∧ e.ctx = c
   (∀ i c s m, s.images.get? i = some m → s.restoreStatus i c = 0 → ∃ t : State,
      exec (.contextRestore (.held i) c) s = .next ((t.takeLate c m).send (.service .restore c 0)) ∧ loaded t c m ∧
      t.images.get? i = none) ∧
   (∀ b fs c s, s.foreignStatus (openImage s.fresh b) c fs ≠ 0 → exec (.contextRestore (.given b fs) c) s =
      .next (s.send (.service .restore c (s.foreignStatus (openImage s.fresh b) c fs)))) ∧
   (∀ fs c (s : State), s.foreignStatus .bad c fs = 2 ∧ s.foreignStatus .level c fs = 3) ∧
   (∀ b fs c s f, openImage s.fresh b = .image f → s.foreignStatus (.image f) c fs = 0 → ∃ t : State,
      exec (.contextRestore (.given b fs) c) s = .next ((t.takeLate c f.image).send (.service .restore c 0)) ∧ loaded t c f.image ∧
      ∀ p ∈ fs, let e := frameEntry t.frames (liveFrame s.frames p.1)
        Fst.state e = Fst.owned ∧ Fst.colour e = f.image.ctx.colour % 4096)) ∧
  (∀ c s, (s.ctx c).state = .saved → ∃ t, exec (.contextDiscard c) s = .next t ∧ t.ctxs.get? c = none ∧ t.images.get? c = none ∧
    Out.service .discard c 0 ∈ t.out ∧ ((s.ctx c).colour ≠ 0 → s.colourShared c = false → ∀ g e, (g, e) ∈ s.frames →
      Fst.colour e = (s.ctx c).colour → Fst.state e = Fst.owned ∨ Fst.state e = Fst.shared →
      (∀ m, s.images.get? c = some m → ∀ f ∈ backingFrames m.ctx.backing m.ctx.backs.length, f ≠ g ∧ liveFrame s.frames f ≠ g) →
      Fst.state (frameEntry t.frames g) = Fst.quarantine)) ∧
  (∀ c s, (s.ctx c).state = .active ∨ (s.ctx c).state = .gated → ∃ t, exec (.contextReset c) s = .next t ∧
    (t.ctx c).state = .resetting ∧ (t.ctx c).lq = [] ∧ (∀ p ∈ t.teams, p.2.ctx ≠ c) ∧ (∀ p ∈ t.launches, p.2.ctx ≠ c) ∧
    (∀ p ∈ t.cmds, p.2.ctx ≠ c) ∧ (∀ r ∈ t.sync, r.ctx ≠ c) ∧
    ∀ q x, s.queues.get? q = some x → x.owner = c → x.state = .opened → ∃ y, t.queues.get? q = some y ∧ y.state = .closed) ∧
  (∀ c s, (s.ctx c).state = .resetting → ∃ t, exec (.contextResetDone c) s = .next t ∧ t.ctxs.get? c = none ∧
    Out.service .reset c 0 ∈ t.out) ∧
  (∀ s : State, s.now % 1024 = 0 → s.lastRefill < s.now → ∃ t, exec .tokenRefill s = .next t ∧ t.lastRefill = s.now ∧
    t.lanes = s.lanes ∧ t.mem = s.mem ∧
    ∀ c k b, (∀ p ∈ s.ctxs, p.1 = c → p.2 = s.ctx c) → (s.ctx c).refills = true → (s.ctx c).buckets.get? k = some b →
      let share := b.newShare.getD b.share
      let r := (t.ctx c).buckets.getD k Bucket.empty
      r.share = share ∧ r.newShare = none ∧ r.own = min (b.own + share) (4 * share) ∧ r.used = 0 ∧
        r.throttled = false ∧ r.own + r.bonus ≤ 4 * share ∧
        (b.throttled = false → (∀ q ∈ s.reqs, ¬ (q.2.ctx = c ∧ q.2.core = k ∧ q.2.sent = none)) → r.bonus = 0)) ∧
  (∀ k c s n r, s.reqs.find? (fun p => p.2.ctx = c && p.2.core = k && p.2.sent.isNone) = some (n, r) →
    let b := (s.ctx c).buckets.getD k Bucket.empty
    let cost := (r.bytes + 63) / 64
    cost ≤ b.own + b.bonus → ∃ t, exec (.portRequestSend k c) s = .next t ∧ t.lanes = s.lanes ∧ t.mem = s.mem ∧
      t.reqs.get? n = some { r with sent := some s.now } ∧ (∀ j, j ≠ n → t.reqs.get? j = s.reqs.get? j) ∧
      (t.ctx c).buckets.getD k Bucket.empty = { b with
        bonus := b.bonus - cost
        own := b.own - (cost - b.bonus)
        used := b.used + (cost - b.bonus) }) ∧
  (∀ s : State, s.now % 1048576 = 0 → s.lastUpdate < s.now → ∃ t, exec .sharedCounterUpdate s = .next t ∧
    t.lastUpdate = s.now ∧ t.lanes = s.lanes ∧ t.mem = s.mem ∧ ∀ c x k, (c, x) ∈ s.ctxs → 16 ≤ k % 32 →
      (∃ v, (k, v) ∈ (t.ctx c).counters) → ∃ v, (t.ctx c).shared.get? k = some v ∧ (k, v) ∈ (t.ctx c).counters) ∧
  (∀ d n s, d < 8 → n < 7 → s.now % 8192 = 0 → s.governed.getD d 0 < s.now → ∃ t, exec (.governorStep d n) s = .next t ∧
    let heat := Config.dieHeat d s.tick
    t.governed.get? d = some s.now ∧ t.die d = { s.die d with
      step := if 95 ≤ heat then 0 else n
      capped := decide (95 ≤ heat)
      duty := decide (105 ≤ heat) } ∧ t.lanes = s.lanes ∧ t.mem = s.mem ∧
    ∀ k, k ≠ d → t.die k = s.die k)

/-- R120 to R124: a core acknowledges: its commands that hold a revoked capability fail, and what its other commands, its loads
and its teams' tables hold passes the filter. Then it is swept: every tag of its lanes, groups, pad and L1 whose capability is
revoked is cleared, and nothing else; the groomer holds it for 6,656 cycles until then. At the end of the pass the tags of memory,
but for frames lent to others, those of L1 lines and those of queued messages pass the filter, its frames go on to SCRUB, and a
queued pass begins. (The length of a hold and what lies at rest are the model's reading, log entry 44.) -/
def Sys2Proof.Claims.sweeps : Prop :=
  (∀ k s p, s.pass = some p → s.ackReady k = true → ∃ t, exec (.sweepAck k) s = .next t ∧
    t.pass = some { p with acked := insertNat p.acked k } ∧
    (∀ n c, s.cmds.get? n = some c → c.core = k → c.unfinished = true → c.caps.any s.isRevoked = true → ∀ d, t.cmds.get? n = some d →
      d.state = .faulted) ∧
    ((∀ c ∈ s.cmds, c.2.core = k → c.2.unfinished = true → c.2.caps.any s.isRevoked = false) →
      t = { s with pass := t.pass, cmds := t.cmds, teams := t.teams, wloads := t.wloads } ∧
      (∀ n c, s.cmds.get? n = some c → t.cmds.get? n = some (if c.core = k then s.siftCmd c else c)) ∧
      (∀ n m, s.teams.get? n = some m → t.teams.get? n = some (if m.core = k then s.siftTeam m else m)) ∧
      ∀ n w, s.wloads.get? n = some w → t.wloads.get? n =
        some (if w.core = k then { w with cap := (w.cap.1, s.filtered w.cap.1 w.cap.2) } else w))) ∧
  (∀ k s p, s.pass = some p → s.coreSweepDue k = true → p.holds.get? k = none →
    exec (.coreSweep k) s = .next { s with pass := some { p with holds := p.holds.set k (s.now + 6656) } }) ∧
  (∀ k s p x, s.pass = some p → s.coreSweepDue k = true → p.holds.get? k = some x → x ≤ s.now ∧
    ∃ t, exec (.coreSweep k) s = .next t ∧ t.pass = some { p with holds := p.holds.erase k, swept := insertNat p.swept k } ∧
    t = { s with lanes := t.lanes, groups := t.groups, islots := t.islots, tags := t.tags, l1 := t.l1, pass := t.pass } ∧
    (∀ lk, coreOf (groupOf lk) = k → t.lane lk = { s.lane lk with
      tags := (s.lane lk).tags.filter (fun q => !s.revoked (s.taggedQuad lk q)), sleep := (t.lane lk).sleep }) ∧
    (∀ lk, coreOf (groupOf lk) ≠ k → t.lane lk = s.lane lk) ∧
    (∀ g, coreOf g = k → t.group g = { s.group g with
      stags := (s.group g).stags.filter (fun q => !s.revoked (tblQuad (s.group g).sregs q))
      leaseTags := (s.group g).leaseTags.filter (fun j => !s.revoked (leaseQuad (s.group g) j)) }) ∧
    (∀ g, coreOf g ≠ k → t.group g = s.group g) ∧
    (∀ j, j ∈ t.tags ↔ j ∈ s.tags ∧ (padBase + k * 0x100000 ≤ 16 * j → 16 * j < padBase + (k + 1) * 0x100000 →
      s.revoked (s.granData (16 * j)) = false)) ∧
    t.l1 = s.l1.map fun l => if sliceCore l.unit l.line = k then
      { l with sectors := l.sectors.map fun x => (x.1, { x.2 with tag := x.2.tag && !s.revoked x.2.data }) } else l) ∧
  (∀ s p, s.pass = some p → s.walkDue = true → ∃ t, exec .sweepPassComplete s = .next t ∧ t.sweepDone = p.n ∧ t.mem = s.mem ∧
    t.groups = s.groups ∧ (∀ lk, t.lane lk = { s.lane lk with sleep := (t.lane lk).sleep }) ∧
    t.l1 = s.l1.map (fun l => { l with sectors := l.sectors.map fun x => (x.1, { x.2 with tag := x.2.tag && !s.revoked x.2.data }) }) ∧
    (s.sweepQueued = false → t.pass = none) ∧
    (s.sweepQueued = true → t.sweepQueued = false ∧ t.sweepCur = nextPass s.sweepCur ∧ (t.pass.map (·.n)) = some (nextPass s.sweepCur)) ∧
    (∀ k, k ∈ t.tags ↔ k ∈ s.tags ∧ (s.lentGranule k = true ∨ s.revoked (s.granData (16 * k)) = false)) ∧
    (∀ q x, s.queues.get? q = some x → ∃ y, t.queues.get? q = some y ∧ y.state = x.state ∧
      y.msgs = x.msgs.map fun m => m.map fun v => (v.1, s.filtered v.1 v.2)) ∧
    ∀ g ∈ p.set, let h := liveFrame s.frames g
      h < 393216 → Fst.state (frameEntry s.frames h) = Fst.quarantine → Fst.state (frameEntry t.frames h) = Fst.scrub)

/-- R376, R377, R382 to R384, R389: the next 64 KiB of a frame in SCRUB are cleared, and after the last of 32 such parts it is
FREE or OWNED, as its entry says; a frame that retires, or a spare that is replaced, has its bytes and tags in its spare; a
stack route that is replaced changes nothing; a corrected error is counted; one that is not poisons the register, the sector of
an L1 line or the granule, whose tag goes, in a line of the borrowed window where the slice holds it, or the granule of a weight slot;
on the on-die network it refuses the access, or fails the command, as DATA_LOST. Nothing else of frames, memory or threads changes.
(That a spare which is replaced stays out of use is the model's choice, log entry 64.) -/
def Sys2Proof.Claims.framesAndErrors : Prop :=
  (∀ g s, g < 393216 → s.scrubDue g = true →
    let d := scrubDone (frameEntry s.frames g)
    let lo := frameAddr g + d * 0x10000
    ∃ t, exec (.scrubSubframe g) s = .next t ∧
      (∀ a, lo ≤ a → a < lo + 0x10000 → t.mem.byte a = 0 ∧ a / 16 ∉ t.tags ∧ a / 16 ∉ t.poison) ∧
      (∀ a, a < lo ∨ lo + 0x10000 ≤ a → t.mem.byte a = s.mem.byte a) ∧
      (∀ f, f ≠ g → frameEntry t.frames f = frameEntry s.frames f) ∧ t.groups = s.groups ∧
      (∀ lk, t.lane lk = { s.lane lk with sleep := (t.lane lk).sleep }) ∧
      (d < 31 → Fst.state (frameEntry t.frames g) = Fst.scrub ∧ scrubDone (frameEntry t.frames g) = d + 1) ∧
      (31 ≤ d → Fst.colour (frameEntry t.frames g) = scrubNextCol (frameEntry s.frames g) ∧
        Fst.state (frameEntry t.frames g) = (if scrubNext (frameEntry s.frames g) = 1 then Fst.owned else Fst.free))) ∧
  (let copied := fun (s t : State) (f g : Nat) => (s.memOk → ∀ o < 0x200000, t.mem.byte (frameAddr g + o) = s.mem.byte (frameAddr f + o)) ∧
      (∀ o < 0x20000, frameAddr g / 16 + o ∈ t.tags ↔ frameAddr f / 16 + o ∈ s.tags) ∧ SameThreads s t ∧
      ∀ a, a < frameAddr g ∨ frameAddr g + 0x200000 ≤ a → t.mem.byte a = s.mem.byte a
   (∀ f g s, f < 393216 → Fst.state (frameEntry s.frames f) ≤ Fst.quarantine → f ∉ s.spares → s.spareOk f g = true →
      ∃ t, exec (.frameRetire f g) s = .next t ∧ g ∈ t.spares ∧ Fst.state (frameEntry t.frames f) = Fst.retired ∧
        Fst.arg (frameEntry t.frames f) = g ∧ frameEntry t.frames g = frameEntry s.frames f ∧ copied s t f g ∧
        ∀ h, h ≠ f → h ≠ g → frameEntry t.frames h = frameEntry s.frames h) ∧
   (∀ f g s, let old := Fst.arg (frameEntry s.frames f) % 2 ^ 19
      Fst.state (frameEntry s.frames f) = Fst.retired → s.spareOk f g = true →
      ∃ t, exec (.spareReplace f g) s = .next t ∧ g ∈ t.spares ∧ SameThreads s t ∧
        Fst.state (frameEntry t.frames old) = Fst.free ∧
        Fst.tagsum (frameEntry t.frames old) = Fst.tagsum (frameEntry s.frames old) ∧
        (∀ h, h ≠ f → h ≠ g → h ≠ old → frameEntry t.frames h = frameEntry s.frames h) ∧
        (old ≠ f → Fst.state (frameEntry t.frames f) = Fst.retired ∧ Fst.arg (frameEntry t.frames f) = g) ∧
        (old ≠ f → old ≠ g → frameEntry t.frames g = frameEntry s.frames old) ∧
        (old ≠ g → old < 393216 → copied s t old g))) ∧
  (∀ d k s, exec (.routeReplace d k) s = .next s) ∧
  (∀ d s, ∃ t, exec (.correctableError d) s = .next t ∧ t.die d = { s.die d with corrected := (s.die d).corrected + 1 } ∧
    (∀ k, k ≠ d → t.die k = s.die k) ∧ t = { s with dies := t.dies, monitors := t.monitors }) ∧
  (∀ lk r s, ∃ t, exec (.uncorrectableError (.reg lk r)) s = .next t ∧
    t.lane lk = { s.lane lk with poison := insertNat (s.lane lk).poison r } ∧ (∀ k, k ≠ lk → t.lane k = s.lane k) ∧
    t = { s with lanes := t.lanes, monitors := t.monitors }) ∧
  (∀ gk r s, ∃ t, exec (.uncorrectableError (.uniform gk r)) s = .next t ∧
    t.group gk = { s.group gk with spoison := insertNat (s.group gk).spoison r } ∧ (∀ k, k ≠ gk → t.group k = s.group k) ∧
    t = { s with groups := t.groups, monitors := t.monitors }) ∧
  (∀ u c n k l (s : State), l ∈ s.l1 → l.unit = u → l.ctx = c → l.line = n →
    ∃ t, exec (.uncorrectableError (.sector u c n k)) s = .next t ∧
      { l with sectors := l.sectors.modify k fun x => { x with poison := true, tag := false } } ∈ t.l1 ∧
      (∀ x ∈ s.l1, ¬ (x.unit = u ∧ x.ctx = c ∧ x.line = n) → x ∈ t.l1) ∧ t = { s with l1 := t.l1, monitors := t.monitors }) ∧
  (∀ a s, regionOf a ≠ .borrowed → ∃ t, exec (.uncorrectableError (.granule a)) s = .next t ∧ s.homeAddr a / 16 ∈ t.poison ∧ s.homeAddr a / 16 ∉ t.tags ∧
    (∀ k, k ≠ s.homeAddr a / 16 → ((k ∈ t.poison ↔ k ∈ s.poison) ∧ (k ∈ t.tags ↔ k ∈ s.tags))) ∧
    t = { s with poison := t.poison, tags := t.tags, monitors := t.monitors }) ∧
  (∀ a s, regionOf a = .borrowed → ∃ t, exec (.uncorrectableError (.granule a)) s = .next t ∧
    t = { s with msc := t.msc, monitors := t.monitors } ∧
    ((s.sliceGran a).own = none → t.msc = s.msc) ∧
    ∀ q, (s.sliceGran a).own = some q → (t.sliceGran a).own = some (q.1, true) ∧ (t.sliceGran a).tag = false) ∧
  (∀ n s x, s.outst.get? n = some x → x.team ≠ 0 →
    exec (.uncorrectableError (.network n)) s = .next (s.refuseAcc n x Code.dataLost (s.stateAt x.addr))) ∧
  (∀ n s c, s.outst.get? n = none → s.cmds.get? n = some c → c.state = .running →
    exec (.uncorrectableError (.network n)) s = .next (s.failCmd n c Code.dataLost 0)) ∧
  (∀ k c n g s w, (s.ctx c).slots.get? (k * 256 + n) = some w → ∃ t, exec (.uncorrectableError (.slot k c n g)) s = .next t ∧
    (t.ctx c).slots.get? (k * 256 + n) = some { w with poison := insertNat w.poison g } ∧
    (∀ j, j ≠ k * 256 + n → (t.ctx c).slots.get? j = (s.ctx c).slots.get? j) ∧ (∀ j, j ≠ c → t.ctx j = s.ctx j) ∧
    t = { s with ctxs := t.ctxs, monitors := t.monitors })

/-- R249, R317, R323, R419: an RDMA WRITE waits behind one that waits; else one within one frame of local memory is written
where the gate puts it, clearing the tags there, or is discarded and counted if refused; in RECOVERY nothing of the fabric or the
host is heard (R421). A CLOSED queue becomes FREE. A queue
whose probe is due sends it; the probe that finds its queue again moves the head into the reserve slot of the downstream queue,
and any other only ends. (The model's choices: how RDMA passes the gate, log entry 54; what internal queues hold, log entry 85.)
-/
def Sys2Proof.Claims.hostWritesAndQueues : Prop :=
  (∀ a data s, s.deaf = true → exec (.rdmaWrite a data) s = .next s) ∧
  (∀ a data s, s.deaf = false → s.rdma ≠ [] → exec (.rdmaWrite a data) s = .next { s with rdma := s.rdma ++ [(a, data)] }) ∧
  (∀ a data s q nc, s.deaf = false → s.rdma = [] → (∀ p ∈ s.outst, ¬ (p.2.team = 0 ∧ p.2.batch = s.rdmaNum)) → data ≠ [] → a.toNat % 0x200000 + data.length ≤ 0x200000 → regionOf a.toNat = .local →
    gate s.frames s.spares 0 a.toNat true = .go q nc → ∃ t, exec (.rdmaWrite a data) s = .next t ∧
      (∀ j < data.length, t.mem.byte (q + j) = data.getD j 0 ∧ (q + j) / 16 ∉ t.tags) ∧
      (∀ x, x < q ∨ q + data.length ≤ x → t.mem.byte x = s.mem.byte x) ∧
      t = { s with
        mem := t.mem
        tags := t.tags
        poison := t.poison
        msc := t.msc
        monitors := t.monitors
        fresh := t.fresh
        rdmaNum := t.rdmaNum }) ∧
  (∀ a data s c st, s.deaf = false → s.rdma = [] → (∀ p ∈ s.outst, ¬ (p.2.team = 0 ∧ p.2.batch = s.rdmaNum)) → data ≠ [] → a.toNat % 16 + data.length ≤ 16 → regionOf a.toNat = .local →
    gate s.frames s.spares 0 a.toNat true = .refuse c st →
    exec (.rdmaWrite a data) s = .next { s with discarded := s.discarded + 1, fresh := s.fresh + 1, rdmaNum := s.fresh + 1 }) ∧
  (∀ q s x, s.queues.get? q = some x → x.state = .closed →
    exec (.queueFree q) s = .next { s with queues := s.queues.set q { x with state := .free, msgs := [] } }) ∧
  (∀ q s x, s.iqueues.get? q = some x → s.probeDue q = true → x.probing = false →
    exec (.chairliftProbe q) s = .next { s with iqueues := s.iqueues.set q { x with probing := true } }) ∧
  (let found := fun (s : State) (q : Nat) (x : IQueue) (d : Nat) (y : IQueue) => x.down = some d ∧ x.entries ≠ [] ∧ d ≠ q ∧
      s.iqueue d = y ∧ y.full = true ∧ y.reserve = none ∧ s.probeFinds q (s.iqueues.length + 1) d = true
   (∀ q s x d y e es, s.iqueues.get? q = some x → x.probing = true → found s q x d y → x.entries = e :: es →
      ∃ t, exec (.chairliftProbe q) s = .next t ∧ t = { s with iqueues := t.iqueues } ∧
        t.iqueue d = { y with entries := y.entries ++ [e], reserve := some e } ∧
        t.iqueue q = { x with
          probing := false
          since := s.now
          entries := es
          down := none
          reserve := if x.reserve = some e then none else x.reserve }) ∧
   (∀ q s x, s.iqueues.get? q = some x → x.probing = true → (∀ d y, ¬ found s q x d y) →
      exec (.chairliftProbe q) s = .next { s with iqueues := s.iqueues.set q { x with probing := false, since := s.now } }))

/-- R421, R422, R424, R426, R427: a write of a monitor's control word, unless it names a reserved source, or of its counter,
takes effect at the end of the cycle; a new source starts from zero unless the counter is written too. Boot leaves READY, or
RECOVERY with the number of the step that fails; a signed request raises the fused version, and none lowers it; a report of 152
bytes is signed with the identity key, which boot derives from the fused secret, once the part is READY. The cap, the duty cycle,
THERMAL, which gates every context, and the end of power follow. (The fused secret, the key derived from it and the signature are
free, log entry 9; what boot enables and when power ends, log entry 71.) -/
def Sys2Proof.Claims.deviceAsAWhole : Prop :=
  (∀ d k w s, d < 8 → k < 16 → ∃ t, exec (.monitorControlWrite d k w) s = .next t ∧ t = { s with monitors := t.monitors } ∧
    (∀ j, j ≠ d * 16 + k → t.monitor j = s.monitor j) ∧
    (9 < (w.extractLsb' 16 16).toNat → t.monitor (d * 16 + k) = s.monitor (d * 16 + k)) ∧
    ((w.extractLsb' 16 16).toNat ≤ 9 →
      t.monitor (d * 16 + k) = { s.monitor (d * 16 + k) with newCtl := some (w &&& 0xFFFF0003) })) ∧
  (∀ d k w s, d < 8 → k < 16 → ∃ t, exec (.monitorCounterWrite d k w) s = .next t ∧ t = { s with monitors := t.monitors } ∧
    (∀ j, j ≠ d * 16 + k → t.monitor j = s.monitor j) ∧
    t.monitor (d * 16 + k) = { s.monitor (d * 16 + k) with newValue := some w }) ∧
  (∀ (s : State) d m, let c := m.newCtl.getD m.ctl
    (s.runMonitor d 1 m).ctl = c ∧ (s.runMonitor d 1 m).newCtl = none ∧ (s.runMonitor d 1 m).newValue = none ∧
    (∀ v, m.newValue = some v → (s.runMonitor d 1 m).value = v) ∧
    (m.newValue = none → c.extractLsb' 16 16 ≠ m.ctl.extractLsb' 16 16 → (s.runMonitor d 1 m).value = 0)) ∧
  (∀ b s, s.bootstat = 0 → ∃ t, exec (.boot b) s = .next t ∧ SameThreads s t ∧ t.mem = s.mem ∧ t.ctxs = s.ctxs ∧
    (∀ k, s.bootFails b = some k → t.bootstat = BitVec.ofNat 8 (0x80 + k)) ∧
    (s.bootFails b = none → t.bootstat = 1 ∧ t.secver = b.secver ∧ t.mrt = mrtBody b.mrt ∧ t.parish = b.parish % 640 ∧
      t.firmware = b.image ∧ t.identity = some (Config.identityKey Config.fusedSecret) ∧
      ∀ p < 18, (s.link p).state = .off → (t.link p).state = .training)) ∧
  (∀ b s, s.bootstat ≠ 0 → exec (.boot b) s = .next s) ∧
  (∀ v (s : State), s.fuseMin ≤ v → v < 256 → exec (.secverRaise v true) s = .next { s with fuseMin := v }) ∧
  (∀ v g (s : State), ∃ t, exec (.secverRaise v g) s = .next t ∧ s.fuseMin ≤ t.fuseMin ∧ (g = false → t = s)) ∧
  (∀ nonce s, s.bootstat = 1 → exec (.attestationReport nonce) s =
    .next (s.send (.report (s.reportBody nonce ++
      natBytes sigBytes (Config.sign Config.fusedSecret (s.reportBody nonce)).toNat)))) ∧
  (∀ nonce (s : State), (s.reportBody nonce).length = 152) ∧
  (∀ d s, d < 8 → ∃ t, exec (.thermalCap d) s = .next t ∧ t = { s with dies := t.dies } ∧
    t.die d = { s.die d with capped := true, step := 0 } ∧ ∀ k, k ≠ d → t.die k = s.die k) ∧
  (∀ d s, d < 8 → ∃ t, exec (.thermalDutyCycle d) s = .next t ∧ t = { s with dies := t.dies } ∧
    t.die d = { s.die d with duty := true } ∧ ∀ k, k ≠ d → t.die k = s.die k) ∧
  (∀ d s, d < 8 → (∀ p ∈ s.ctxs, p.2 = s.ctx p.1) → ∃ t, exec (.thermal d) s = .next t ∧ t = { s with ctxs := t.ctxs, thermalAt := t.thermalAt, out := t.out } ∧
    (∀ c, t.ctx c = if (s.ctx c).state = .active then { s.ctx c with state := .gated, gatedAt := s.now } else s.ctx c) ∧
    t.thermalAt = some (s.thermalAt.getD s.now) ∧ t.out = s.out ++ [.thermal d]) ∧
  (∀ (s : State) x, s.thermalAt = some x → x + 1250000 ≤ s.now → exec .modulePowerDown s = .next { s with power := false })

/-- R120 to R124, R249, R317, R323, R376, R377, R382 to R384, R389, R419, R421, R422, R424, R426, R427: the events of the sweep,
of frames and errors, of host writes and internal queues, and of the device as a whole. -/
def Obligations.PageAndDeviceEvents : Prop :=
  Sys2Proof.Claims.sweeps ∧ Sys2Proof.Claims.framesAndErrors ∧ Sys2Proof.Claims.hostWritesAndQueues ∧ Sys2Proof.Claims.deviceAsAWhole

/-- R400, R405 to R411, R414, R416: the life of a link, its flits, and what becomes of a peer. Each event gives a next state. (The model's choices: that the first sealing key of a pair is 0, log entry 25; the keys and salts of a link, and that an event
says whether CRC and tag are good, log entry 8; routes over links of others, log entry 19; what a link that retrains keeps and how
long a peer may be out of reach, log entry 69.) -/
def Obligations.LinkEvents : Prop :=
  (∀ p s, p < 18 → s.deaf = false → (s.link p).state = .off → ∃ t, exec (.portEnable p) s = .next t ∧ (t.link p).state = .training ∧
    t.lanes = s.lanes) ∧
  (∀ p s, (s.link p).state ≠ .off → ∃ t, exec (.portDisable p) s = .next t ∧ (t.link p).state = .off) ∧
  (∀ p (q : PeerId) qp s, q.genuine = false → exec (.linkTrained p q qp) s = .next s) ∧
  (∀ p (q : PeerId) qp s, p < 15 → q.genuine = true → (s.link p).state = .training ∨ (s.link p).state = .retraining → ∃ t, exec (.linkTrained p q qp) s = .next t ∧
    (t.link p).state = .up ∧ (t.link p).peer = some (s.parish / 16 * 16 + (s.parish % 16 + p + 1) % 16) ∧
    (t.link p).txCtr = 0 ∧ (t.link p).rxCtr = 0 ∧ (t.link p).keySlots = 0 ∧ Out.linkChange p (s.link p).state .up ∈ t.out) ∧
  (∀ p (q : PeerId) qp s, 15 ≤ p → p < 18 → q.genuine = true → q.index < 640 → q.index / 16 ≠ s.parish / 16 →
    (s.link p).state = .training ∨ (s.link p).state = .retraining → ∃ t, exec (.linkTrained p q qp) s = .next t ∧
      (t.link p).state = .up ∧ (t.link p).peer = some q.index ∧ (t.link p).peerPort = some qp ∧
      (s.parish % 16, p, q.index % 16) ∈ t.routes.getD (q.index / 16) []) ∧
  (∀ p s, (s.link p).state = .training ∨ (s.link p).state = .retraining → ∃ t, exec (.linkTrainingFail p) s = .next t ∧
    (t.link p).state = .down) ∧
  (∀ p s, (s.link p).state = .down → (s.link p).retryAt ≤ s.now → ∃ t, exec (.linkRetry p) s = .next t ∧
    (t.link p).state = .training ∧ (t.link p).retryAt = s.now + 12500000) ∧
  (∀ p f s, (s.link p).usable = true → f.intact = true → f.tagOk = true → f.keysel = (s.link p).keysel → f.kind = 1 → f.nak = false →
    f.fseq = (s.link p).expect → ∃ u : State, exec (.flitReceive p f) s = .next (f.msgs.foldl (fun t m => t.receive m) u) ∧
      (u.link p).expect = ((s.link p).expect + 1) % 4096 ∧ (u.link p).rxCtr = (s.link p).rxCtr + 1 ∧ u.mem = s.mem ∧
      ((s.link p).state = .up → u.out = s.out)) ∧
  (∀ p f s, (s.link p).usable = true → f.intact = false → f.kind = 1 → (s.link p).nakSent = false →
    ∃ t, exec (.flitReceive p f) s = .next t ∧ (t.link p).state = .replaying ∧ (t.link p).nakOwed = true ∧
      (t.link p).expect = (s.link p).expect ∧ (t.link p).rxCtr = (s.link p).rxCtr + 1 ∧ t.mem = s.mem) ∧
  (∀ p f s, (s.link p).usable = true → f.intact = true → f.tagOk = false ∨ f.keysel ≠ (s.link p).keysel → 3 ≤ (s.link p).gcmFails →
    ∃ t, exec (.flitReceive p f) s = .next t ∧ (t.link p).state = .retraining ∧ Out.security p ∈ t.out) ∧
  (∀ p a s i, (s.link p).usable = true → (s.link p).held.findIdx? (fun f => f.fseq = a) = some i →
    ∃ t, exec (.nak p a) s = .next t ∧ (t.link p).held = (s.link p).held.drop (i + 1) ∧
      ((t.link p).held ≠ [] → (t.link p).state = .replaying ∧ (t.link p).replay = some 0)) ∧
  (∀ p s, (s.link p).ackLate = true → ∃ t, exec (.ackTimeout p) s = .next t ∧ (t.link p).state = .replaying ∧
    (t.link p).replay = some 0 ∧ (t.link p).held = (s.link p).held) ∧
  (∀ p s, (s.link p).replaySpent = true → ∃ t, exec (.replayLimit p) s = .next t ∧ (t.link p).state = .retraining) ∧
  (∀ p s, (s.link p).state = .up → 2 ^ 40 ≤ (s.link p).keySlots → ∃ t, exec (.linkRekey p) s = .next t ∧
    let k := fun sends => Config.linkKey p s.tick sends
    (t.link p).txKey = (k true).extractLsb' 32 256 ∧ (t.link p).txSalt = (k true).extractLsb' 0 32 ∧
    (t.link p).rxKey = (k false).extractLsb' 32 256 ∧ (t.link p).rxSalt = (k false).extractLsb' 0 32 ∧
    (t.link p).keysel = !(s.link p).keysel ∧ (t.link p).txCtr = 0 ∧ (t.link p).rxCtr = 0 ∧ (t.link p).keySlots = 0 ∧
    (t.link p).held = (s.link p).held) ∧
  (∀ p s, (s.link p).usable = true → ∃ t, exec (.slotAlignmentLost p) s = .next t ∧ (t.link p).state = .retraining) ∧
  (∀ p s, (s.link p).slotDue s.now = true → ∃ t, exec (.flitSlot p) s = .next t ∧ (t.link p).txCtr = (s.link p).txCtr + 1 ∧
    (t.link p).slots = (s.link p).slots + 1 ∧ (t.link p).state = (s.link p).state ∧ t.lanes = s.lanes ∧ t.mem = s.mem ∧
    ((s.link p).replay = none → (s.link p).txq = [] → t.out = s.out ++
      [.flit p (s.link p).txCtr (s.link p).txSalt (s.link p).keysel 0 0 (((s.link p).expect + 4095) % 4096) (s.link p).nakOwed []]) ∧
    ((s.link p).replay = none → (s.link p).txq ≠ [] → (s.link p).held.length < 256 →
      let x := packMsgs 232 (s.link p).txq
      t.out = s.out ++ [.flit p (s.link p).txCtr (s.link p).txSalt (s.link p).keysel 1 (s.link p).fseq (
        ((s.link p).expect + 4095) % 4096) (s.link p).nakOwed x.1] ∧
        (t.link p).txq = x.2 ∧ (t.link p).fseq = ((s.link p).fseq + 1) % 4096 ∧
        (t.link p).held = (s.link p).held ++ [⟨(s.link p).fseq, x.1, 1, (s.link p).slots⟩])) ∧
  (∀ q s, s.unreachable q = true → (∃ t, exec (.peerUnreachable q) s = .next t) ∧
    ((∀ p ∈ s.outst, ∀ r, p.2.place ≠ .remote q r) → exec (.peerUnreachable q) s = .next ((s.dropUnsent q).leaseLost q))) ∧
  (∀ q s, q < 640 → q ≠ s.parish → (∀ p ∈ s.outst, ∀ r, p.2.place ≠ .remote q r) → (∀ h ∈ s.heldReqs, h.2.m.src ≠ q) →
    ∃ t k, exec (.sealingKeyAgree q) s = .next t ∧ t.keys.get? q = some k ∧ k.prev = (s.keys.getD q ⟨none, none, 0⟩).cur ∧
      k.cur = some (match (s.keys.getD q ⟨none, none, 0⟩).cur with | some i => (i + 1) % 4096 | none => 0) ∧
      (∀ p ∈ t.pseqs, p.1 / 4 ≠ q) ∧ (∀ p ∈ t.counts, p.1 / 4 ≠ q) ∧ t.mem = s.mem)

/-! ## The whole machine (R21, R29 to R45, R88, R130, R377) -/

/-- R21, R29 to R44: decoding an encoded well-formed instruction gives it back, wherever it stands, and a word that decodes is the
encoding of what it decodes to: no two words stand for one instruction, and no bit of a word is dropped. -/
def Obligations.DecodeEncode : Prop :=
  (∀ i, wellFormed i = true → decode (encode i) = .ok i ∧
    ∀ rest, decodeBytes (wordBytes (encode i) ++ rest) = some (i, rest)) ∧
  (∀ w i, decode w = .ok i → encode i = w)

/-- Every step keeps device memory and host memory in canonical form: from every state that has it, not only from those a run
reaches. -/
def Obligations.StepKeepsMemoryCanonical : Prop := ∀ s t, s.memOk → step s = .next t → t.memOk

/-- Numbers are never given twice: where every number in use has been given (`NumbersUsed`), a step keeps it so, from every such
state; and it is so at reset. (Numbers are the model's own names for what is outstanding; no program reads them.) -/
def Obligations.StepKeepsNumbersUsed : Prop :=
  State.reset.NumbersUsed ∧ ∀ s t, s.NumbersUsed → step s = .next t → t.NumbersUsed

/-- R113, R117, R379, R406, R425, R426: what reset leaves. Beside the values that the rules give, the registers of a lane and of a
group read zero: that is the model's choice (log entry 10). -/
def Obligations.ResetState : Prop :=
  State.reset.memOk ∧ State.reset.bootstat = 0 ∧ State.reset.sweepCur = 0 ∧ State.reset.sweepDone = 0 ∧
    State.reset.pass = none ∧ (∀ g, frameEntry State.reset.frames g = 0 ∧ Fst.state (frameEntry State.reset.frames g) = Fst.free) ∧
    (∀ k, (State.reset.grant k).valid = false) ∧ (∀ p, (State.reset.link p).state = .off) ∧
    (∀ k, (State.reset.monitor k).ctl = 0 ∧ (State.reset.monitor k).value = 0) ∧ (∀ c, (State.reset.ctx c).state = .free) ∧
    (∀ lk, (State.reset.lane lk).state = .empty) ∧ (∀ lk f k, State.reset.reg lk f k = 0 ∧ State.reset.quadTag lk f k = false)

/-- R21, R45, R175, R267, R371: when a port is the one thing that may act, nothing is due at this instant, the port fits into the
present cycle, as it does at the begin of one, and the word at the program counter decodes to an instruction that nothing delays, a
step is that instruction's execution, with what surrounds it: the line is in the instruction cache where the word is fetched now, the
instruction is noted, and time passes. The word is the one that its issue slot has fetched before, or else the eight bytes at its
address, low byte first. An event that has reached the device is executed before anything else of its cycle. What passing time leaves
alone, where no PREF has its line, is stated, and that it never passes a multiple of 1,024 of the reference counter. (What the fetch
buffer holds, and how the steps of a cycle follow each other, is the model's choice: log entries 14, 3, 4 and 73.) -/
def Obligations.StepRunsDecoded : Prop :=
  (∀ (s : State) k p c w i q, s.power = true → s.inbox = [] → s.atOnce = [] → s.forced = [] → s.acts = [.port k p] → p ≤ 1 →
    s.actFits (.port k p) = some q → (p = 0 → (s.islot k).c1 = none) → (s.islot k).clause p = some c →
    s.liveMask (k / 4 * 64 + c.gslot) c ≠ 0 → (s.held (k / 4 * 64 + c.gslot) = false ∨ (s.islot k).snap.isSome = true) →
    let pc := c.hdr + 8 + BitVec.ofNat 64 (8 * c.idx)
    let v : State := { s with rank := q }
    let u := (if (c.words.get? c.idx).isSome then v else v.fetchFill (k / 4) pc.toNat).withCur k p c w
    s.portWord k p (k / 4 * 64 + c.gslot) c pc = .word w → decode (s.issueWord w c.sub) = .ok i →
    ((s.islot k).snap.isSome = true ∨ u.blocked i = false) → u.lateLanes = [] →
    step s = afterStep (match exec i u with
        | .next t =>
          let t1 := { t with rank := if endsCycle i then some Rank.last else t.rank }
          .next (if p = 0 then t1 else t1.modISlot k fun x => { x with snap := none })
        | r => r) ∧
      u.cur.pc = pc ∧ u.cur.word = w ∧ u.cur.core = k / 4 ∧ u.cur.port = p ∧ u.lanes = s.lanes ∧ u.groups = s.groups ∧
      u.mem = s.mem) ∧
  (∀ (s : State) k p c, (s.islot k).clause p = some c → s.rank = none → (s.die (k / 4 / 256)).duty = false →
    ∃ q, s.actFits (.port k p) = some q) ∧
  (∀ (s : State) k p gk c pc, (s.islot k).snap = none → s.portWord k p gk c pc = s.clauseWord gk c pc) ∧
  (∀ (s : State) gk c pc, (∀ w, c.words.get? c.idx = some w → s.clauseWord gk c pc = .word w) ∧
    (c.words.get? c.idx = none → s.clauseWord gk c pc = s.fetch (s.teamOf gk) pc)) ∧
  (∀ (s : State) t pc v a nc, s.vers.get? (s.team t).ver = some v →
    checkAccess (v.cap, true) (s.ctx (s.team t).ctx).colour accExec Perm.exec pc.toNat 8 = none → regionOf pc.toNat = .local →
    gate s.frames s.spares (s.ctx (s.team t).ctx).colour pc.toNat false = .go a nc →
    s.icacheWord (s.team t).core pc.toNat = none →
    ∃ w, s.fetch t pc = .word w ∧ ∀ j < 8, w.extractLsb' (8 * j) 8 = s.mem.byte (a + j)) ∧
  (∀ (s : State) e rest, s.power = true → s.inbox = e :: rest → s.rank = none → (∀ p ∈ s.islots, p.2.snap = none) →
    step s = afterStep (exec e { s with inbox := rest, rank := some Rank.last })) ∧
  (∀ s : State, s.power = false → step s = .fault .poweredOff) ∧
  (∀ s : State, afterStep (.next s) = .next s.advance) ∧
  (∀ s : State, (∀ p ∈ s.reqs, ∀ n c a, p.2.user ≠ .fill n c a) → s.advance.lanes = s.lanes ∧ s.advance.mem = s.mem ∧
    s.advance.tags = s.tags ∧ s.advance.tick = s.tick + 1 ∧ s.advance.now = s.now + s.cycles ∧
    s.advance.now ≤ (s.now / 1024 + 1) * 1024 ∧
    ∀ g, s.advance.group g = { s.group g with lastIssue := (s.advance.group g).lastIssue } ∧
      (s.held g = false → s.advance.group g = s.group g))

/-- R35 to R42: words that the manual writes out decode to the instructions it writes them for. -/
def Obligations.DecodeWords : Prop :=
  decode 0x1001800008080A00 = .ok (.iadd ⟨0, 1, 0x800, 1, 2, 5, 0⟩) ∧
  decode 0x80B4260040400E04 = .ok (.ld ⟨11, 4, 2, 3, 0, 0, 0, 0, 8, 0x010, 7, 4⟩) ∧
  decode 0x30000A003F800000 = .ok (.movi ⟨0, 0, 5, 0, 0x3F800000⟩) ∧
  decode 0x01000000FFFFFFFA = .ok (.bra ⟨0, 0, 0, 0, 0xFFFFFFFA⟩) ∧
  decode 0xD100030005000001 = .ok (.swrite ⟨0, 0x30, 0, 0x140, 1⟩) ∧
  decode 0xA201104080800540 = .ok (.wload ⟨0, 1, 1, 0, 4, 0x010, 0x020, 0x002, 0x140⟩) ∧
  decode 0x4303000020040403 = .ok (.ffma ⟨0, 3, 0, 4, 1, 2, 3⟩) ∧
  decode 0x6803000028100000 = .ok (.gredux ⟨0, 3, 0, 5, 4, 0, 0⟩) ∧
  decode 0x7100300010000000 = .ok (.barv ⟨0, 0, 3, 0, 0, 2, 0, 0, 0⟩) ∧
  decode 0x9104001100400400 = .ok (.csetb ⟨0, 4, 1, 0x020, 0x010, 2, 0⟩) ∧
  decode 0xB000103104400000 = .ok (.xcopy ⟨0, 0, 1, 0, 3, 0x020, 0x110, 0, 0⟩) ∧
  decode 0xC000001000802000 = .ok (.qput ⟨0, 0, 1, 0, 0x020, 0x010, 0⟩) ∧
  decode 0xC800001018000000 = .ok (.regacqTry ⟨0, 1, 3, 0, 0⟩) ∧
  decode 0xE700001010404000 = .ok (.leaseopAccept ⟨0, 0, 1, 2, 0x010, 0x020, 0⟩) ∧
  decode 0 = .error .zero ∧ decode 0xFE21000900010080 = .error .header ∧ decode 0x0B00000000000000 = .error (.retired 0x0B)

/-- R30, R32, R33, R88, R377: what a result leaves readable. A vector register holds it, its quad's tag is clear and its poison
gone, and no other register of the lane has changed; a uniform register likewise in the group; a quad carries the tag given; a
predicate holds it; a write to ZERO or p0 changes nothing, and ZERO reads zero with a clear tag, p0 true. -/
def Obligations.RegisterResults : Prop :=
  (∀ (l : Lane) (f : BitVec 9) k v, f.toNat < 0x100 → let t := l.put (.reg f k v)
    t.regs.getD (f.toNat + k) 0 = v ∧ (f.toNat + k) / 4 ∉ t.tags ∧ f.toNat + k ∉ t.poison ∧
      (∀ r, r ≠ f.toNat + k → t.regs.getD r 0 = l.regs.getD r 0 ∧ (r ∈ t.poison ↔ r ∈ l.poison)) ∧
      (∀ q, q ≠ (f.toNat + k) / 4 → (q ∈ t.tags ↔ q ∈ l.tags)) ∧ t.preds = l.preds ∧ t.pc = l.pc ∧ t.state = l.state) ∧
  (∀ (l : Lane) (f : BitVec 9) k v tag, f.toNat < 0x100 → let q := f.toNat / 4 + k
    let t := l.put (.quad f k v tag)
    (∀ j < 4, t.regs.getD (4 * q + j) 0 = v.extractLsb' (32 * j) 32 ∧ 4 * q + j ∉ t.poison) ∧ (q ∈ t.tags ↔ tag = true) ∧
      (∀ r, r / 4 ≠ q → t.regs.getD r 0 = l.regs.getD r 0) ∧ (∀ p, p ≠ q → (p ∈ t.tags ↔ p ∈ l.tags))) ∧
  (∀ (g : Group) (f : BitVec 9) k v, 0x100 ≤ f.toNat → f.toNat < 0x140 → let n := f.toNat - 0x100 + k
    let t := g.put (.reg f k v)
    t.sregs.getD n 0 = v ∧ n / 4 ∉ t.stags ∧ n ∉ t.spoison ∧ (∀ r, r ≠ n → t.sregs.getD r 0 = g.sregs.getD r 0) ∧
      (∀ q, q ≠ n / 4 → (q ∈ t.stags ↔ q ∈ g.stags))) ∧
  (∀ (g : Group) (f : BitVec 9) k v tag, 0x100 ≤ f.toNat → f.toNat < 0x140 → let q := (f.toNat - 0x100) / 4 + k
    let t := g.put (.quad f k v tag)
    (∀ j < 4, t.sregs.getD (4 * q + j) 0 = v.extractLsb' (32 * j) 32) ∧ (q ∈ t.stags ↔ tag = true) ∧
      (∀ r, r / 4 ≠ q → t.sregs.getD r 0 = g.sregs.getD r 0)) ∧
  (∀ (l : Lane) (g : Group) (f : BitVec 9) k v q tag,
    (0x100 ≤ f.toNat → l.put (.reg f k v) = l ∧ l.put (.quad f k q tag) = l) ∧
    (f.toNat < 0x100 ∨ 0x140 ≤ f.toNat → g.put (.reg f k v) = g ∧ g.put (.quad f k q tag) = g)) ∧
  (∀ (l : Lane) b, l.put (.pred 0 b) = l ∧ ∀ k, 1 ≤ k → k < 8 → (l.put (.pred k b)).preds.getLsbD k = b ∧
    (∀ j, j ≠ k → (l.put (.pred k b)).preds.getLsbD j = l.preds.getLsbD j) ∧ (l.put (.pred k b)).regs = l.regs) ∧
  (∀ (s : State) lk (f : BitVec 9) k, 0x140 ≤ f.toNat → s.reg lk f k = 0 ∧ s.quadTag lk f k = false) ∧
  (∀ (s : State) lk, s.pred lk 0 = true)
end

