-- ==== Sys2Proof/Laws/Bytes.lean ====
section
/-! SUPPORT. Bytes and numbers, and the lengths of what the block cipher answers: every operation over blocks and tags cites
these instead of unfolding the cipher. -/

namespace Sys2Proof.Machine

@[simp] theorem natBytes_length : ∀ n x, (natBytes n x).length = n
  | 0, _ => rfl
  | n + 1, x => by simp [natBytes, natBytes_length n]

theorem bytesNat_natBytes : ∀ n x, x < 256 ^ n → bytesNat (natBytes n x) = x
  | 0, x, h => by simp [natBytes, bytesNat]; omega
  | n + 1, x, h => by
    have : x / 256 < 256 ^ n := by rw [Nat.div_lt_iff_lt_mul (by decide)]; rw [Nat.pow_succ] at h; exact h
    simp only [natBytes, bytesNat, BitVec.toNat_ofNat, bytesNat_natBytes n _ this]
    omega

theorem bytesNat_lt : ∀ b : List Byte, bytesNat b < 256 ^ b.length
  | [] => by simp [bytesNat]
  | b :: bs => by
    have := bytesNat_lt bs
    have hb := b.isLt
    simp only [bytesNat, List.length_cons, Nat.pow_succ]
    omega

theorem natBytes_bytesNat : ∀ b : List Byte, natBytes b.length (bytesNat b) = b
  | [] => rfl
  | b :: bs => by
    have hb := b.isLt
    simp only [bytesNat, List.length_cons, natBytes]
    rw [show (b.toNat + 256 * bytesNat bs) / 256 = bytesNat bs by omega, natBytes_bytesNat bs]
    congr 1
    apply BitVec.eq_of_toNat_eq
    simp only [BitVec.toNat_ofNat]
    omega

/-- Exclusive or with a stream of the same length, twice, gives the bytes back. -/
theorem xorBytes_xorBytes : ∀ a s : List Byte, a.length = s.length → xorBytes (xorBytes a s) s = a
  | [], [], _ => rfl
  | a :: as, s :: ss, h => by
    have ih := xorBytes_xorBytes as ss (by simpa using h)
    simp only [xorBytes, List.zipWith_cons_cons] at ih ⊢
    rw [ih, BitVec.xor_assoc, BitVec.xor_self, BitVec.xor_zero]

@[simp] theorem xorBytes_length (a b : List Byte) : (xorBytes a b).length = min a.length b.length := by simp [xorBytes]

@[simp] theorem shiftRows_length (s : List Byte) : (shiftRows s).length = 16 := by simp [shiftRows]

/-- A key schedule grows by one word of four bytes at a time. -/
theorem aesExpand_length : ∀ n i ws, 8 ≤ ws.length → (∀ w ∈ ws, w.length = 4) →
    (aesExpand n i ws).length = n + ws.length ∧ ∀ w ∈ aesExpand n i ws, w.length = 4
  | 0, _, ws, _, h => by simpa [aesExpand] using h
  | n + 1, i, ws, hn, h => by
    obtain ⟨p, rest, rfl⟩ : ∃ p rest, ws = p :: rest := by
      cases ws with
      | nil => simp at hn
      | cons p rest => exact ⟨p, rest, rfl⟩
    have hp : p.length = 4 := h p (by simp)
    have hg : ((p :: rest).getD 7 []).length = 4 := by
      rw [List.getD_eq_getElem _ _ (by omega)]
      exact h _ (List.getElem_mem _)
    simp only [aesExpand, List.headD_cons]
    refine And.imp_left (fun e => by rw [e]; simp; omega) (aesExpand_length n (i + 1) _ (by simp at hn ⊢; omega) ?_)
    intro w hw
    rcases List.mem_cons.1 hw with rfl | hw
    · rw [xorBytes_length, hg]
      split_ifs <;> simp [hp]
    · exact h w hw

/-- Each round key of a 32-byte key has 16 bytes. -/
theorem aesKeys_length (key : List Byte) (h : key.length = 32) (r : Nat) (hr : r < 15) : ((aesKeys key).getD r []).length = 16 := by
  have hw := aesExpand_length 52 8 (((List.range 8).map fun i => (key.drop (4 * i)).take 4).reverse) (by simp) (by
    intro w hw
    simp only [List.mem_reverse, List.mem_map, List.mem_range] at hw
    obtain ⟨i, hi, rfl⟩ := hw
    simp only [List.length_take, List.length_drop, h]
    omega)
  simp only [aesKeys]
  rw [List.getD_eq_getElem _ _ (by simpa using hr)]
  simp only [List.getElem_map, List.getElem_range]
  generalize aesExpand 52 8 _ = ws at hw
  have hl : ((ws.reverse.drop (4 * r)).take 4).length = 4 := by
    simp only [List.length_take, List.length_drop, List.length_reverse, hw.1]
    simp
    omega
  have hm : ∀ w ∈ (ws.reverse.drop (4 * r)).take 4, w.length = 4 := fun w hw' =>
    hw.2 w (List.mem_reverse.1 (List.mem_of_mem_drop (List.mem_of_mem_take hw')))
  generalize (ws.reverse.drop (4 * r)).take 4 = q at hl hm
  match q, hl with
  | [a, b, c, d], _ => simp [hm a, hm b, hm c, hm d]

/-- The cipher answers 16 bytes to a 32-byte key. -/
theorem aes256_length (key block : List Byte) (h : key.length = 32) : (aes256 key block).length = 16 := by
  simp only [aes256, xorBytes_length, shiftRows_length, aesKeys_length key h 14 (by decide), Nat.min_self]

/-- The encryption key that R103 derives has 32 bytes. -/
theorem sivKeys_length (key nonce : List Byte) (h : key.length = 32) : (sivKeys key nonce).2.length = 32 := by
  simp [sivKeys, aes256_length _ _ h]

theorem sivTag_length (key nonce pt : List Byte) (h : key.length = 32) : (sivTag key nonce pt).length = 16 := by
  simp only [sivTag]
  exact aes256_length _ _ (sivKeys_length key nonce h)

theorem sivStream_length (key nonce mac : List Byte) (h : key.length = 32) : (sivStream key nonce mac).length = 16 :=
  aes256_length _ _ (sivKeys_length key nonce h)

/-- A GCM tag has 16 bytes. -/
theorem gcmTag_length (key : BitVec 256) (nonce aad : List Byte) : (gcmTag key nonce aad).length = 16 := by
  simp [gcmTag, beBytes, aes256_length]

end Sys2Proof.Machine
end

