-- ==== Sys2Proof/Laws/State.lean ====
section
/-! SUPPORT. What each update of the state leaves of each field, and what it reads as afterwards. -/

namespace Sys2Proof.Machine

/-! ## setLane -/

@[simp] theorem setLane_tick (s : State) (lk : Nat) (l : Lane) : (s.setLane lk l).tick = s.tick := rfl
@[simp] theorem setLane_now (s : State) (lk : Nat) (l : Lane) : (s.setLane lk l).now = s.now := rfl
@[simp] theorem setLane_inbox (s : State) (lk : Nat) (l : Lane) : (s.setLane lk l).inbox = s.inbox := rfl
@[simp] theorem setLane_out (s : State) (lk : Nat) (l : Lane) : (s.setLane lk l).out = s.out := rfl
@[simp] theorem setLane_cur (s : State) (lk : Nat) (l : Lane) : (s.setLane lk l).cur = s.cur := rfl
@[simp] theorem setLane_rank (s : State) (lk : Nat) (l : Lane) : (s.setLane lk l).rank = s.rank := rfl
@[simp] theorem setLane_fresh (s : State) (lk : Nat) (l : Lane) : (s.setLane lk l).fresh = s.fresh := rfl
@[simp] theorem setLane_power (s : State) (lk : Nat) (l : Lane) : (s.setLane lk l).power = s.power := rfl
@[simp] theorem setLane_lanes (s : State) (lk : Nat) (l : Lane) : (s.setLane lk l).lanes = s.lanes.set lk l := rfl
@[simp] theorem setLane_groups (s : State) (lk : Nat) (l : Lane) : (s.setLane lk l).groups = s.groups := rfl
@[simp] theorem setLane_islots (s : State) (lk : Nat) (l : Lane) : (s.setLane lk l).islots = s.islots := rfl
@[simp] theorem setLane_teams (s : State) (lk : Nat) (l : Lane) : (s.setLane lk l).teams = s.teams := rfl
@[simp] theorem setLane_ctxs (s : State) (lk : Nat) (l : Lane) : (s.setLane lk l).ctxs = s.ctxs := rfl
@[simp] theorem setLane_launches (s : State) (lk : Nat) (l : Lane) : (s.setLane lk l).launches = s.launches := rfl
@[simp] theorem setLane_mem (s : State) (lk : Nat) (l : Lane) : (s.setLane lk l).mem = s.mem := rfl
@[simp] theorem setLane_tags (s : State) (lk : Nat) (l : Lane) : (s.setLane lk l).tags = s.tags := rfl
@[simp] theorem setLane_poison (s : State) (lk : Nat) (l : Lane) : (s.setLane lk l).poison = s.poison := rfl
@[simp] theorem setLane_hostMem (s : State) (lk : Nat) (l : Lane) : (s.setLane lk l).hostMem = s.hostMem := rfl
@[simp] theorem setLane_l1 (s : State) (lk : Nat) (l : Lane) : (s.setLane lk l).l1 = s.l1 := rfl
@[simp] theorem setLane_icache (s : State) (lk : Nat) (l : Lane) : (s.setLane lk l).icache = s.icache := rfl
@[simp] theorem setLane_sync (s : State) (lk : Nat) (l : Lane) : (s.setLane lk l).sync = s.sync := rfl
@[simp] theorem setLane_notices (s : State) (lk : Nat) (l : Lane) : (s.setLane lk l).notices = s.notices := rfl
@[simp] theorem setLane_outst (s : State) (lk : Nat) (l : Lane) : (s.setLane lk l).outst = s.outst := rfl
@[simp] theorem setLane_reqs (s : State) (lk : Nat) (l : Lane) : (s.setLane lk l).reqs = s.reqs := rfl
@[simp] theorem setLane_msc (s : State) (lk : Nat) (l : Lane) : (s.setLane lk l).msc = s.msc := rfl
@[simp] theorem setLane_fences (s : State) (lk : Nat) (l : Lane) : (s.setLane lk l).fences = s.fences := rfl
@[simp] theorem setLane_cmds (s : State) (lk : Nat) (l : Lane) : (s.setLane lk l).cmds = s.cmds := rfl
@[simp] theorem setLane_xrecs (s : State) (lk : Nat) (l : Lane) : (s.setLane lk l).xrecs = s.xrecs := rfl
@[simp] theorem setLane_mma (s : State) (lk : Nat) (l : Lane) : (s.setLane lk l).mma = s.mma := rfl
@[simp] theorem setLane_wloads (s : State) (lk : Nat) (l : Lane) : (s.setLane lk l).wloads = s.wloads := rfl
@[simp] theorem setLane_jobs (s : State) (lk : Nat) (l : Lane) : (s.setLane lk l).jobs = s.jobs := rfl
@[simp] theorem setLane_queues (s : State) (lk : Nat) (l : Lane) : (s.setLane lk l).queues = s.queues := rfl
@[simp] theorem setLane_pools (s : State) (lk : Nat) (l : Lane) : (s.setLane lk l).pools = s.pools := rfl
@[simp] theorem setLane_fwq (s : State) (lk : Nat) (l : Lane) : (s.setLane lk l).fwq = s.fwq := rfl
@[simp] theorem setLane_fwWait (s : State) (lk : Nat) (l : Lane) : (s.setLane lk l).fwWait = s.fwWait := rfl
@[simp] theorem setLane_records (s : State) (lk : Nat) (l : Lane) : (s.setLane lk l).records = s.records := rfl
@[simp] theorem setLane_vers (s : State) (lk : Nat) (l : Lane) : (s.setLane lk l).vers = s.vers := rfl
@[simp] theorem setLane_lastVer (s : State) (lk : Nat) (l : Lane) : (s.setLane lk l).lastVer = s.lastVer := rfl
@[simp] theorem setLane_mrt (s : State) (lk : Nat) (l : Lane) : (s.setLane lk l).mrt = s.mrt := rfl
@[simp] theorem setLane_comms (s : State) (lk : Nat) (l : Lane) : (s.setLane lk l).comms = s.comms := rfl
@[simp] theorem setLane_grants (s : State) (lk : Nat) (l : Lane) : (s.setLane lk l).grants = s.grants := rfl
@[simp] theorem setLane_keys (s : State) (lk : Nat) (l : Lane) : (s.setLane lk l).keys = s.keys := rfl
@[simp] theorem setLane_frames (s : State) (lk : Nat) (l : Lane) : (s.setLane lk l).frames = s.frames := rfl
@[simp] theorem setLane_spares (s : State) (lk : Nat) (l : Lane) : (s.setLane lk l).spares = s.spares := rfl
@[simp] theorem setLane_sweepCur (s : State) (lk : Nat) (l : Lane) : (s.setLane lk l).sweepCur = s.sweepCur := rfl
@[simp] theorem setLane_sweepDone (s : State) (lk : Nat) (l : Lane) : (s.setLane lk l).sweepDone = s.sweepDone := rfl
@[simp] theorem setLane_sweepQueued (s : State) (lk : Nat) (l : Lane) : (s.setLane lk l).sweepQueued = s.sweepQueued := rfl
@[simp] theorem setLane_pass (s : State) (lk : Nat) (l : Lane) : (s.setLane lk l).pass = s.pass := rfl
@[simp] theorem setLane_leases (s : State) (lk : Nat) (l : Lane) : (s.setLane lk l).leases = s.leases := rfl
@[simp] theorem setLane_leaseGens (s : State) (lk : Nat) (l : Lane) : (s.setLane lk l).leaseGens = s.leaseGens := rfl
@[simp] theorem setLane_links (s : State) (lk : Nat) (l : Lane) : (s.setLane lk l).links = s.links := rfl
@[simp] theorem setLane_routes (s : State) (lk : Nat) (l : Lane) : (s.setLane lk l).routes = s.routes := rfl
@[simp] theorem setLane_rnums (s : State) (lk : Nat) (l : Lane) : (s.setLane lk l).rnums = s.rnums := rfl
@[simp] theorem setLane_unsent (s : State) (lk : Nat) (l : Lane) : (s.setLane lk l).unsent = s.unsent := rfl
@[simp] theorem setLane_asked (s : State) (lk : Nat) (l : Lane) : (s.setLane lk l).asked = s.asked := rfl
@[simp] theorem setLane_farDown (s : State) (lk : Nat) (l : Lane) : (s.setLane lk l).farDown = s.farDown := rfl
@[simp] theorem setLane_cut (s : State) (lk : Nat) (l : Lane) : (s.setLane lk l).cut = s.cut := rfl
@[simp] theorem setLane_parts (s : State) (lk : Nat) (l : Lane) : (s.setLane lk l).parts = s.parts := rfl
@[simp] theorem setLane_kept (s : State) (lk : Nat) (l : Lane) : (s.setLane lk l).kept = s.kept := rfl
@[simp] theorem setLane_pseqs (s : State) (lk : Nat) (l : Lane) : (s.setLane lk l).pseqs = s.pseqs := rfl
@[simp] theorem setLane_counts (s : State) (lk : Nat) (l : Lane) : (s.setLane lk l).counts = s.counts := rfl
@[simp] theorem setLane_heldReqs (s : State) (lk : Nat) (l : Lane) : (s.setLane lk l).heldReqs = s.heldReqs := rfl
@[simp] theorem setLane_legs (s : State) (lk : Nat) (l : Lane) : (s.setLane lk l).legs = s.legs := rfl
@[simp] theorem setLane_rdma (s : State) (lk : Nat) (l : Lane) : (s.setLane lk l).rdma = s.rdma := rfl
@[simp] theorem setLane_rdmaNum (s : State) (lk : Nat) (l : Lane) : (s.setLane lk l).rdmaNum = s.rdmaNum := rfl
@[simp] theorem setLane_iqueues (s : State) (lk : Nat) (l : Lane) : (s.setLane lk l).iqueues = s.iqueues := rfl
@[simp] theorem setLane_monitors (s : State) (lk : Nat) (l : Lane) : (s.setLane lk l).monitors = s.monitors := rfl
@[simp] theorem setLane_dies (s : State) (lk : Nat) (l : Lane) : (s.setLane lk l).dies = s.dies := rfl
@[simp] theorem setLane_images (s : State) (lk : Nat) (l : Lane) : (s.setLane lk l).images = s.images := rfl
@[simp] theorem setLane_discarded (s : State) (lk : Nat) (l : Lane) : (s.setLane lk l).discarded = s.discarded := rfl
@[simp] theorem setLane_parish (s : State) (lk : Nat) (l : Lane) : (s.setLane lk l).parish = s.parish := rfl
@[simp] theorem setLane_bootstat (s : State) (lk : Nat) (l : Lane) : (s.setLane lk l).bootstat = s.bootstat := rfl
@[simp] theorem setLane_secver (s : State) (lk : Nat) (l : Lane) : (s.setLane lk l).secver = s.secver := rfl
@[simp] theorem setLane_fuseMin (s : State) (lk : Nat) (l : Lane) : (s.setLane lk l).fuseMin = s.fuseMin := rfl
@[simp] theorem setLane_identity (s : State) (lk : Nat) (l : Lane) : (s.setLane lk l).identity = s.identity := rfl
@[simp] theorem setLane_firmware (s : State) (lk : Nat) (l : Lane) : (s.setLane lk l).firmware = s.firmware := rfl
@[simp] theorem setLane_lastRefill (s : State) (lk : Nat) (l : Lane) : (s.setLane lk l).lastRefill = s.lastRefill := rfl
@[simp] theorem setLane_lastUpdate (s : State) (lk : Nat) (l : Lane) : (s.setLane lk l).lastUpdate = s.lastUpdate := rfl
@[simp] theorem setLane_governed (s : State) (lk : Nat) (l : Lane) : (s.setLane lk l).governed = s.governed := rfl
@[simp] theorem setLane_thermalAt (s : State) (lk : Nat) (l : Lane) : (s.setLane lk l).thermalAt = s.thermalAt := rfl

/-! ## setGroup -/

@[simp] theorem setGroup_tick (s : State) (gk : Nat) (g : Group) : (s.setGroup gk g).tick = s.tick := rfl
@[simp] theorem setGroup_now (s : State) (gk : Nat) (g : Group) : (s.setGroup gk g).now = s.now := rfl
@[simp] theorem setGroup_inbox (s : State) (gk : Nat) (g : Group) : (s.setGroup gk g).inbox = s.inbox := rfl
@[simp] theorem setGroup_out (s : State) (gk : Nat) (g : Group) : (s.setGroup gk g).out = s.out := rfl
@[simp] theorem setGroup_cur (s : State) (gk : Nat) (g : Group) : (s.setGroup gk g).cur = s.cur := rfl
@[simp] theorem setGroup_rank (s : State) (gk : Nat) (g : Group) : (s.setGroup gk g).rank = s.rank := rfl
@[simp] theorem setGroup_fresh (s : State) (gk : Nat) (g : Group) : (s.setGroup gk g).fresh = s.fresh := rfl
@[simp] theorem setGroup_power (s : State) (gk : Nat) (g : Group) : (s.setGroup gk g).power = s.power := rfl
@[simp] theorem setGroup_lanes (s : State) (gk : Nat) (g : Group) : (s.setGroup gk g).lanes = s.lanes := rfl
@[simp] theorem setGroup_groups (s : State) (gk : Nat) (g : Group) : (s.setGroup gk g).groups = s.groups.set gk g := rfl
@[simp] theorem setGroup_islots (s : State) (gk : Nat) (g : Group) : (s.setGroup gk g).islots = s.islots := rfl
@[simp] theorem setGroup_teams (s : State) (gk : Nat) (g : Group) : (s.setGroup gk g).teams = s.teams := rfl
@[simp] theorem setGroup_ctxs (s : State) (gk : Nat) (g : Group) : (s.setGroup gk g).ctxs = s.ctxs := rfl
@[simp] theorem setGroup_launches (s : State) (gk : Nat) (g : Group) : (s.setGroup gk g).launches = s.launches := rfl
@[simp] theorem setGroup_mem (s : State) (gk : Nat) (g : Group) : (s.setGroup gk g).mem = s.mem := rfl
@[simp] theorem setGroup_tags (s : State) (gk : Nat) (g : Group) : (s.setGroup gk g).tags = s.tags := rfl
@[simp] theorem setGroup_poison (s : State) (gk : Nat) (g : Group) : (s.setGroup gk g).poison = s.poison := rfl
@[simp] theorem setGroup_hostMem (s : State) (gk : Nat) (g : Group) : (s.setGroup gk g).hostMem = s.hostMem := rfl
@[simp] theorem setGroup_l1 (s : State) (gk : Nat) (g : Group) : (s.setGroup gk g).l1 = s.l1 := rfl
@[simp] theorem setGroup_icache (s : State) (gk : Nat) (g : Group) : (s.setGroup gk g).icache = s.icache := rfl
@[simp] theorem setGroup_sync (s : State) (gk : Nat) (g : Group) : (s.setGroup gk g).sync = s.sync := rfl
@[simp] theorem setGroup_notices (s : State) (gk : Nat) (g : Group) : (s.setGroup gk g).notices = s.notices := rfl
@[simp] theorem setGroup_outst (s : State) (gk : Nat) (g : Group) : (s.setGroup gk g).outst = s.outst := rfl
@[simp] theorem setGroup_reqs (s : State) (gk : Nat) (g : Group) : (s.setGroup gk g).reqs = s.reqs := rfl
@[simp] theorem setGroup_msc (s : State) (gk : Nat) (g : Group) : (s.setGroup gk g).msc = s.msc := rfl
@[simp] theorem setGroup_fences (s : State) (gk : Nat) (g : Group) : (s.setGroup gk g).fences = s.fences := rfl
@[simp] theorem setGroup_cmds (s : State) (gk : Nat) (g : Group) : (s.setGroup gk g).cmds = s.cmds := rfl
@[simp] theorem setGroup_xrecs (s : State) (gk : Nat) (g : Group) : (s.setGroup gk g).xrecs = s.xrecs := rfl
@[simp] theorem setGroup_mma (s : State) (gk : Nat) (g : Group) : (s.setGroup gk g).mma = s.mma := rfl
@[simp] theorem setGroup_wloads (s : State) (gk : Nat) (g : Group) : (s.setGroup gk g).wloads = s.wloads := rfl
@[simp] theorem setGroup_jobs (s : State) (gk : Nat) (g : Group) : (s.setGroup gk g).jobs = s.jobs := rfl
@[simp] theorem setGroup_queues (s : State) (gk : Nat) (g : Group) : (s.setGroup gk g).queues = s.queues := rfl
@[simp] theorem setGroup_pools (s : State) (gk : Nat) (g : Group) : (s.setGroup gk g).pools = s.pools := rfl
@[simp] theorem setGroup_fwq (s : State) (gk : Nat) (g : Group) : (s.setGroup gk g).fwq = s.fwq := rfl
@[simp] theorem setGroup_fwWait (s : State) (gk : Nat) (g : Group) : (s.setGroup gk g).fwWait = s.fwWait := rfl
@[simp] theorem setGroup_records (s : State) (gk : Nat) (g : Group) : (s.setGroup gk g).records = s.records := rfl
@[simp] theorem setGroup_vers (s : State) (gk : Nat) (g : Group) : (s.setGroup gk g).vers = s.vers := rfl
@[simp] theorem setGroup_lastVer (s : State) (gk : Nat) (g : Group) : (s.setGroup gk g).lastVer = s.lastVer := rfl
@[simp] theorem setGroup_mrt (s : State) (gk : Nat) (g : Group) : (s.setGroup gk g).mrt = s.mrt := rfl
@[simp] theorem setGroup_comms (s : State) (gk : Nat) (g : Group) : (s.setGroup gk g).comms = s.comms := rfl
@[simp] theorem setGroup_grants (s : State) (gk : Nat) (g : Group) : (s.setGroup gk g).grants = s.grants := rfl
@[simp] theorem setGroup_keys (s : State) (gk : Nat) (g : Group) : (s.setGroup gk g).keys = s.keys := rfl
@[simp] theorem setGroup_frames (s : State) (gk : Nat) (g : Group) : (s.setGroup gk g).frames = s.frames := rfl
@[simp] theorem setGroup_spares (s : State) (gk : Nat) (g : Group) : (s.setGroup gk g).spares = s.spares := rfl
@[simp] theorem setGroup_sweepCur (s : State) (gk : Nat) (g : Group) : (s.setGroup gk g).sweepCur = s.sweepCur := rfl
@[simp] theorem setGroup_sweepDone (s : State) (gk : Nat) (g : Group) : (s.setGroup gk g).sweepDone = s.sweepDone := rfl
@[simp] theorem setGroup_sweepQueued (s : State) (gk : Nat) (g : Group) : (s.setGroup gk g).sweepQueued = s.sweepQueued := rfl
@[simp] theorem setGroup_pass (s : State) (gk : Nat) (g : Group) : (s.setGroup gk g).pass = s.pass := rfl
@[simp] theorem setGroup_leases (s : State) (gk : Nat) (g : Group) : (s.setGroup gk g).leases = s.leases := rfl
@[simp] theorem setGroup_leaseGens (s : State) (gk : Nat) (g : Group) : (s.setGroup gk g).leaseGens = s.leaseGens := rfl
@[simp] theorem setGroup_links (s : State) (gk : Nat) (g : Group) : (s.setGroup gk g).links = s.links := rfl
@[simp] theorem setGroup_routes (s : State) (gk : Nat) (g : Group) : (s.setGroup gk g).routes = s.routes := rfl
@[simp] theorem setGroup_rnums (s : State) (gk : Nat) (g : Group) : (s.setGroup gk g).rnums = s.rnums := rfl
@[simp] theorem setGroup_unsent (s : State) (gk : Nat) (g : Group) : (s.setGroup gk g).unsent = s.unsent := rfl
@[simp] theorem setGroup_asked (s : State) (gk : Nat) (g : Group) : (s.setGroup gk g).asked = s.asked := rfl
@[simp] theorem setGroup_farDown (s : State) (gk : Nat) (g : Group) : (s.setGroup gk g).farDown = s.farDown := rfl
@[simp] theorem setGroup_cut (s : State) (gk : Nat) (g : Group) : (s.setGroup gk g).cut = s.cut := rfl
@[simp] theorem setGroup_parts (s : State) (gk : Nat) (g : Group) : (s.setGroup gk g).parts = s.parts := rfl
@[simp] theorem setGroup_kept (s : State) (gk : Nat) (g : Group) : (s.setGroup gk g).kept = s.kept := rfl
@[simp] theorem setGroup_pseqs (s : State) (gk : Nat) (g : Group) : (s.setGroup gk g).pseqs = s.pseqs := rfl
@[simp] theorem setGroup_counts (s : State) (gk : Nat) (g : Group) : (s.setGroup gk g).counts = s.counts := rfl
@[simp] theorem setGroup_heldReqs (s : State) (gk : Nat) (g : Group) : (s.setGroup gk g).heldReqs = s.heldReqs := rfl
@[simp] theorem setGroup_legs (s : State) (gk : Nat) (g : Group) : (s.setGroup gk g).legs = s.legs := rfl
@[simp] theorem setGroup_rdma (s : State) (gk : Nat) (g : Group) : (s.setGroup gk g).rdma = s.rdma := rfl
@[simp] theorem setGroup_rdmaNum (s : State) (gk : Nat) (g : Group) : (s.setGroup gk g).rdmaNum = s.rdmaNum := rfl
@[simp] theorem setGroup_iqueues (s : State) (gk : Nat) (g : Group) : (s.setGroup gk g).iqueues = s.iqueues := rfl
@[simp] theorem setGroup_monitors (s : State) (gk : Nat) (g : Group) : (s.setGroup gk g).monitors = s.monitors := rfl
@[simp] theorem setGroup_dies (s : State) (gk : Nat) (g : Group) : (s.setGroup gk g).dies = s.dies := rfl
@[simp] theorem setGroup_images (s : State) (gk : Nat) (g : Group) : (s.setGroup gk g).images = s.images := rfl
@[simp] theorem setGroup_discarded (s : State) (gk : Nat) (g : Group) : (s.setGroup gk g).discarded = s.discarded := rfl
@[simp] theorem setGroup_parish (s : State) (gk : Nat) (g : Group) : (s.setGroup gk g).parish = s.parish := rfl
@[simp] theorem setGroup_bootstat (s : State) (gk : Nat) (g : Group) : (s.setGroup gk g).bootstat = s.bootstat := rfl
@[simp] theorem setGroup_secver (s : State) (gk : Nat) (g : Group) : (s.setGroup gk g).secver = s.secver := rfl
@[simp] theorem setGroup_fuseMin (s : State) (gk : Nat) (g : Group) : (s.setGroup gk g).fuseMin = s.fuseMin := rfl
@[simp] theorem setGroup_identity (s : State) (gk : Nat) (g : Group) : (s.setGroup gk g).identity = s.identity := rfl
@[simp] theorem setGroup_firmware (s : State) (gk : Nat) (g : Group) : (s.setGroup gk g).firmware = s.firmware := rfl
@[simp] theorem setGroup_lastRefill (s : State) (gk : Nat) (g : Group) : (s.setGroup gk g).lastRefill = s.lastRefill := rfl
@[simp] theorem setGroup_lastUpdate (s : State) (gk : Nat) (g : Group) : (s.setGroup gk g).lastUpdate = s.lastUpdate := rfl
@[simp] theorem setGroup_governed (s : State) (gk : Nat) (g : Group) : (s.setGroup gk g).governed = s.governed := rfl
@[simp] theorem setGroup_thermalAt (s : State) (gk : Nat) (g : Group) : (s.setGroup gk g).thermalAt = s.thermalAt := rfl

/-! ## setTeam -/

@[simp] theorem setTeam_tick (s : State) (t : Nat) (m : Team) : (s.setTeam t m).tick = s.tick := rfl
@[simp] theorem setTeam_now (s : State) (t : Nat) (m : Team) : (s.setTeam t m).now = s.now := rfl
@[simp] theorem setTeam_inbox (s : State) (t : Nat) (m : Team) : (s.setTeam t m).inbox = s.inbox := rfl
@[simp] theorem setTeam_out (s : State) (t : Nat) (m : Team) : (s.setTeam t m).out = s.out := rfl
@[simp] theorem setTeam_cur (s : State) (t : Nat) (m : Team) : (s.setTeam t m).cur = s.cur := rfl
@[simp] theorem setTeam_rank (s : State) (t : Nat) (m : Team) : (s.setTeam t m).rank = s.rank := rfl
@[simp] theorem setTeam_fresh (s : State) (t : Nat) (m : Team) : (s.setTeam t m).fresh = s.fresh := rfl
@[simp] theorem setTeam_power (s : State) (t : Nat) (m : Team) : (s.setTeam t m).power = s.power := rfl
@[simp] theorem setTeam_lanes (s : State) (t : Nat) (m : Team) : (s.setTeam t m).lanes = s.lanes := rfl
@[simp] theorem setTeam_groups (s : State) (t : Nat) (m : Team) : (s.setTeam t m).groups = s.groups := rfl
@[simp] theorem setTeam_islots (s : State) (t : Nat) (m : Team) : (s.setTeam t m).islots = s.islots := rfl
@[simp] theorem setTeam_teams (s : State) (t : Nat) (m : Team) : (s.setTeam t m).teams = s.teams.set t m := rfl
@[simp] theorem setTeam_ctxs (s : State) (t : Nat) (m : Team) : (s.setTeam t m).ctxs = s.ctxs := rfl
@[simp] theorem setTeam_launches (s : State) (t : Nat) (m : Team) : (s.setTeam t m).launches = s.launches := rfl
@[simp] theorem setTeam_mem (s : State) (t : Nat) (m : Team) : (s.setTeam t m).mem = s.mem := rfl
@[simp] theorem setTeam_tags (s : State) (t : Nat) (m : Team) : (s.setTeam t m).tags = s.tags := rfl
@[simp] theorem setTeam_poison (s : State) (t : Nat) (m : Team) : (s.setTeam t m).poison = s.poison := rfl
@[simp] theorem setTeam_hostMem (s : State) (t : Nat) (m : Team) : (s.setTeam t m).hostMem = s.hostMem := rfl
@[simp] theorem setTeam_l1 (s : State) (t : Nat) (m : Team) : (s.setTeam t m).l1 = s.l1 := rfl
@[simp] theorem setTeam_icache (s : State) (t : Nat) (m : Team) : (s.setTeam t m).icache = s.icache := rfl
@[simp] theorem setTeam_sync (s : State) (t : Nat) (m : Team) : (s.setTeam t m).sync = s.sync := rfl
@[simp] theorem setTeam_notices (s : State) (t : Nat) (m : Team) : (s.setTeam t m).notices = s.notices := rfl
@[simp] theorem setTeam_outst (s : State) (t : Nat) (m : Team) : (s.setTeam t m).outst = s.outst := rfl
@[simp] theorem setTeam_reqs (s : State) (t : Nat) (m : Team) : (s.setTeam t m).reqs = s.reqs := rfl
@[simp] theorem setTeam_msc (s : State) (t : Nat) (m : Team) : (s.setTeam t m).msc = s.msc := rfl
@[simp] theorem setTeam_fences (s : State) (t : Nat) (m : Team) : (s.setTeam t m).fences = s.fences := rfl
@[simp] theorem setTeam_cmds (s : State) (t : Nat) (m : Team) : (s.setTeam t m).cmds = s.cmds := rfl
@[simp] theorem setTeam_xrecs (s : State) (t : Nat) (m : Team) : (s.setTeam t m).xrecs = s.xrecs := rfl
@[simp] theorem setTeam_mma (s : State) (t : Nat) (m : Team) : (s.setTeam t m).mma = s.mma := rfl
@[simp] theorem setTeam_wloads (s : State) (t : Nat) (m : Team) : (s.setTeam t m).wloads = s.wloads := rfl
@[simp] theorem setTeam_jobs (s : State) (t : Nat) (m : Team) : (s.setTeam t m).jobs = s.jobs := rfl
@[simp] theorem setTeam_queues (s : State) (t : Nat) (m : Team) : (s.setTeam t m).queues = s.queues := rfl
@[simp] theorem setTeam_pools (s : State) (t : Nat) (m : Team) : (s.setTeam t m).pools = s.pools := rfl
@[simp] theorem setTeam_fwq (s : State) (t : Nat) (m : Team) : (s.setTeam t m).fwq = s.fwq := rfl
@[simp] theorem setTeam_fwWait (s : State) (t : Nat) (m : Team) : (s.setTeam t m).fwWait = s.fwWait := rfl
@[simp] theorem setTeam_records (s : State) (t : Nat) (m : Team) : (s.setTeam t m).records = s.records := rfl
@[simp] theorem setTeam_vers (s : State) (t : Nat) (m : Team) : (s.setTeam t m).vers = s.vers := rfl
@[simp] theorem setTeam_lastVer (s : State) (t : Nat) (m : Team) : (s.setTeam t m).lastVer = s.lastVer := rfl
@[simp] theorem setTeam_mrt (s : State) (t : Nat) (m : Team) : (s.setTeam t m).mrt = s.mrt := rfl
@[simp] theorem setTeam_comms (s : State) (t : Nat) (m : Team) : (s.setTeam t m).comms = s.comms := rfl
@[simp] theorem setTeam_grants (s : State) (t : Nat) (m : Team) : (s.setTeam t m).grants = s.grants := rfl
@[simp] theorem setTeam_keys (s : State) (t : Nat) (m : Team) : (s.setTeam t m).keys = s.keys := rfl
@[simp] theorem setTeam_frames (s : State) (t : Nat) (m : Team) : (s.setTeam t m).frames = s.frames := rfl
@[simp] theorem setTeam_spares (s : State) (t : Nat) (m : Team) : (s.setTeam t m).spares = s.spares := rfl
@[simp] theorem setTeam_sweepCur (s : State) (t : Nat) (m : Team) : (s.setTeam t m).sweepCur = s.sweepCur := rfl
@[simp] theorem setTeam_sweepDone (s : State) (t : Nat) (m : Team) : (s.setTeam t m).sweepDone = s.sweepDone := rfl
@[simp] theorem setTeam_sweepQueued (s : State) (t : Nat) (m : Team) : (s.setTeam t m).sweepQueued = s.sweepQueued := rfl
@[simp] theorem setTeam_pass (s : State) (t : Nat) (m : Team) : (s.setTeam t m).pass = s.pass := rfl
@[simp] theorem setTeam_leases (s : State) (t : Nat) (m : Team) : (s.setTeam t m).leases = s.leases := rfl
@[simp] theorem setTeam_leaseGens (s : State) (t : Nat) (m : Team) : (s.setTeam t m).leaseGens = s.leaseGens := rfl
@[simp] theorem setTeam_links (s : State) (t : Nat) (m : Team) : (s.setTeam t m).links = s.links := rfl
@[simp] theorem setTeam_routes (s : State) (t : Nat) (m : Team) : (s.setTeam t m).routes = s.routes := rfl
@[simp] theorem setTeam_rnums (s : State) (t : Nat) (m : Team) : (s.setTeam t m).rnums = s.rnums := rfl
@[simp] theorem setTeam_unsent (s : State) (t : Nat) (m : Team) : (s.setTeam t m).unsent = s.unsent := rfl
@[simp] theorem setTeam_asked (s : State) (t : Nat) (m : Team) : (s.setTeam t m).asked = s.asked := rfl
@[simp] theorem setTeam_farDown (s : State) (t : Nat) (m : Team) : (s.setTeam t m).farDown = s.farDown := rfl
@[simp] theorem setTeam_cut (s : State) (t : Nat) (m : Team) : (s.setTeam t m).cut = s.cut := rfl
@[simp] theorem setTeam_parts (s : State) (t : Nat) (m : Team) : (s.setTeam t m).parts = s.parts := rfl
@[simp] theorem setTeam_kept (s : State) (t : Nat) (m : Team) : (s.setTeam t m).kept = s.kept := rfl
@[simp] theorem setTeam_pseqs (s : State) (t : Nat) (m : Team) : (s.setTeam t m).pseqs = s.pseqs := rfl
@[simp] theorem setTeam_counts (s : State) (t : Nat) (m : Team) : (s.setTeam t m).counts = s.counts := rfl
@[simp] theorem setTeam_heldReqs (s : State) (t : Nat) (m : Team) : (s.setTeam t m).heldReqs = s.heldReqs := rfl
@[simp] theorem setTeam_legs (s : State) (t : Nat) (m : Team) : (s.setTeam t m).legs = s.legs := rfl
@[simp] theorem setTeam_rdma (s : State) (t : Nat) (m : Team) : (s.setTeam t m).rdma = s.rdma := rfl
@[simp] theorem setTeam_rdmaNum (s : State) (t : Nat) (m : Team) : (s.setTeam t m).rdmaNum = s.rdmaNum := rfl
@[simp] theorem setTeam_iqueues (s : State) (t : Nat) (m : Team) : (s.setTeam t m).iqueues = s.iqueues := rfl
@[simp] theorem setTeam_monitors (s : State) (t : Nat) (m : Team) : (s.setTeam t m).monitors = s.monitors := rfl
@[simp] theorem setTeam_dies (s : State) (t : Nat) (m : Team) : (s.setTeam t m).dies = s.dies := rfl
@[simp] theorem setTeam_images (s : State) (t : Nat) (m : Team) : (s.setTeam t m).images = s.images := rfl
@[simp] theorem setTeam_discarded (s : State) (t : Nat) (m : Team) : (s.setTeam t m).discarded = s.discarded := rfl
@[simp] theorem setTeam_parish (s : State) (t : Nat) (m : Team) : (s.setTeam t m).parish = s.parish := rfl
@[simp] theorem setTeam_bootstat (s : State) (t : Nat) (m : Team) : (s.setTeam t m).bootstat = s.bootstat := rfl
@[simp] theorem setTeam_secver (s : State) (t : Nat) (m : Team) : (s.setTeam t m).secver = s.secver := rfl
@[simp] theorem setTeam_fuseMin (s : State) (t : Nat) (m : Team) : (s.setTeam t m).fuseMin = s.fuseMin := rfl
@[simp] theorem setTeam_identity (s : State) (t : Nat) (m : Team) : (s.setTeam t m).identity = s.identity := rfl
@[simp] theorem setTeam_firmware (s : State) (t : Nat) (m : Team) : (s.setTeam t m).firmware = s.firmware := rfl
@[simp] theorem setTeam_lastRefill (s : State) (t : Nat) (m : Team) : (s.setTeam t m).lastRefill = s.lastRefill := rfl
@[simp] theorem setTeam_lastUpdate (s : State) (t : Nat) (m : Team) : (s.setTeam t m).lastUpdate = s.lastUpdate := rfl
@[simp] theorem setTeam_governed (s : State) (t : Nat) (m : Team) : (s.setTeam t m).governed = s.governed := rfl
@[simp] theorem setTeam_thermalAt (s : State) (t : Nat) (m : Team) : (s.setTeam t m).thermalAt = s.thermalAt := rfl

/-! ## setCtx -/

@[simp] theorem setCtx_tick (s : State) (c : Nat) (x : Ctx) : (s.setCtx c x).tick = s.tick := rfl
@[simp] theorem setCtx_now (s : State) (c : Nat) (x : Ctx) : (s.setCtx c x).now = s.now := rfl
@[simp] theorem setCtx_inbox (s : State) (c : Nat) (x : Ctx) : (s.setCtx c x).inbox = s.inbox := rfl
@[simp] theorem setCtx_out (s : State) (c : Nat) (x : Ctx) : (s.setCtx c x).out = s.out := rfl
@[simp] theorem setCtx_cur (s : State) (c : Nat) (x : Ctx) : (s.setCtx c x).cur = s.cur := rfl
@[simp] theorem setCtx_rank (s : State) (c : Nat) (x : Ctx) : (s.setCtx c x).rank = s.rank := rfl
@[simp] theorem setCtx_fresh (s : State) (c : Nat) (x : Ctx) : (s.setCtx c x).fresh = s.fresh := rfl
@[simp] theorem setCtx_power (s : State) (c : Nat) (x : Ctx) : (s.setCtx c x).power = s.power := rfl
@[simp] theorem setCtx_lanes (s : State) (c : Nat) (x : Ctx) : (s.setCtx c x).lanes = s.lanes := rfl
@[simp] theorem setCtx_groups (s : State) (c : Nat) (x : Ctx) : (s.setCtx c x).groups = s.groups := rfl
@[simp] theorem setCtx_islots (s : State) (c : Nat) (x : Ctx) : (s.setCtx c x).islots = s.islots := rfl
@[simp] theorem setCtx_teams (s : State) (c : Nat) (x : Ctx) : (s.setCtx c x).teams = s.teams := rfl
@[simp] theorem setCtx_ctxs (s : State) (c : Nat) (x : Ctx) : (s.setCtx c x).ctxs = s.ctxs.set c x := rfl
@[simp] theorem setCtx_launches (s : State) (c : Nat) (x : Ctx) : (s.setCtx c x).launches = s.launches := rfl
@[simp] theorem setCtx_mem (s : State) (c : Nat) (x : Ctx) : (s.setCtx c x).mem = s.mem := rfl
@[simp] theorem setCtx_tags (s : State) (c : Nat) (x : Ctx) : (s.setCtx c x).tags = s.tags := rfl
@[simp] theorem setCtx_poison (s : State) (c : Nat) (x : Ctx) : (s.setCtx c x).poison = s.poison := rfl
@[simp] theorem setCtx_hostMem (s : State) (c : Nat) (x : Ctx) : (s.setCtx c x).hostMem = s.hostMem := rfl
@[simp] theorem setCtx_l1 (s : State) (c : Nat) (x : Ctx) : (s.setCtx c x).l1 = s.l1 := rfl
@[simp] theorem setCtx_icache (s : State) (c : Nat) (x : Ctx) : (s.setCtx c x).icache = s.icache := rfl
@[simp] theorem setCtx_sync (s : State) (c : Nat) (x : Ctx) : (s.setCtx c x).sync = s.sync := rfl
@[simp] theorem setCtx_notices (s : State) (c : Nat) (x : Ctx) : (s.setCtx c x).notices = s.notices := rfl
@[simp] theorem setCtx_outst (s : State) (c : Nat) (x : Ctx) : (s.setCtx c x).outst = s.outst := rfl
@[simp] theorem setCtx_reqs (s : State) (c : Nat) (x : Ctx) : (s.setCtx c x).reqs = s.reqs := rfl
@[simp] theorem setCtx_msc (s : State) (c : Nat) (x : Ctx) : (s.setCtx c x).msc = s.msc := rfl
@[simp] theorem setCtx_fences (s : State) (c : Nat) (x : Ctx) : (s.setCtx c x).fences = s.fences := rfl
@[simp] theorem setCtx_cmds (s : State) (c : Nat) (x : Ctx) : (s.setCtx c x).cmds = s.cmds := rfl
@[simp] theorem setCtx_xrecs (s : State) (c : Nat) (x : Ctx) : (s.setCtx c x).xrecs = s.xrecs := rfl
@[simp] theorem setCtx_mma (s : State) (c : Nat) (x : Ctx) : (s.setCtx c x).mma = s.mma := rfl
@[simp] theorem setCtx_wloads (s : State) (c : Nat) (x : Ctx) : (s.setCtx c x).wloads = s.wloads := rfl
@[simp] theorem setCtx_jobs (s : State) (c : Nat) (x : Ctx) : (s.setCtx c x).jobs = s.jobs := rfl
@[simp] theorem setCtx_queues (s : State) (c : Nat) (x : Ctx) : (s.setCtx c x).queues = s.queues := rfl
@[simp] theorem setCtx_pools (s : State) (c : Nat) (x : Ctx) : (s.setCtx c x).pools = s.pools := rfl
@[simp] theorem setCtx_fwq (s : State) (c : Nat) (x : Ctx) : (s.setCtx c x).fwq = s.fwq := rfl
@[simp] theorem setCtx_fwWait (s : State) (c : Nat) (x : Ctx) : (s.setCtx c x).fwWait = s.fwWait := rfl
@[simp] theorem setCtx_records (s : State) (c : Nat) (x : Ctx) : (s.setCtx c x).records = s.records := rfl
@[simp] theorem setCtx_vers (s : State) (c : Nat) (x : Ctx) : (s.setCtx c x).vers = s.vers := rfl
@[simp] theorem setCtx_lastVer (s : State) (c : Nat) (x : Ctx) : (s.setCtx c x).lastVer = s.lastVer := rfl
@[simp] theorem setCtx_mrt (s : State) (c : Nat) (x : Ctx) : (s.setCtx c x).mrt = s.mrt := rfl
@[simp] theorem setCtx_comms (s : State) (c : Nat) (x : Ctx) : (s.setCtx c x).comms = s.comms := rfl
@[simp] theorem setCtx_grants (s : State) (c : Nat) (x : Ctx) : (s.setCtx c x).grants = s.grants := rfl
@[simp] theorem setCtx_keys (s : State) (c : Nat) (x : Ctx) : (s.setCtx c x).keys = s.keys := rfl
@[simp] theorem setCtx_frames (s : State) (c : Nat) (x : Ctx) : (s.setCtx c x).frames = s.frames := rfl
@[simp] theorem setCtx_spares (s : State) (c : Nat) (x : Ctx) : (s.setCtx c x).spares = s.spares := rfl
@[simp] theorem setCtx_sweepCur (s : State) (c : Nat) (x : Ctx) : (s.setCtx c x).sweepCur = s.sweepCur := rfl
@[simp] theorem setCtx_sweepDone (s : State) (c : Nat) (x : Ctx) : (s.setCtx c x).sweepDone = s.sweepDone := rfl
@[simp] theorem setCtx_sweepQueued (s : State) (c : Nat) (x : Ctx) : (s.setCtx c x).sweepQueued = s.sweepQueued := rfl
@[simp] theorem setCtx_pass (s : State) (c : Nat) (x : Ctx) : (s.setCtx c x).pass = s.pass := rfl
@[simp] theorem setCtx_leases (s : State) (c : Nat) (x : Ctx) : (s.setCtx c x).leases = s.leases := rfl
@[simp] theorem setCtx_leaseGens (s : State) (c : Nat) (x : Ctx) : (s.setCtx c x).leaseGens = s.leaseGens := rfl
@[simp] theorem setCtx_links (s : State) (c : Nat) (x : Ctx) : (s.setCtx c x).links = s.links := rfl
@[simp] theorem setCtx_routes (s : State) (c : Nat) (x : Ctx) : (s.setCtx c x).routes = s.routes := rfl
@[simp] theorem setCtx_rnums (s : State) (c : Nat) (x : Ctx) : (s.setCtx c x).rnums = s.rnums := rfl
@[simp] theorem setCtx_unsent (s : State) (c : Nat) (x : Ctx) : (s.setCtx c x).unsent = s.unsent := rfl
@[simp] theorem setCtx_asked (s : State) (c : Nat) (x : Ctx) : (s.setCtx c x).asked = s.asked := rfl
@[simp] theorem setCtx_farDown (s : State) (c : Nat) (x : Ctx) : (s.setCtx c x).farDown = s.farDown := rfl
@[simp] theorem setCtx_cut (s : State) (c : Nat) (x : Ctx) : (s.setCtx c x).cut = s.cut := rfl
@[simp] theorem setCtx_parts (s : State) (c : Nat) (x : Ctx) : (s.setCtx c x).parts = s.parts := rfl
@[simp] theorem setCtx_kept (s : State) (c : Nat) (x : Ctx) : (s.setCtx c x).kept = s.kept := rfl
@[simp] theorem setCtx_pseqs (s : State) (c : Nat) (x : Ctx) : (s.setCtx c x).pseqs = s.pseqs := rfl
@[simp] theorem setCtx_counts (s : State) (c : Nat) (x : Ctx) : (s.setCtx c x).counts = s.counts := rfl
@[simp] theorem setCtx_heldReqs (s : State) (c : Nat) (x : Ctx) : (s.setCtx c x).heldReqs = s.heldReqs := rfl
@[simp] theorem setCtx_legs (s : State) (c : Nat) (x : Ctx) : (s.setCtx c x).legs = s.legs := rfl
@[simp] theorem setCtx_rdma (s : State) (c : Nat) (x : Ctx) : (s.setCtx c x).rdma = s.rdma := rfl
@[simp] theorem setCtx_rdmaNum (s : State) (c : Nat) (x : Ctx) : (s.setCtx c x).rdmaNum = s.rdmaNum := rfl
@[simp] theorem setCtx_iqueues (s : State) (c : Nat) (x : Ctx) : (s.setCtx c x).iqueues = s.iqueues := rfl
@[simp] theorem setCtx_monitors (s : State) (c : Nat) (x : Ctx) : (s.setCtx c x).monitors = s.monitors := rfl
@[simp] theorem setCtx_dies (s : State) (c : Nat) (x : Ctx) : (s.setCtx c x).dies = s.dies := rfl
@[simp] theorem setCtx_images (s : State) (c : Nat) (x : Ctx) : (s.setCtx c x).images = s.images := rfl
@[simp] theorem setCtx_discarded (s : State) (c : Nat) (x : Ctx) : (s.setCtx c x).discarded = s.discarded := rfl
@[simp] theorem setCtx_parish (s : State) (c : Nat) (x : Ctx) : (s.setCtx c x).parish = s.parish := rfl
@[simp] theorem setCtx_bootstat (s : State) (c : Nat) (x : Ctx) : (s.setCtx c x).bootstat = s.bootstat := rfl
@[simp] theorem setCtx_secver (s : State) (c : Nat) (x : Ctx) : (s.setCtx c x).secver = s.secver := rfl
@[simp] theorem setCtx_fuseMin (s : State) (c : Nat) (x : Ctx) : (s.setCtx c x).fuseMin = s.fuseMin := rfl
@[simp] theorem setCtx_identity (s : State) (c : Nat) (x : Ctx) : (s.setCtx c x).identity = s.identity := rfl
@[simp] theorem setCtx_firmware (s : State) (c : Nat) (x : Ctx) : (s.setCtx c x).firmware = s.firmware := rfl
@[simp] theorem setCtx_lastRefill (s : State) (c : Nat) (x : Ctx) : (s.setCtx c x).lastRefill = s.lastRefill := rfl
@[simp] theorem setCtx_lastUpdate (s : State) (c : Nat) (x : Ctx) : (s.setCtx c x).lastUpdate = s.lastUpdate := rfl
@[simp] theorem setCtx_governed (s : State) (c : Nat) (x : Ctx) : (s.setCtx c x).governed = s.governed := rfl
@[simp] theorem setCtx_thermalAt (s : State) (c : Nat) (x : Ctx) : (s.setCtx c x).thermalAt = s.thermalAt := rfl

/-! ## setLaunch -/

@[simp] theorem setLaunch_tick (s : State) (n : Nat) (l : Launch) : (s.setLaunch n l).tick = s.tick := rfl
@[simp] theorem setLaunch_now (s : State) (n : Nat) (l : Launch) : (s.setLaunch n l).now = s.now := rfl
@[simp] theorem setLaunch_inbox (s : State) (n : Nat) (l : Launch) : (s.setLaunch n l).inbox = s.inbox := rfl
@[simp] theorem setLaunch_out (s : State) (n : Nat) (l : Launch) : (s.setLaunch n l).out = s.out := rfl
@[simp] theorem setLaunch_cur (s : State) (n : Nat) (l : Launch) : (s.setLaunch n l).cur = s.cur := rfl
@[simp] theorem setLaunch_rank (s : State) (n : Nat) (l : Launch) : (s.setLaunch n l).rank = s.rank := rfl
@[simp] theorem setLaunch_fresh (s : State) (n : Nat) (l : Launch) : (s.setLaunch n l).fresh = s.fresh := rfl
@[simp] theorem setLaunch_power (s : State) (n : Nat) (l : Launch) : (s.setLaunch n l).power = s.power := rfl
@[simp] theorem setLaunch_lanes (s : State) (n : Nat) (l : Launch) : (s.setLaunch n l).lanes = s.lanes := rfl
@[simp] theorem setLaunch_groups (s : State) (n : Nat) (l : Launch) : (s.setLaunch n l).groups = s.groups := rfl
@[simp] theorem setLaunch_islots (s : State) (n : Nat) (l : Launch) : (s.setLaunch n l).islots = s.islots := rfl
@[simp] theorem setLaunch_teams (s : State) (n : Nat) (l : Launch) : (s.setLaunch n l).teams = s.teams := rfl
@[simp] theorem setLaunch_ctxs (s : State) (n : Nat) (l : Launch) : (s.setLaunch n l).ctxs = s.ctxs := rfl
@[simp] theorem setLaunch_launches (s : State) (n : Nat) (l : Launch) : (s.setLaunch n l).launches = s.launches.set n l := rfl
@[simp] theorem setLaunch_mem (s : State) (n : Nat) (l : Launch) : (s.setLaunch n l).mem = s.mem := rfl
@[simp] theorem setLaunch_tags (s : State) (n : Nat) (l : Launch) : (s.setLaunch n l).tags = s.tags := rfl
@[simp] theorem setLaunch_poison (s : State) (n : Nat) (l : Launch) : (s.setLaunch n l).poison = s.poison := rfl
@[simp] theorem setLaunch_hostMem (s : State) (n : Nat) (l : Launch) : (s.setLaunch n l).hostMem = s.hostMem := rfl
@[simp] theorem setLaunch_l1 (s : State) (n : Nat) (l : Launch) : (s.setLaunch n l).l1 = s.l1 := rfl
@[simp] theorem setLaunch_icache (s : State) (n : Nat) (l : Launch) : (s.setLaunch n l).icache = s.icache := rfl
@[simp] theorem setLaunch_sync (s : State) (n : Nat) (l : Launch) : (s.setLaunch n l).sync = s.sync := rfl
@[simp] theorem setLaunch_notices (s : State) (n : Nat) (l : Launch) : (s.setLaunch n l).notices = s.notices := rfl
@[simp] theorem setLaunch_outst (s : State) (n : Nat) (l : Launch) : (s.setLaunch n l).outst = s.outst := rfl
@[simp] theorem setLaunch_reqs (s : State) (n : Nat) (l : Launch) : (s.setLaunch n l).reqs = s.reqs := rfl
@[simp] theorem setLaunch_msc (s : State) (n : Nat) (l : Launch) : (s.setLaunch n l).msc = s.msc := rfl
@[simp] theorem setLaunch_fences (s : State) (n : Nat) (l : Launch) : (s.setLaunch n l).fences = s.fences := rfl
@[simp] theorem setLaunch_cmds (s : State) (n : Nat) (l : Launch) : (s.setLaunch n l).cmds = s.cmds := rfl
@[simp] theorem setLaunch_xrecs (s : State) (n : Nat) (l : Launch) : (s.setLaunch n l).xrecs = s.xrecs := rfl
@[simp] theorem setLaunch_mma (s : State) (n : Nat) (l : Launch) : (s.setLaunch n l).mma = s.mma := rfl
@[simp] theorem setLaunch_wloads (s : State) (n : Nat) (l : Launch) : (s.setLaunch n l).wloads = s.wloads := rfl
@[simp] theorem setLaunch_jobs (s : State) (n : Nat) (l : Launch) : (s.setLaunch n l).jobs = s.jobs := rfl
@[simp] theorem setLaunch_queues (s : State) (n : Nat) (l : Launch) : (s.setLaunch n l).queues = s.queues := rfl
@[simp] theorem setLaunch_pools (s : State) (n : Nat) (l : Launch) : (s.setLaunch n l).pools = s.pools := rfl
@[simp] theorem setLaunch_fwq (s : State) (n : Nat) (l : Launch) : (s.setLaunch n l).fwq = s.fwq := rfl
@[simp] theorem setLaunch_fwWait (s : State) (n : Nat) (l : Launch) : (s.setLaunch n l).fwWait = s.fwWait := rfl
@[simp] theorem setLaunch_records (s : State) (n : Nat) (l : Launch) : (s.setLaunch n l).records = s.records := rfl
@[simp] theorem setLaunch_vers (s : State) (n : Nat) (l : Launch) : (s.setLaunch n l).vers = s.vers := rfl
@[simp] theorem setLaunch_lastVer (s : State) (n : Nat) (l : Launch) : (s.setLaunch n l).lastVer = s.lastVer := rfl
@[simp] theorem setLaunch_mrt (s : State) (n : Nat) (l : Launch) : (s.setLaunch n l).mrt = s.mrt := rfl
@[simp] theorem setLaunch_comms (s : State) (n : Nat) (l : Launch) : (s.setLaunch n l).comms = s.comms := rfl
@[simp] theorem setLaunch_grants (s : State) (n : Nat) (l : Launch) : (s.setLaunch n l).grants = s.grants := rfl
@[simp] theorem setLaunch_keys (s : State) (n : Nat) (l : Launch) : (s.setLaunch n l).keys = s.keys := rfl
@[simp] theorem setLaunch_frames (s : State) (n : Nat) (l : Launch) : (s.setLaunch n l).frames = s.frames := rfl
@[simp] theorem setLaunch_spares (s : State) (n : Nat) (l : Launch) : (s.setLaunch n l).spares = s.spares := rfl
@[simp] theorem setLaunch_sweepCur (s : State) (n : Nat) (l : Launch) : (s.setLaunch n l).sweepCur = s.sweepCur := rfl
@[simp] theorem setLaunch_sweepDone (s : State) (n : Nat) (l : Launch) : (s.setLaunch n l).sweepDone = s.sweepDone := rfl
@[simp] theorem setLaunch_sweepQueued (s : State) (n : Nat) (l : Launch) : (s.setLaunch n l).sweepQueued = s.sweepQueued := rfl
@[simp] theorem setLaunch_pass (s : State) (n : Nat) (l : Launch) : (s.setLaunch n l).pass = s.pass := rfl
@[simp] theorem setLaunch_leases (s : State) (n : Nat) (l : Launch) : (s.setLaunch n l).leases = s.leases := rfl
@[simp] theorem setLaunch_leaseGens (s : State) (n : Nat) (l : Launch) : (s.setLaunch n l).leaseGens = s.leaseGens := rfl
@[simp] theorem setLaunch_links (s : State) (n : Nat) (l : Launch) : (s.setLaunch n l).links = s.links := rfl
@[simp] theorem setLaunch_routes (s : State) (n : Nat) (l : Launch) : (s.setLaunch n l).routes = s.routes := rfl
@[simp] theorem setLaunch_rnums (s : State) (n : Nat) (l : Launch) : (s.setLaunch n l).rnums = s.rnums := rfl
@[simp] theorem setLaunch_unsent (s : State) (n : Nat) (l : Launch) : (s.setLaunch n l).unsent = s.unsent := rfl
@[simp] theorem setLaunch_asked (s : State) (n : Nat) (l : Launch) : (s.setLaunch n l).asked = s.asked := rfl
@[simp] theorem setLaunch_farDown (s : State) (n : Nat) (l : Launch) : (s.setLaunch n l).farDown = s.farDown := rfl
@[simp] theorem setLaunch_cut (s : State) (n : Nat) (l : Launch) : (s.setLaunch n l).cut = s.cut := rfl
@[simp] theorem setLaunch_parts (s : State) (n : Nat) (l : Launch) : (s.setLaunch n l).parts = s.parts := rfl
@[simp] theorem setLaunch_kept (s : State) (n : Nat) (l : Launch) : (s.setLaunch n l).kept = s.kept := rfl
@[simp] theorem setLaunch_pseqs (s : State) (n : Nat) (l : Launch) : (s.setLaunch n l).pseqs = s.pseqs := rfl
@[simp] theorem setLaunch_counts (s : State) (n : Nat) (l : Launch) : (s.setLaunch n l).counts = s.counts := rfl
@[simp] theorem setLaunch_heldReqs (s : State) (n : Nat) (l : Launch) : (s.setLaunch n l).heldReqs = s.heldReqs := rfl
@[simp] theorem setLaunch_legs (s : State) (n : Nat) (l : Launch) : (s.setLaunch n l).legs = s.legs := rfl
@[simp] theorem setLaunch_rdma (s : State) (n : Nat) (l : Launch) : (s.setLaunch n l).rdma = s.rdma := rfl
@[simp] theorem setLaunch_rdmaNum (s : State) (n : Nat) (l : Launch) : (s.setLaunch n l).rdmaNum = s.rdmaNum := rfl
@[simp] theorem setLaunch_iqueues (s : State) (n : Nat) (l : Launch) : (s.setLaunch n l).iqueues = s.iqueues := rfl
@[simp] theorem setLaunch_monitors (s : State) (n : Nat) (l : Launch) : (s.setLaunch n l).monitors = s.monitors := rfl
@[simp] theorem setLaunch_dies (s : State) (n : Nat) (l : Launch) : (s.setLaunch n l).dies = s.dies := rfl
@[simp] theorem setLaunch_images (s : State) (n : Nat) (l : Launch) : (s.setLaunch n l).images = s.images := rfl
@[simp] theorem setLaunch_discarded (s : State) (n : Nat) (l : Launch) : (s.setLaunch n l).discarded = s.discarded := rfl
@[simp] theorem setLaunch_parish (s : State) (n : Nat) (l : Launch) : (s.setLaunch n l).parish = s.parish := rfl
@[simp] theorem setLaunch_bootstat (s : State) (n : Nat) (l : Launch) : (s.setLaunch n l).bootstat = s.bootstat := rfl
@[simp] theorem setLaunch_secver (s : State) (n : Nat) (l : Launch) : (s.setLaunch n l).secver = s.secver := rfl
@[simp] theorem setLaunch_fuseMin (s : State) (n : Nat) (l : Launch) : (s.setLaunch n l).fuseMin = s.fuseMin := rfl
@[simp] theorem setLaunch_identity (s : State) (n : Nat) (l : Launch) : (s.setLaunch n l).identity = s.identity := rfl
@[simp] theorem setLaunch_firmware (s : State) (n : Nat) (l : Launch) : (s.setLaunch n l).firmware = s.firmware := rfl
@[simp] theorem setLaunch_lastRefill (s : State) (n : Nat) (l : Launch) : (s.setLaunch n l).lastRefill = s.lastRefill := rfl
@[simp] theorem setLaunch_lastUpdate (s : State) (n : Nat) (l : Launch) : (s.setLaunch n l).lastUpdate = s.lastUpdate := rfl
@[simp] theorem setLaunch_governed (s : State) (n : Nat) (l : Launch) : (s.setLaunch n l).governed = s.governed := rfl
@[simp] theorem setLaunch_thermalAt (s : State) (n : Nat) (l : Launch) : (s.setLaunch n l).thermalAt = s.thermalAt := rfl

/-! ## setISlot -/

@[simp] theorem setISlot_tick (s : State) (k : Nat) (i : ISlot) : (s.setISlot k i).tick = s.tick := rfl
@[simp] theorem setISlot_now (s : State) (k : Nat) (i : ISlot) : (s.setISlot k i).now = s.now := rfl
@[simp] theorem setISlot_inbox (s : State) (k : Nat) (i : ISlot) : (s.setISlot k i).inbox = s.inbox := rfl
@[simp] theorem setISlot_out (s : State) (k : Nat) (i : ISlot) : (s.setISlot k i).out = s.out := rfl
@[simp] theorem setISlot_cur (s : State) (k : Nat) (i : ISlot) : (s.setISlot k i).cur = s.cur := rfl
@[simp] theorem setISlot_rank (s : State) (k : Nat) (i : ISlot) : (s.setISlot k i).rank = s.rank := rfl
@[simp] theorem setISlot_fresh (s : State) (k : Nat) (i : ISlot) : (s.setISlot k i).fresh = s.fresh := rfl
@[simp] theorem setISlot_power (s : State) (k : Nat) (i : ISlot) : (s.setISlot k i).power = s.power := rfl
@[simp] theorem setISlot_lanes (s : State) (k : Nat) (i : ISlot) : (s.setISlot k i).lanes = s.lanes := rfl
@[simp] theorem setISlot_groups (s : State) (k : Nat) (i : ISlot) : (s.setISlot k i).groups = s.groups := rfl
@[simp] theorem setISlot_islots (s : State) (k : Nat) (i : ISlot) : (s.setISlot k i).islots = s.islots.set k i := rfl
@[simp] theorem setISlot_teams (s : State) (k : Nat) (i : ISlot) : (s.setISlot k i).teams = s.teams := rfl
@[simp] theorem setISlot_ctxs (s : State) (k : Nat) (i : ISlot) : (s.setISlot k i).ctxs = s.ctxs := rfl
@[simp] theorem setISlot_launches (s : State) (k : Nat) (i : ISlot) : (s.setISlot k i).launches = s.launches := rfl
@[simp] theorem setISlot_mem (s : State) (k : Nat) (i : ISlot) : (s.setISlot k i).mem = s.mem := rfl
@[simp] theorem setISlot_tags (s : State) (k : Nat) (i : ISlot) : (s.setISlot k i).tags = s.tags := rfl
@[simp] theorem setISlot_poison (s : State) (k : Nat) (i : ISlot) : (s.setISlot k i).poison = s.poison := rfl
@[simp] theorem setISlot_hostMem (s : State) (k : Nat) (i : ISlot) : (s.setISlot k i).hostMem = s.hostMem := rfl
@[simp] theorem setISlot_l1 (s : State) (k : Nat) (i : ISlot) : (s.setISlot k i).l1 = s.l1 := rfl
@[simp] theorem setISlot_icache (s : State) (k : Nat) (i : ISlot) : (s.setISlot k i).icache = s.icache := rfl
@[simp] theorem setISlot_sync (s : State) (k : Nat) (i : ISlot) : (s.setISlot k i).sync = s.sync := rfl
@[simp] theorem setISlot_notices (s : State) (k : Nat) (i : ISlot) : (s.setISlot k i).notices = s.notices := rfl
@[simp] theorem setISlot_outst (s : State) (k : Nat) (i : ISlot) : (s.setISlot k i).outst = s.outst := rfl
@[simp] theorem setISlot_reqs (s : State) (k : Nat) (i : ISlot) : (s.setISlot k i).reqs = s.reqs := rfl
@[simp] theorem setISlot_msc (s : State) (k : Nat) (i : ISlot) : (s.setISlot k i).msc = s.msc := rfl
@[simp] theorem setISlot_fences (s : State) (k : Nat) (i : ISlot) : (s.setISlot k i).fences = s.fences := rfl
@[simp] theorem setISlot_cmds (s : State) (k : Nat) (i : ISlot) : (s.setISlot k i).cmds = s.cmds := rfl
@[simp] theorem setISlot_xrecs (s : State) (k : Nat) (i : ISlot) : (s.setISlot k i).xrecs = s.xrecs := rfl
@[simp] theorem setISlot_mma (s : State) (k : Nat) (i : ISlot) : (s.setISlot k i).mma = s.mma := rfl
@[simp] theorem setISlot_wloads (s : State) (k : Nat) (i : ISlot) : (s.setISlot k i).wloads = s.wloads := rfl
@[simp] theorem setISlot_jobs (s : State) (k : Nat) (i : ISlot) : (s.setISlot k i).jobs = s.jobs := rfl
@[simp] theorem setISlot_queues (s : State) (k : Nat) (i : ISlot) : (s.setISlot k i).queues = s.queues := rfl
@[simp] theorem setISlot_pools (s : State) (k : Nat) (i : ISlot) : (s.setISlot k i).pools = s.pools := rfl
@[simp] theorem setISlot_fwq (s : State) (k : Nat) (i : ISlot) : (s.setISlot k i).fwq = s.fwq := rfl
@[simp] theorem setISlot_fwWait (s : State) (k : Nat) (i : ISlot) : (s.setISlot k i).fwWait = s.fwWait := rfl
@[simp] theorem setISlot_records (s : State) (k : Nat) (i : ISlot) : (s.setISlot k i).records = s.records := rfl
@[simp] theorem setISlot_vers (s : State) (k : Nat) (i : ISlot) : (s.setISlot k i).vers = s.vers := rfl
@[simp] theorem setISlot_lastVer (s : State) (k : Nat) (i : ISlot) : (s.setISlot k i).lastVer = s.lastVer := rfl
@[simp] theorem setISlot_mrt (s : State) (k : Nat) (i : ISlot) : (s.setISlot k i).mrt = s.mrt := rfl
@[simp] theorem setISlot_comms (s : State) (k : Nat) (i : ISlot) : (s.setISlot k i).comms = s.comms := rfl
@[simp] theorem setISlot_grants (s : State) (k : Nat) (i : ISlot) : (s.setISlot k i).grants = s.grants := rfl
@[simp] theorem setISlot_keys (s : State) (k : Nat) (i : ISlot) : (s.setISlot k i).keys = s.keys := rfl
@[simp] theorem setISlot_frames (s : State) (k : Nat) (i : ISlot) : (s.setISlot k i).frames = s.frames := rfl
@[simp] theorem setISlot_spares (s : State) (k : Nat) (i : ISlot) : (s.setISlot k i).spares = s.spares := rfl
@[simp] theorem setISlot_sweepCur (s : State) (k : Nat) (i : ISlot) : (s.setISlot k i).sweepCur = s.sweepCur := rfl
@[simp] theorem setISlot_sweepDone (s : State) (k : Nat) (i : ISlot) : (s.setISlot k i).sweepDone = s.sweepDone := rfl
@[simp] theorem setISlot_sweepQueued (s : State) (k : Nat) (i : ISlot) : (s.setISlot k i).sweepQueued = s.sweepQueued := rfl
@[simp] theorem setISlot_pass (s : State) (k : Nat) (i : ISlot) : (s.setISlot k i).pass = s.pass := rfl
@[simp] theorem setISlot_leases (s : State) (k : Nat) (i : ISlot) : (s.setISlot k i).leases = s.leases := rfl
@[simp] theorem setISlot_leaseGens (s : State) (k : Nat) (i : ISlot) : (s.setISlot k i).leaseGens = s.leaseGens := rfl
@[simp] theorem setISlot_links (s : State) (k : Nat) (i : ISlot) : (s.setISlot k i).links = s.links := rfl
@[simp] theorem setISlot_routes (s : State) (k : Nat) (i : ISlot) : (s.setISlot k i).routes = s.routes := rfl
@[simp] theorem setISlot_rnums (s : State) (k : Nat) (i : ISlot) : (s.setISlot k i).rnums = s.rnums := rfl
@[simp] theorem setISlot_unsent (s : State) (k : Nat) (i : ISlot) : (s.setISlot k i).unsent = s.unsent := rfl
@[simp] theorem setISlot_asked (s : State) (k : Nat) (i : ISlot) : (s.setISlot k i).asked = s.asked := rfl
@[simp] theorem setISlot_farDown (s : State) (k : Nat) (i : ISlot) : (s.setISlot k i).farDown = s.farDown := rfl
@[simp] theorem setISlot_cut (s : State) (k : Nat) (i : ISlot) : (s.setISlot k i).cut = s.cut := rfl
@[simp] theorem setISlot_parts (s : State) (k : Nat) (i : ISlot) : (s.setISlot k i).parts = s.parts := rfl
@[simp] theorem setISlot_kept (s : State) (k : Nat) (i : ISlot) : (s.setISlot k i).kept = s.kept := rfl
@[simp] theorem setISlot_pseqs (s : State) (k : Nat) (i : ISlot) : (s.setISlot k i).pseqs = s.pseqs := rfl
@[simp] theorem setISlot_counts (s : State) (k : Nat) (i : ISlot) : (s.setISlot k i).counts = s.counts := rfl
@[simp] theorem setISlot_heldReqs (s : State) (k : Nat) (i : ISlot) : (s.setISlot k i).heldReqs = s.heldReqs := rfl
@[simp] theorem setISlot_legs (s : State) (k : Nat) (i : ISlot) : (s.setISlot k i).legs = s.legs := rfl
@[simp] theorem setISlot_rdma (s : State) (k : Nat) (i : ISlot) : (s.setISlot k i).rdma = s.rdma := rfl
@[simp] theorem setISlot_rdmaNum (s : State) (k : Nat) (i : ISlot) : (s.setISlot k i).rdmaNum = s.rdmaNum := rfl
@[simp] theorem setISlot_iqueues (s : State) (k : Nat) (i : ISlot) : (s.setISlot k i).iqueues = s.iqueues := rfl
@[simp] theorem setISlot_monitors (s : State) (k : Nat) (i : ISlot) : (s.setISlot k i).monitors = s.monitors := rfl
@[simp] theorem setISlot_dies (s : State) (k : Nat) (i : ISlot) : (s.setISlot k i).dies = s.dies := rfl
@[simp] theorem setISlot_images (s : State) (k : Nat) (i : ISlot) : (s.setISlot k i).images = s.images := rfl
@[simp] theorem setISlot_discarded (s : State) (k : Nat) (i : ISlot) : (s.setISlot k i).discarded = s.discarded := rfl
@[simp] theorem setISlot_parish (s : State) (k : Nat) (i : ISlot) : (s.setISlot k i).parish = s.parish := rfl
@[simp] theorem setISlot_bootstat (s : State) (k : Nat) (i : ISlot) : (s.setISlot k i).bootstat = s.bootstat := rfl
@[simp] theorem setISlot_secver (s : State) (k : Nat) (i : ISlot) : (s.setISlot k i).secver = s.secver := rfl
@[simp] theorem setISlot_fuseMin (s : State) (k : Nat) (i : ISlot) : (s.setISlot k i).fuseMin = s.fuseMin := rfl
@[simp] theorem setISlot_identity (s : State) (k : Nat) (i : ISlot) : (s.setISlot k i).identity = s.identity := rfl
@[simp] theorem setISlot_firmware (s : State) (k : Nat) (i : ISlot) : (s.setISlot k i).firmware = s.firmware := rfl
@[simp] theorem setISlot_lastRefill (s : State) (k : Nat) (i : ISlot) : (s.setISlot k i).lastRefill = s.lastRefill := rfl
@[simp] theorem setISlot_lastUpdate (s : State) (k : Nat) (i : ISlot) : (s.setISlot k i).lastUpdate = s.lastUpdate := rfl
@[simp] theorem setISlot_governed (s : State) (k : Nat) (i : ISlot) : (s.setISlot k i).governed = s.governed := rfl
@[simp] theorem setISlot_thermalAt (s : State) (k : Nat) (i : ISlot) : (s.setISlot k i).thermalAt = s.thermalAt := rfl

/-! ## send -/

@[simp] theorem send_tick (s : State) (o : Out) : (s.send o).tick = s.tick := rfl
@[simp] theorem send_now (s : State) (o : Out) : (s.send o).now = s.now := rfl
@[simp] theorem send_inbox (s : State) (o : Out) : (s.send o).inbox = s.inbox := rfl
@[simp] theorem send_out (s : State) (o : Out) : (s.send o).out = s.out ++ [o] := rfl
@[simp] theorem send_cur (s : State) (o : Out) : (s.send o).cur = s.cur := rfl
@[simp] theorem send_rank (s : State) (o : Out) : (s.send o).rank = s.rank := rfl
@[simp] theorem send_fresh (s : State) (o : Out) : (s.send o).fresh = s.fresh := rfl
@[simp] theorem send_power (s : State) (o : Out) : (s.send o).power = s.power := rfl
@[simp] theorem send_lanes (s : State) (o : Out) : (s.send o).lanes = s.lanes := rfl
@[simp] theorem send_groups (s : State) (o : Out) : (s.send o).groups = s.groups := rfl
@[simp] theorem send_islots (s : State) (o : Out) : (s.send o).islots = s.islots := rfl
@[simp] theorem send_teams (s : State) (o : Out) : (s.send o).teams = s.teams := rfl
@[simp] theorem send_ctxs (s : State) (o : Out) : (s.send o).ctxs = s.ctxs := rfl
@[simp] theorem send_launches (s : State) (o : Out) : (s.send o).launches = s.launches := rfl
@[simp] theorem send_mem (s : State) (o : Out) : (s.send o).mem = s.mem := rfl
@[simp] theorem send_tags (s : State) (o : Out) : (s.send o).tags = s.tags := rfl
@[simp] theorem send_poison (s : State) (o : Out) : (s.send o).poison = s.poison := rfl
@[simp] theorem send_hostMem (s : State) (o : Out) : (s.send o).hostMem = s.hostMem := rfl
@[simp] theorem send_l1 (s : State) (o : Out) : (s.send o).l1 = s.l1 := rfl
@[simp] theorem send_icache (s : State) (o : Out) : (s.send o).icache = s.icache := rfl
@[simp] theorem send_sync (s : State) (o : Out) : (s.send o).sync = s.sync := rfl
@[simp] theorem send_notices (s : State) (o : Out) : (s.send o).notices = s.notices := rfl
@[simp] theorem send_outst (s : State) (o : Out) : (s.send o).outst = s.outst := rfl
@[simp] theorem send_reqs (s : State) (o : Out) : (s.send o).reqs = s.reqs := rfl
@[simp] theorem send_msc (s : State) (o : Out) : (s.send o).msc = s.msc := rfl
@[simp] theorem send_fences (s : State) (o : Out) : (s.send o).fences = s.fences := rfl
@[simp] theorem send_cmds (s : State) (o : Out) : (s.send o).cmds = s.cmds := rfl
@[simp] theorem send_xrecs (s : State) (o : Out) : (s.send o).xrecs = s.xrecs := rfl
@[simp] theorem send_mma (s : State) (o : Out) : (s.send o).mma = s.mma := rfl
@[simp] theorem send_wloads (s : State) (o : Out) : (s.send o).wloads = s.wloads := rfl
@[simp] theorem send_jobs (s : State) (o : Out) : (s.send o).jobs = s.jobs := rfl
@[simp] theorem send_queues (s : State) (o : Out) : (s.send o).queues = s.queues := rfl
@[simp] theorem send_pools (s : State) (o : Out) : (s.send o).pools = s.pools := rfl
@[simp] theorem send_fwq (s : State) (o : Out) : (s.send o).fwq = s.fwq := rfl
@[simp] theorem send_fwWait (s : State) (o : Out) : (s.send o).fwWait = s.fwWait := rfl
@[simp] theorem send_records (s : State) (o : Out) : (s.send o).records = s.records := rfl
@[simp] theorem send_vers (s : State) (o : Out) : (s.send o).vers = s.vers := rfl
@[simp] theorem send_lastVer (s : State) (o : Out) : (s.send o).lastVer = s.lastVer := rfl
@[simp] theorem send_mrt (s : State) (o : Out) : (s.send o).mrt = s.mrt := rfl
@[simp] theorem send_comms (s : State) (o : Out) : (s.send o).comms = s.comms := rfl
@[simp] theorem send_grants (s : State) (o : Out) : (s.send o).grants = s.grants := rfl
@[simp] theorem send_keys (s : State) (o : Out) : (s.send o).keys = s.keys := rfl
@[simp] theorem send_frames (s : State) (o : Out) : (s.send o).frames = s.frames := rfl
@[simp] theorem send_spares (s : State) (o : Out) : (s.send o).spares = s.spares := rfl
@[simp] theorem send_sweepCur (s : State) (o : Out) : (s.send o).sweepCur = s.sweepCur := rfl
@[simp] theorem send_sweepDone (s : State) (o : Out) : (s.send o).sweepDone = s.sweepDone := rfl
@[simp] theorem send_sweepQueued (s : State) (o : Out) : (s.send o).sweepQueued = s.sweepQueued := rfl
@[simp] theorem send_pass (s : State) (o : Out) : (s.send o).pass = s.pass := rfl
@[simp] theorem send_leases (s : State) (o : Out) : (s.send o).leases = s.leases := rfl
@[simp] theorem send_leaseGens (s : State) (o : Out) : (s.send o).leaseGens = s.leaseGens := rfl
@[simp] theorem send_links (s : State) (o : Out) : (s.send o).links = s.links := rfl
@[simp] theorem send_routes (s : State) (o : Out) : (s.send o).routes = s.routes := rfl
@[simp] theorem send_rnums (s : State) (o : Out) : (s.send o).rnums = s.rnums := rfl
@[simp] theorem send_unsent (s : State) (o : Out) : (s.send o).unsent = s.unsent := rfl
@[simp] theorem send_asked (s : State) (o : Out) : (s.send o).asked = s.asked := rfl
@[simp] theorem send_farDown (s : State) (o : Out) : (s.send o).farDown = s.farDown := rfl
@[simp] theorem send_cut (s : State) (o : Out) : (s.send o).cut = s.cut := rfl
@[simp] theorem send_parts (s : State) (o : Out) : (s.send o).parts = s.parts := rfl
@[simp] theorem send_kept (s : State) (o : Out) : (s.send o).kept = s.kept := rfl
@[simp] theorem send_pseqs (s : State) (o : Out) : (s.send o).pseqs = s.pseqs := rfl
@[simp] theorem send_counts (s : State) (o : Out) : (s.send o).counts = s.counts := rfl
@[simp] theorem send_heldReqs (s : State) (o : Out) : (s.send o).heldReqs = s.heldReqs := rfl
@[simp] theorem send_legs (s : State) (o : Out) : (s.send o).legs = s.legs := rfl
@[simp] theorem send_rdma (s : State) (o : Out) : (s.send o).rdma = s.rdma := rfl
@[simp] theorem send_rdmaNum (s : State) (o : Out) : (s.send o).rdmaNum = s.rdmaNum := rfl
@[simp] theorem send_iqueues (s : State) (o : Out) : (s.send o).iqueues = s.iqueues := rfl
@[simp] theorem send_monitors (s : State) (o : Out) : (s.send o).monitors = s.monitors := rfl
@[simp] theorem send_dies (s : State) (o : Out) : (s.send o).dies = s.dies := rfl
@[simp] theorem send_images (s : State) (o : Out) : (s.send o).images = s.images := rfl
@[simp] theorem send_discarded (s : State) (o : Out) : (s.send o).discarded = s.discarded := rfl
@[simp] theorem send_parish (s : State) (o : Out) : (s.send o).parish = s.parish := rfl
@[simp] theorem send_bootstat (s : State) (o : Out) : (s.send o).bootstat = s.bootstat := rfl
@[simp] theorem send_secver (s : State) (o : Out) : (s.send o).secver = s.secver := rfl
@[simp] theorem send_fuseMin (s : State) (o : Out) : (s.send o).fuseMin = s.fuseMin := rfl
@[simp] theorem send_identity (s : State) (o : Out) : (s.send o).identity = s.identity := rfl
@[simp] theorem send_firmware (s : State) (o : Out) : (s.send o).firmware = s.firmware := rfl
@[simp] theorem send_lastRefill (s : State) (o : Out) : (s.send o).lastRefill = s.lastRefill := rfl
@[simp] theorem send_lastUpdate (s : State) (o : Out) : (s.send o).lastUpdate = s.lastUpdate := rfl
@[simp] theorem send_governed (s : State) (o : Out) : (s.send o).governed = s.governed := rfl
@[simp] theorem send_thermalAt (s : State) (o : Out) : (s.send o).thermalAt = s.thermalAt := rfl

/-! ## takeNum -/

@[simp] theorem takeNum_fst (s : State) : s.takeNum.1 = s.fresh + 1 := rfl
@[simp] theorem takeNum_tick (s : State) : s.takeNum.2.tick = s.tick := rfl
@[simp] theorem takeNum_now (s : State) : s.takeNum.2.now = s.now := rfl
@[simp] theorem takeNum_inbox (s : State) : s.takeNum.2.inbox = s.inbox := rfl
@[simp] theorem takeNum_out (s : State) : s.takeNum.2.out = s.out := rfl
@[simp] theorem takeNum_cur (s : State) : s.takeNum.2.cur = s.cur := rfl
@[simp] theorem takeNum_rank (s : State) : s.takeNum.2.rank = s.rank := rfl
@[simp] theorem takeNum_fresh (s : State) : s.takeNum.2.fresh = s.fresh + 1 := rfl
@[simp] theorem takeNum_power (s : State) : s.takeNum.2.power = s.power := rfl
@[simp] theorem takeNum_lanes (s : State) : s.takeNum.2.lanes = s.lanes := rfl
@[simp] theorem takeNum_groups (s : State) : s.takeNum.2.groups = s.groups := rfl
@[simp] theorem takeNum_islots (s : State) : s.takeNum.2.islots = s.islots := rfl
@[simp] theorem takeNum_teams (s : State) : s.takeNum.2.teams = s.teams := rfl
@[simp] theorem takeNum_ctxs (s : State) : s.takeNum.2.ctxs = s.ctxs := rfl
@[simp] theorem takeNum_launches (s : State) : s.takeNum.2.launches = s.launches := rfl
@[simp] theorem takeNum_mem (s : State) : s.takeNum.2.mem = s.mem := rfl
@[simp] theorem takeNum_tags (s : State) : s.takeNum.2.tags = s.tags := rfl
@[simp] theorem takeNum_poison (s : State) : s.takeNum.2.poison = s.poison := rfl
@[simp] theorem takeNum_hostMem (s : State) : s.takeNum.2.hostMem = s.hostMem := rfl
@[simp] theorem takeNum_l1 (s : State) : s.takeNum.2.l1 = s.l1 := rfl
@[simp] theorem takeNum_icache (s : State) : s.takeNum.2.icache = s.icache := rfl
@[simp] theorem takeNum_sync (s : State) : s.takeNum.2.sync = s.sync := rfl
@[simp] theorem takeNum_notices (s : State) : s.takeNum.2.notices = s.notices := rfl
@[simp] theorem takeNum_outst (s : State) : s.takeNum.2.outst = s.outst := rfl
@[simp] theorem takeNum_reqs (s : State) : s.takeNum.2.reqs = s.reqs := rfl
@[simp] theorem takeNum_msc (s : State) : s.takeNum.2.msc = s.msc := rfl
@[simp] theorem takeNum_fences (s : State) : s.takeNum.2.fences = s.fences := rfl
@[simp] theorem takeNum_cmds (s : State) : s.takeNum.2.cmds = s.cmds := rfl
@[simp] theorem takeNum_xrecs (s : State) : s.takeNum.2.xrecs = s.xrecs := rfl
@[simp] theorem takeNum_mma (s : State) : s.takeNum.2.mma = s.mma := rfl
@[simp] theorem takeNum_wloads (s : State) : s.takeNum.2.wloads = s.wloads := rfl
@[simp] theorem takeNum_jobs (s : State) : s.takeNum.2.jobs = s.jobs := rfl
@[simp] theorem takeNum_queues (s : State) : s.takeNum.2.queues = s.queues := rfl
@[simp] theorem takeNum_pools (s : State) : s.takeNum.2.pools = s.pools := rfl
@[simp] theorem takeNum_fwq (s : State) : s.takeNum.2.fwq = s.fwq := rfl
@[simp] theorem takeNum_fwWait (s : State) : s.takeNum.2.fwWait = s.fwWait := rfl
@[simp] theorem takeNum_records (s : State) : s.takeNum.2.records = s.records := rfl
@[simp] theorem takeNum_vers (s : State) : s.takeNum.2.vers = s.vers := rfl
@[simp] theorem takeNum_lastVer (s : State) : s.takeNum.2.lastVer = s.lastVer := rfl
@[simp] theorem takeNum_mrt (s : State) : s.takeNum.2.mrt = s.mrt := rfl
@[simp] theorem takeNum_comms (s : State) : s.takeNum.2.comms = s.comms := rfl
@[simp] theorem takeNum_grants (s : State) : s.takeNum.2.grants = s.grants := rfl
@[simp] theorem takeNum_keys (s : State) : s.takeNum.2.keys = s.keys := rfl
@[simp] theorem takeNum_frames (s : State) : s.takeNum.2.frames = s.frames := rfl
@[simp] theorem takeNum_spares (s : State) : s.takeNum.2.spares = s.spares := rfl
@[simp] theorem takeNum_sweepCur (s : State) : s.takeNum.2.sweepCur = s.sweepCur := rfl
@[simp] theorem takeNum_sweepDone (s : State) : s.takeNum.2.sweepDone = s.sweepDone := rfl
@[simp] theorem takeNum_sweepQueued (s : State) : s.takeNum.2.sweepQueued = s.sweepQueued := rfl
@[simp] theorem takeNum_pass (s : State) : s.takeNum.2.pass = s.pass := rfl
@[simp] theorem takeNum_leases (s : State) : s.takeNum.2.leases = s.leases := rfl
@[simp] theorem takeNum_leaseGens (s : State) : s.takeNum.2.leaseGens = s.leaseGens := rfl
@[simp] theorem takeNum_links (s : State) : s.takeNum.2.links = s.links := rfl
@[simp] theorem takeNum_routes (s : State) : s.takeNum.2.routes = s.routes := rfl
@[simp] theorem takeNum_rnums (s : State) : s.takeNum.2.rnums = s.rnums := rfl
@[simp] theorem takeNum_unsent (s : State) : s.takeNum.2.unsent = s.unsent := rfl
@[simp] theorem takeNum_asked (s : State) : s.takeNum.2.asked = s.asked := rfl
@[simp] theorem takeNum_farDown (s : State) : s.takeNum.2.farDown = s.farDown := rfl
@[simp] theorem takeNum_cut (s : State) : s.takeNum.2.cut = s.cut := rfl
@[simp] theorem takeNum_parts (s : State) : s.takeNum.2.parts = s.parts := rfl
@[simp] theorem takeNum_kept (s : State) : s.takeNum.2.kept = s.kept := rfl
@[simp] theorem takeNum_pseqs (s : State) : s.takeNum.2.pseqs = s.pseqs := rfl
@[simp] theorem takeNum_counts (s : State) : s.takeNum.2.counts = s.counts := rfl
@[simp] theorem takeNum_heldReqs (s : State) : s.takeNum.2.heldReqs = s.heldReqs := rfl
@[simp] theorem takeNum_legs (s : State) : s.takeNum.2.legs = s.legs := rfl
@[simp] theorem takeNum_rdma (s : State) : s.takeNum.2.rdma = s.rdma := rfl
@[simp] theorem takeNum_rdmaNum (s : State) : s.takeNum.2.rdmaNum = s.rdmaNum := rfl
@[simp] theorem takeNum_iqueues (s : State) : s.takeNum.2.iqueues = s.iqueues := rfl
@[simp] theorem takeNum_monitors (s : State) : s.takeNum.2.monitors = s.monitors := rfl
@[simp] theorem takeNum_dies (s : State) : s.takeNum.2.dies = s.dies := rfl
@[simp] theorem takeNum_images (s : State) : s.takeNum.2.images = s.images := rfl
@[simp] theorem takeNum_discarded (s : State) : s.takeNum.2.discarded = s.discarded := rfl
@[simp] theorem takeNum_parish (s : State) : s.takeNum.2.parish = s.parish := rfl
@[simp] theorem takeNum_bootstat (s : State) : s.takeNum.2.bootstat = s.bootstat := rfl
@[simp] theorem takeNum_secver (s : State) : s.takeNum.2.secver = s.secver := rfl
@[simp] theorem takeNum_fuseMin (s : State) : s.takeNum.2.fuseMin = s.fuseMin := rfl
@[simp] theorem takeNum_identity (s : State) : s.takeNum.2.identity = s.identity := rfl
@[simp] theorem takeNum_firmware (s : State) : s.takeNum.2.firmware = s.firmware := rfl
@[simp] theorem takeNum_lastRefill (s : State) : s.takeNum.2.lastRefill = s.lastRefill := rfl
@[simp] theorem takeNum_lastUpdate (s : State) : s.takeNum.2.lastUpdate = s.lastUpdate := rfl
@[simp] theorem takeNum_governed (s : State) : s.takeNum.2.governed = s.governed := rfl
@[simp] theorem takeNum_thermalAt (s : State) : s.takeNum.2.thermalAt = s.thermalAt := rfl

/-! ## Updates by a function -/

@[simp] theorem modLane_eq (s : State) (k : Nat) (f : Lane → Lane) : s.modLane k f = s.setLane k (f (s.lane k)) := rfl
@[simp] theorem modGroup_eq (s : State) (k : Nat) (f : Group → Group) : s.modGroup k f = s.setGroup k (f (s.group k)) := rfl
@[simp] theorem modTeam_eq (s : State) (k : Nat) (f : Team → Team) : s.modTeam k f = s.setTeam k (f (s.team k)) := rfl
@[simp] theorem modCtx_eq (s : State) (k : Nat) (f : Ctx → Ctx) : s.modCtx k f = s.setCtx k (f (s.ctx k)) := rfl
@[simp] theorem modLaunch_eq (s : State) (k : Nat) (f : Launch → Launch) : s.modLaunch k f = s.setLaunch k (f (s.launch k)) := rfl
@[simp] theorem modISlot_eq (s : State) (k : Nat) (f : ISlot → ISlot) : s.modISlot k f = s.setISlot k (f (s.islot k)) := rfl

end Sys2Proof.Machine
end

