-- ==== Sys2Proof/Laws/Store.lean ====
section
/-! SUPPORT. What reading a table or memory gives after it has been written, and that memory keeps its canonical form. -/

namespace Sys2Proof.Machine

/-! ## Tables -/

@[simp] theorem Tbl.get?_nil {α : Type} (k : Nat) : Tbl.get? ([] : Tbl α) k = none := rfl

theorem Tbl.get?_set {α : Type} (t : Tbl α) (k j : Nat) (a : α) :
    (t.set k a).get? j = if k = j then some a else t.get? j := by
  induction t with
  | nil => simp [Tbl.set, Tbl.get?]
  | cons p t ih =>
    obtain ⟨i, b⟩ := p
    unfold Tbl.set
    split
    · simp [Tbl.get?]
    · split
      · subst i; by_cases h : k = j <;> simp [Tbl.get?, h]
      · by_cases h : i = j
        · subst j
          have hk : ¬ k = i := by omega
          simp [Tbl.get?, hk]
        · simp [Tbl.get?, h, ih]

@[simp] theorem Tbl.get?_set_self {α : Type} (t : Tbl α) (k : Nat) (a : α) : (t.set k a).get? k = some a := by
  simp [Tbl.get?_set]

theorem Tbl.get?_erase {α : Type} (t : Tbl α) (k j : Nat) :
    (t.erase k).get? j = if k = j then none else t.get? j := by
  induction t with
  | nil => simp [Tbl.erase, Tbl.get?]
  | cons p t ih =>
    obtain ⟨i, b⟩ := p
    unfold Tbl.erase
    split
    · subst i; rw [ih]; by_cases h : k = j <;> simp [Tbl.get?, h]
    · by_cases h : i = j
      · subst j
        have hk : ¬ k = i := by omega
        simp [Tbl.get?, hk]
      · simp [Tbl.get?, h, ih]

theorem Tbl.getD_set {α : Type} (t : Tbl α) (k j : Nat) (a d : α) :
    (t.set k a).getD j d = if k = j then a else t.getD j d := by
  unfold Tbl.getD; rw [Tbl.get?_set]; split <;> rfl

@[simp] theorem Tbl.getD_set_self {α : Type} (t : Tbl α) (k : Nat) (a d : α) : (t.set k a).getD k d = a := by
  simp [Tbl.getD_set]

theorem Tbl.getD_erase {α : Type} (t : Tbl α) (k j : Nat) (d : α) :
    (t.erase k).getD j d = if k = j then d else t.getD j d := by
  unfold Tbl.getD; rw [Tbl.get?_erase]; split <;> rfl

theorem Tbl.get?_modify {α : Type} (t : Tbl α) (k j : Nat) (f : α → α) :
    (t.modify k f).get? j = if k = j then (t.get? j).map f else t.get? j := by
  induction t with
  | nil => simp [Tbl.modify, Tbl.get?]
  | cons p t ih =>
    obtain ⟨i, b⟩ := p
    unfold Tbl.modify at ih
    by_cases h : i = j
    · subst j; by_cases hk : i = k
      · subst k; simp [Tbl.modify, Tbl.get?]
      · have hk' : ¬ k = i := fun e => hk e.symm
        simp [Tbl.modify, Tbl.get?, hk, hk']
    · by_cases hk : i = k <;> simp [Tbl.modify, Tbl.get?, h, hk, ih]; split <;> simp_all

/-! ## Sorted sets of numbers -/

theorem mem_insertNat (l : List Nat) (k j : Nat) : j ∈ insertNat l k ↔ j = k ∨ j ∈ l := by
  induction l with
  | nil => simp [insertNat]
  | cons i t ih =>
    unfold insertNat
    split
    · simp
    · split
      · subst i; simp
      · simp [ih]; tauto

theorem mem_dropNat (l : List Nat) (k j : Nat) : j ∈ dropNat l k ↔ j ∈ l ∧ j ≠ k := by simp [dropNat]

theorem mem_putNat (l : List Nat) (k j : Nat) (b : Bool) :
    j ∈ putNat l k b ↔ if j = k then b = true else j ∈ l := by
  unfold putNat
  cases b
  · by_cases h : j = k <;> simp [mem_dropNat, h]
  · by_cases h : j = k <;> simp [mem_insertNat, h]

/-! ## Memory -/

@[simp] theorem Memory.byte_nil (a : Nat) : Memory.byte [] a = Memory.fill := rfl

theorem Memory.byte_remove (m : Memory) (a x : Nat) :
    Memory.byte (m.remove a) x = if x = a then Memory.fill else Memory.byte m x := by
  induction m with
  | nil => simp [Memory.remove]
  | cons c t ih =>
    unfold Memory.remove
    split
    · subst a; rw [ih]; by_cases h : x = c.1
      · simp [h]
      · have h' : ¬ c.1 = x := fun e => h e.symm
        simp [Memory.byte, h, h']
    · by_cases h : c.1 = x
      · subst h; simp [Memory.byte, *]
      · simp [Memory.byte, h, ih]

theorem Memory.byte_insert (m : Memory) (a x : Nat) (b : Byte) :
    Memory.byte (m.insert a b) x = if x = a then b else Memory.byte m x := by
  induction m with
  | nil => simp [Memory.insert, Memory.byte, eq_comm]
  | cons c t ih =>
    unfold Memory.insert
    split
    · by_cases h : x = a
      · simp [Memory.byte, h]
      · have h' : ¬ a = x := fun e => h e.symm
        simp [Memory.byte, h, h']
    · split
      · subst a; by_cases h : x = c.1
        · simp [Memory.byte, h]
        · have h' : ¬ c.1 = x := fun e => h e.symm
          simp [Memory.byte, h, h']
      · by_cases h : c.1 = x
        · subst h; simp [Memory.byte, *]
        · simp [Memory.byte, h, ih]

/-- READ AFTER WRITE, and that a write leaves every other byte alone. -/
theorem Memory.byte_setByte (m : Memory) (a x : Nat) (b : Byte) :
    Memory.byte (m.setByte a b) x = if x = a then b else Memory.byte m x := by
  unfold Memory.setByte
  split
  · rw [Memory.byte_remove]; simp_all
  · rw [Memory.byte_insert]

/-- The bytes written from an address on read back; every byte outside the range is as before. -/
theorem Memory.byte_setBytes (m : Memory) (a x : Nat) (bs : List Byte) :
    Memory.byte (m.setBytes a bs) x = if a ≤ x ∧ x < a + bs.length then bs.getD (x - a) 0 else Memory.byte m x := by
  induction bs generalizing m a with
  | nil => simp [Memory.setBytes]
  | cons b bs ih =>
    simp only [Memory.setBytes, ih, List.length_cons, Memory.byte_setByte]
    by_cases h : x = a
    · subst x; simp
    · by_cases h2 : a + 1 ≤ x ∧ x < a + 1 + bs.length
      · have : x - a = (x - (a + 1)) + 1 := by omega
        rw [if_pos h2, if_pos (by omega), this]; simp
      · rw [if_neg h2, if_neg h, if_neg (by omega)]

/-- The canonical form says the same as this: the addresses rise and no cell holds the fill. -/
theorem Memory.wf_iff (m : Memory) :
    m.wf = true ↔ (m.map Prod.fst).Pairwise (· < ·) ∧ ∀ c ∈ m, c.2 ≠ Memory.fill := by
  induction m with
  | nil => simp [Memory.wf]
  | cons c t ih =>
    cases t with
    | nil => simp [Memory.wf]
    | cons d t =>
      simp only [Memory.wf, Bool.and_eq_true, bne_iff_ne, decide_eq_true_eq, ih]
      simp only [List.map_cons, List.pairwise_cons, List.mem_cons, forall_eq_or_imp, List.mem_map]
      constructor
      · rintro ⟨h1, h2, ⟨h3, h4⟩, h5⟩
        refine ⟨⟨⟨h2, ?_⟩, h3, h4⟩, h1, h5⟩
        rintro a ⟨x, hx, rfl⟩
        exact lt_trans h2 (h3 _ ⟨x, hx, rfl⟩)
      · rintro ⟨⟨⟨h2, _⟩, h3, h4⟩, h1, h5⟩
        exact ⟨h1, h2, ⟨h3, h4⟩, h5⟩

theorem Memory.mem_remove {m : Memory} {a : Nat} {c : Nat × Byte} (h : c ∈ m.remove a) : c ∈ m := by
  induction m with
  | nil => simp [Memory.remove] at h
  | cons d t ih =>
    unfold Memory.remove at h
    split at h
    · exact List.mem_cons_of_mem _ (ih h)
    · rcases List.mem_cons.1 h with h | h
      · simp [h]
      · exact List.mem_cons_of_mem _ (ih h)

theorem Memory.wf_remove {m : Memory} (h : m.wf = true) (a : Nat) : (m.remove a).wf = true := by
  rw [Memory.wf_iff] at *
  obtain ⟨h1, h2⟩ := h
  refine ⟨?_, fun c hc => h2 c (Memory.mem_remove hc)⟩
  clear h2
  induction m with
  | nil => simp [Memory.remove]
  | cons d t ih =>
    simp only [List.map_cons, List.pairwise_cons] at h1
    unfold Memory.remove
    split
    · exact ih h1.2
    · simp only [List.map_cons, List.pairwise_cons]
      refine ⟨?_, ih h1.2⟩
      intro x hx
      obtain ⟨c, hc, rfl⟩ := List.mem_map.1 hx
      exact h1.1 _ (List.mem_map.2 ⟨c, Memory.mem_remove hc, rfl⟩)

theorem Memory.mem_insert {m : Memory} {a : Nat} {b : Byte} {c : Nat × Byte} (h : c ∈ m.insert a b) : c = (a, b) ∨ c ∈ m := by
  induction m with
  | nil => simpa [Memory.insert] using h
  | cons d t ih =>
    unfold Memory.insert at h
    split at h
    · simpa using h
    · split at h
      · rcases List.mem_cons.1 h with h | h
        · exact .inl h
        · exact .inr (List.mem_cons_of_mem _ h)
      · rcases List.mem_cons.1 h with h | h
        · exact .inr (by simp [h])
        · rcases ih h with h | h
          · exact .inl h
          · exact .inr (List.mem_cons_of_mem _ h)

theorem Memory.wf_insert {m : Memory} (h : m.wf = true) (a : Nat) {b : Byte} (hb : b ≠ Memory.fill) :
    (m.insert a b).wf = true := by
  rw [Memory.wf_iff] at *
  obtain ⟨h1, h2⟩ := h
  refine ⟨?_, fun c hc => ?_⟩
  · clear h2
    induction m with
    | nil => simp [Memory.insert]
    | cons d t ih =>
      simp only [List.map_cons, List.pairwise_cons] at h1
      unfold Memory.insert
      split
      · rename_i hlt
        simp only [List.map_cons, List.pairwise_cons, List.mem_cons, forall_eq_or_imp]
        exact ⟨⟨hlt, fun x hx => lt_trans hlt (h1.1 x hx)⟩, h1⟩
      · split
        · rename_i he
          simp only [List.map_cons, List.pairwise_cons]
          exact ⟨he ▸ h1.1, h1.2⟩
        · rename_i hlt hne
          simp only [List.map_cons, List.pairwise_cons]
          refine ⟨?_, ih h1.2⟩
          intro x hx
          obtain ⟨c, hc, rfl⟩ := List.mem_map.1 hx
          rcases Memory.mem_insert hc with rfl | hc
          · show d.1 < a; omega
          · exact h1.1 _ (List.mem_map.2 ⟨c, hc, rfl⟩)
  · rcases Memory.mem_insert hc with rfl | hc
    · exact hb
    · exact h2 c hc

/-- Writing a byte keeps the canonical form. -/
theorem Memory.wf_setByte {m : Memory} (h : m.wf = true) (a : Nat) (b : Byte) : (m.setByte a b).wf = true := by
  unfold Memory.setByte
  split
  · exact Memory.wf_remove h a
  · exact Memory.wf_insert h a (by assumption)

/-- Writing bytes keeps the canonical form. -/
theorem Memory.wf_setBytes {m : Memory} (h : m.wf = true) (a : Nat) (bs : List Byte) : (m.setBytes a bs).wf = true := by
  induction bs generalizing m a with
  | nil => exact h
  | cons b bs ih => exact ih (Memory.wf_setByte h a b) (a + 1)

/-- A part of canonical memory is canonical. -/
theorem Memory.wf_filter {m : Memory} (h : m.wf = true) (p : Nat × Byte → Bool) :
    Memory.wf (List.filter p m) = true := by
  rw [Memory.wf_iff] at *
  exact ⟨h.1.sublist (List.filter_sublist.map _), fun c hc => h.2 c (List.mem_of_mem_filter hc)⟩

/-- Clearing a range keeps the canonical form. -/
theorem Memory.wf_clear {m : Memory} (h : m.wf = true) (lo hi : Nat) : (m.clear lo hi).wf = true := Memory.wf_filter h _

@[simp] theorem Memory.wf_nil : Memory.wf [] = true := rfl

end Sys2Proof.Machine
end

