-- ==== Sys2Proof/Laws/Ops.lean ====
section
/-! SUPPORT. What the named operations over the state do: looking up what has been set, one write, the advance of a lane and of
a clause, completing an instruction, taking a fault, and the frame of an instruction. -/

namespace Sys2Proof.Machine

/-! ## Looking up what has been set -/

theorem lane_setLane (s : State) (k j : Nat) (l : Lane) : (s.setLane k l).lane j = if k = j then l else s.lane j := by
  simp [State.lane, Tbl.getD_set]

@[simp] theorem lane_setLane_self (s : State) (k : Nat) (l : Lane) : (s.setLane k l).lane k = l := by simp [lane_setLane]

theorem group_setGroup (s : State) (k j : Nat) (g : Group) :
    (s.setGroup k g).group j = if k = j then g else s.group j := by simp [State.group, Tbl.getD_set]

@[simp] theorem group_setGroup_self (s : State) (k : Nat) (g : Group) : (s.setGroup k g).group k = g := by
  simp [group_setGroup]

theorem team_setTeam (s : State) (k j : Nat) (m : Team) : (s.setTeam k m).team j = if k = j then m else s.team j := by
  simp [State.team, Tbl.getD_set]

theorem ctx_setCtx (s : State) (k j : Nat) (x : Ctx) : (s.setCtx k x).ctx j = if k = j then x else s.ctx j := by
  simp [State.ctx, Tbl.getD_set]

theorem launch_setLaunch (s : State) (k j : Nat) (l : Launch) :
    (s.setLaunch k l).launch j = if k = j then l else s.launch j := by simp [State.launch, Tbl.getD_set]

theorem islot_setISlot (s : State) (k j : Nat) (i : ISlot) :
    (s.setISlot k i).islot j = if k = j then i else s.islot j := by simp [State.islot, Tbl.getD_set]

@[simp] theorem lane_setGroup (s : State) (k j : Nat) (g : Group) : (s.setGroup k g).lane j = s.lane j := rfl
@[simp] theorem lane_setTeam (s : State) (k j : Nat) (m : Team) : (s.setTeam k m).lane j = s.lane j := rfl
@[simp] theorem lane_setCtx (s : State) (k j : Nat) (x : Ctx) : (s.setCtx k x).lane j = s.lane j := rfl
@[simp] theorem lane_setISlot (s : State) (k j : Nat) (i : ISlot) : (s.setISlot k i).lane j = s.lane j := rfl
@[simp] theorem group_setLane (s : State) (k j : Nat) (l : Lane) : (s.setLane k l).group j = s.group j := rfl
@[simp] theorem group_setTeam (s : State) (k j : Nat) (m : Team) : (s.setTeam k m).group j = s.group j := rfl
@[simp] theorem group_setCtx (s : State) (k j : Nat) (x : Ctx) : (s.setCtx k x).group j = s.group j := rfl
@[simp] theorem group_setISlot (s : State) (k j : Nat) (i : ISlot) : (s.setISlot k i).group j = s.group j := rfl
@[simp] theorem team_setLane (s : State) (k j : Nat) (l : Lane) : (s.setLane k l).team j = s.team j := rfl
@[simp] theorem team_setGroup (s : State) (k j : Nat) (g : Group) : (s.setGroup k g).team j = s.team j := rfl
@[simp] theorem team_setCtx (s : State) (k j : Nat) (x : Ctx) : (s.setCtx k x).team j = s.team j := rfl
@[simp] theorem team_setISlot (s : State) (k j : Nat) (i : ISlot) : (s.setISlot k i).team j = s.team j := rfl
@[simp] theorem ctx_setLane (s : State) (k j : Nat) (l : Lane) : (s.setLane k l).ctx j = s.ctx j := rfl
@[simp] theorem ctx_setGroup (s : State) (k j : Nat) (g : Group) : (s.setGroup k g).ctx j = s.ctx j := rfl
@[simp] theorem ctx_setTeam (s : State) (k j : Nat) (m : Team) : (s.setTeam k m).ctx j = s.ctx j := rfl
@[simp] theorem ctx_setISlot (s : State) (k j : Nat) (i : ISlot) : (s.setISlot k i).ctx j = s.ctx j := rfl
@[simp] theorem islot_setLane (s : State) (k j : Nat) (l : Lane) : (s.setLane k l).islot j = s.islot j := rfl
@[simp] theorem islot_setGroup (s : State) (k j : Nat) (g : Group) : (s.setGroup k g).islot j = s.islot j := rfl
@[simp] theorem islot_setCtx (s : State) (k j : Nat) (x : Ctx) : (s.setCtx k x).islot j = s.islot j := rfl

/-! ## States that differ in lanes, groups and issue slots only -/

/-- Two states agree outside their lanes, groups and issue slots. -/
def Near (s t : State) : Prop := t = { s with lanes := t.lanes, groups := t.groups, islots := t.islots }

theorem Near.refl (s : State) : Near s s := rfl

theorem Near.trans {s t u : State} (h1 : Near s t) (h2 : Near t u) : Near s u := by
  unfold Near at *; rw [h2, h1]

theorem Near.cur {s t : State} (h : Near s t) : t.cur = s.cur := by rw [h]
theorem Near.now {s t : State} (h : Near s t) : t.now = s.now := by rw [h]

theorem near_setLane (s : State) (k : Nat) (l : Lane) : Near s (s.setLane k l) := rfl
theorem near_setGroup (s : State) (k : Nat) (g : Group) : Near s (s.setGroup k g) := rfl
theorem near_setISlot (s : State) (k : Nat) (i : ISlot) : Near s (s.setISlot k i) := rfl

/-! ## Lanes of the issuing set -/

theorem mem_maskLanes (m : DWord) (i : Nat) : i ∈ maskLanes m ↔ i < 64 ∧ m.getLsbD i = true := by
  simp [maskLanes]

theorem nodup_maskLanes (m : DWord) : (maskLanes m).Nodup := List.Nodup.filter _ List.nodup_range

/-- The issuing set has each lane once. -/
theorem nodup_setLanes (s : State) : s.setLanes.Nodup := by
  unfold State.setLanes
  exact List.Nodup.filter _ ((nodup_maskLanes _).map fun a b h => by simpa using h)

/-- Its lanes are of the issuing group. -/
theorem groupOf_setLanes {s : State} {lk : Nat} (h : lk ∈ s.setLanes) : groupOf lk = s.cur.gkey := by
  simp only [State.setLanes, List.mem_filter, List.mem_map, mem_maskLanes] at h
  obtain ⟨⟨i, ⟨hi, -⟩, rfl⟩, -⟩ := h
  simp only [groupOf]; omega

theorem acting_sub {s : State} {i : Instr} {lk : Nat} (h : lk ∈ s.acting i) : lk ∈ s.setLanes :=
  (List.mem_filter.1 h).1

theorem nodup_acting (s : State) (i : Instr) : (s.acting i).Nodup := List.Nodup.filter _ (nodup_setLanes s)

/-! ## One write -/

theorem near_write (s : State) (lk : Nat) (w : RegWrite) : Near s (s.write lk w) := by
  cases w <;> simp only [State.write] <;> repeat' split
  all_goals first | exact near_setLane _ _ _ | exact near_setGroup _ _ _ | rfl

theorem islot_write (s : State) (lk k : Nat) (w : RegWrite) : (s.write lk w).islot k = s.islot k := by
  cases w <;> simp only [State.write] <;> repeat' split
  all_goals rfl

/-- A write changes the lane as `Lane.put` says, and no other. -/
theorem lane_write (s : State) (lk j : Nat) (w : RegWrite) :
    (s.write lk w).lane j = if lk = j then (s.lane lk).put w else s.lane j := by
  cases w with
  | reg f k v => simp only [State.write, Lane.put]; split <;> simp [lane_setLane]; split <;> simp +contextual
  | bad f k => simp only [State.write, Lane.put]; split <;> simp [lane_setLane]; split <;> simp +contextual
  | quad f k v t => simp only [State.write, Lane.put]; split <;> simp [lane_setLane]; split <;> simp +contextual
  | pred k b => simp only [State.write, Lane.put]; split <;> simp +contextual [lane_setLane]

/-- A write changes the lane's group as `Group.put` says, and no other. -/
theorem group_write (s : State) (lk j : Nat) (w : RegWrite) :
    (s.write lk w).group j = if groupOf lk = j then (s.group (groupOf lk)).put w else s.group j := by
  cases w with
  | reg f k v =>
      simp only [State.write, Group.put]; split
      · simp +contextual
      · split <;> simp +contextual [group_setGroup]
  | bad f k =>
      simp only [State.write, Group.put]; split
      · simp +contextual
      · split <;> simp +contextual [group_setGroup]
  | quad f k v t =>
      simp only [State.write, Group.put]; split
      · simp +contextual
      · split <;> simp +contextual [group_setGroup]
  | pred k b => simp only [State.write, Group.put]; split <;> simp +contextual

/-- A write that is not to a uniform register leaves every group. -/
theorem Group.put_of_not_uniform (g : Group) (w : RegWrite) (h : w.uniform = false) : g.put w = g := by
  cases w <;> simp [RegWrite.uniform, Group.put] at * <;> intros <;> omega

/-- A write to a uniform register leaves every lane. -/
theorem Lane.put_of_uniform (l : Lane) (w : RegWrite) (h : w.uniform = true) : l.put w = l := by
  cases w <;> simp [RegWrite.uniform, Lane.put] at * <;> intros <;> omega

/-! ## One effect of an instruction -/

theorem near_applyWr (s : State) (lk : Nat) (low : Bool) (w : Wr) : Near s (s.applyWr lk low w) := by
  cases w with
  | rw w => simp only [State.applyWr]; split; exacts [rfl, near_write s lk w]
  | _ => exact near_setLane _ _ _

theorem islot_applyWr (s : State) (lk k : Nat) (low : Bool) (w : Wr) : (s.applyWr lk low w).islot k = s.islot k := by
  cases w with
  | rw w => simp only [State.applyWr]; split; exacts [rfl, islot_write s lk k w]
  | _ => rfl

theorem lane_applyWr (s : State) (lk j : Nat) (low : Bool) (w : Wr) :
    (s.applyWr lk low w).lane j = if lk = j then s.putWr (s.lane lk) w else s.lane j := by
  cases w with
  | rw w =>
      simp only [State.applyWr, State.putWr]
      split
      · rename_i h
        have hu : w.uniform = true := by simp at h; exact h.1
        rw [Lane.put_of_uniform _ _ hu]; split <;> simp_all
      · exact lane_write s lk j w
  | _ => simp [State.applyWr, State.putWr, lane_setLane]

theorem group_applyWr (s : State) (lk j : Nat) (low : Bool) (w : Wr) :
    (s.applyWr lk low w).group j =
      if groupOf lk = j ∧ low = true then Group.putWr (s.group (groupOf lk)) w else s.group j := by
  cases w with
  | rw w =>
      simp only [State.applyWr, Group.putWr]
      cases low with
      | true => simp [group_write]
      | false =>
          cases hu : w.uniform with
          | true => simp
          | false =>
              simp only [Bool.not_false, Bool.and_true, Bool.false_eq_true, ↓reduceIte, and_false, group_write]
              rw [Group.put_of_not_uniform _ _ hu]; split <;> simp_all
  | _ => simp only [State.applyWr, Group.putWr, modLane_eq, group_setLane]; split <;> simp_all

/-- The way an effect changes a lane depends on the issuing instruction and the time alone. -/
theorem putWr_near {s t : State} (h : Near s t) : t.putWr = s.putWr := by
  funext l w
  rw [h]; cases w <;> rfl

theorem near_applyWrs (s : State) (lk : Nat) (low : Bool) (ws : List Wr) : Near s (s.applyWrs lk low ws) := by
  induction ws generalizing s with
  | nil => exact Near.refl s
  | cons w ws ih => exact (near_applyWr s lk low w).trans (ih _)

theorem islot_applyWrs (s : State) (lk k : Nat) (low : Bool) (ws : List Wr) :
    (s.applyWrs lk low ws).islot k = s.islot k := by
  induction ws generalizing s with
  | nil => rfl
  | cons w ws ih => exact (ih _).trans (islot_applyWr s lk k low w)

theorem lane_applyWrs (s : State) (lk j : Nat) (low : Bool) (ws : List Wr) :
    (s.applyWrs lk low ws).lane j = if lk = j then ws.foldl s.putWr (s.lane lk) else s.lane j := by
  induction ws generalizing s with
  | nil => simp only [State.applyWrs, List.foldl_nil]; split <;> simp_all
  | cons w ws ih =>
    have := ih (s.applyWr lk low w)
    simp only [State.applyWrs, List.foldl_cons] at this ⊢
    rw [this, putWr_near (near_applyWr s lk low w)]
    simp only [lane_applyWr]
    split <;> simp_all

theorem group_applyWrs (s : State) (lk j : Nat) (low : Bool) (ws : List Wr) :
    (s.applyWrs lk low ws).group j =
      if groupOf lk = j ∧ low = true then ws.foldl Group.putWr (s.group (groupOf lk)) else s.group j := by
  induction ws generalizing s with
  | nil => simp only [State.applyWrs, List.foldl_nil]; split <;> simp_all
  | cons w ws ih =>
    have := ih (s.applyWr lk low w)
    simp only [State.applyWrs, List.foldl_cons] at this ⊢
    rw [this]
    simp only [group_applyWr]
    split <;> simp_all

/-- The effects of several lanes, one after another. -/
def State.applyAll (s : State) (ls : List Nat) (ws : Nat → List Wr) (low : Option Nat) : State :=
  ls.foldl (fun s lk => s.applyWrs lk (low = some lk) (ws lk)) s

theorem near_applyAll (s : State) (ls : List Nat) (ws : Nat → List Wr) (low : Option Nat) :
    Near s (s.applyAll ls ws low) := by
  induction ls generalizing s with
  | nil => exact Near.refl s
  | cons a ls ih => exact (near_applyWrs s a _ _).trans (ih _)

theorem islot_applyAll (s : State) (k : Nat) (ls : List Nat) (ws : Nat → List Wr) (low : Option Nat) :
    (s.applyAll ls ws low).islot k = s.islot k := by
  induction ls generalizing s with
  | nil => rfl
  | cons a ls ih => exact (ih _).trans (islot_applyWrs s a k _ _)

theorem lane_applyAll (s : State) (j : Nat) (ls : List Nat) (ws : Nat → List Wr) (low : Option Nat) (hn : ls.Nodup) :
    (s.applyAll ls ws low).lane j = if j ∈ ls then (ws j).foldl s.putWr (s.lane j) else s.lane j := by
  induction ls generalizing s with
  | nil => simp [State.applyAll]
  | cons a ls ih =>
    have ha : a ∉ ls := (List.nodup_cons.1 hn).1
    have := ih (s.applyWrs a (low = some a) (ws a)) (List.nodup_cons.1 hn).2
    simp only [State.applyAll, List.foldl_cons] at this ⊢
    rw [this, putWr_near (near_applyWrs s a _ _)]
    simp only [lane_applyWrs, List.mem_cons]
    by_cases h : a = j
    · subst h; simp [ha]
    · have h' : ¬ j = a := fun e => h e.symm
      simp [h, h']

/-- Of several lanes of one group, only the lowest writes uniform registers (R32). -/
theorem group_applyAll (s : State) (gk j : Nat) (ls : List Nat) (ws : Nat → List Wr) (hn : ls.Nodup)
    (hg : ∀ lk ∈ ls, groupOf lk = gk) :
    (s.applyAll ls ws ls.head?).group j =
      if gk = j then (s.group gk).putLow ls ws else s.group j := by
  cases ls with
  | nil => simp only [State.applyAll, List.foldl_nil, Group.putLow]; split <;> simp_all
  | cons a ls =>
    have ha : a ∉ ls := (List.nodup_cons.1 hn).1
    have h1 : groupOf a = gk := hg a (by simp)
    have later : ∀ (l : List Nat) (u : State), a ∉ l → (u.applyAll l ws (some a)).group j = u.group j := by
      intro l
      induction l with
      | nil => intro u _; rfl
      | cons b l ih =>
        intro u hb
        have hba : ¬ a = b := fun e => hb (by simp [e])
        have := ih (u.applyWrs b (some a = some b) (ws b)) (fun e => hb (by simp [e]))
        simp only [State.applyAll, List.foldl_cons] at this ⊢
        rw [this, group_applyWrs]; simp [hba]
    have h2 : s.applyAll (a :: ls) ws (a :: ls).head? = (s.applyWrs a true (ws a)).applyAll ls ws (some a) := by
      simp [State.applyAll]
    rw [h2, later ls _ ha, group_applyWrs, h1]; simp [Group.putLow]

/-! ## The advance of lanes and of the clause -/

theorem near_advanceLane (s : State) (lk : Nat) : Near s (s.advanceLane lk) := near_setLane _ _ _

theorem lane_advanceLane (s : State) (lk j : Nat) :
    (s.advanceLane lk).lane j = if lk = j then s.behind (s.lane lk) else s.lane j := by
  simp [State.advanceLane, State.behind, lane_setLane]

theorem behind_near {s t : State} (h : Near s t) (l : Lane) : t.behind l = s.behind l := by
  unfold State.behind; rw [h.cur, h.now]

/-- Several lanes advance. -/
def State.advanceLanes (s : State) (ls : List Nat) : State := ls.foldl (fun s lk => s.advanceLane lk) s

theorem near_advanceLanes (s : State) (ls : List Nat) : Near s (s.advanceLanes ls) := by
  induction ls generalizing s with
  | nil => exact Near.refl s
  | cons a ls ih => exact (near_advanceLane s a).trans (ih _)

@[simp] theorem group_advanceLanes (s : State) (ls : List Nat) (j : Nat) : (s.advanceLanes ls).group j = s.group j := by
  induction ls generalizing s with
  | nil => rfl
  | cons a ls ih => exact (ih _).trans rfl

@[simp] theorem islot_advanceLanes (s : State) (ls : List Nat) (j : Nat) : (s.advanceLanes ls).islot j = s.islot j := by
  induction ls generalizing s with
  | nil => rfl
  | cons a ls ih => exact (ih _).trans rfl

theorem lane_advanceLanes (s : State) (ls : List Nat) (j : Nat) :
    (s.advanceLanes ls).lane j = if j ∈ ls then s.behind (s.lane j) else s.lane j := by
  induction ls generalizing s with
  | nil => simp [State.advanceLanes]
  | cons a ls ih =>
    have := ih (s.advanceLane a)
    simp only [State.advanceLanes, List.foldl_cons] at this ⊢
    rw [this, behind_near (near_advanceLane s a), lane_advanceLane]
    by_cases h : a = j
    · subst h; by_cases h2 : a ∈ ls <;> simp [h2, State.behind]
    · have h' : ¬ j = a := fun e => h e.symm
      simp [h, h']

/-- The end of a clause changes its issue slot alone. -/
theorem endClause_eq (s : State) (k p : Nat) : s.endClause k p = s ∨ ∃ i, s.endClause k p = s.setISlot k i := by
  unfold State.endClause
  dsimp only
  repeat' split
  all_goals first | exact .inl rfl | exact .inr ⟨_, rfl⟩

theorem near_endClause (s : State) (k p : Nat) : Near s (s.endClause k p) := by
  rcases endClause_eq s k p with h | ⟨i, h⟩ <;> rw [h]
  exacts [Near.refl s, near_setISlot _ _ _]

@[simp] theorem lane_endClause (s : State) (k p j : Nat) : (s.endClause k p).lane j = s.lane j := by
  rcases endClause_eq s k p with h | ⟨i, h⟩ <;> rw [h]; rfl

@[simp] theorem group_endClause (s : State) (k p j : Nat) : (s.endClause k p).group j = s.group j := by
  rcases endClause_eq s k p with h | ⟨i, h⟩ <;> rw [h]; rfl

theorem islot_endClause (s : State) (k p j : Nat) (h : j ≠ k) : (s.endClause k p).islot j = s.islot j := by
  have hk : ¬ k = j := fun e => h e.symm
  rcases endClause_eq s k p with h | ⟨i, h⟩ <;> rw [h]
  simp [islot_setISlot, hk]

theorem near_advanceClause (s : State) (stay : List Nat) (y : Bool) : Near s (s.advanceClause stay y) := by
  unfold State.advanceClause
  dsimp only [modISlot_eq, modGroup_eq]
  split
  · exact ((near_setISlot _ _ _).trans (near_setGroup _ _ _)).trans (near_endClause _ _ _)
  · exact (near_setISlot _ _ _).trans (near_setGroup _ _ _)

@[simp] theorem lane_advanceClause (s : State) (stay : List Nat) (y : Bool) (j : Nat) :
    (s.advanceClause stay y).lane j = s.lane j := by
  unfold State.advanceClause
  dsimp only
  split <;> simp

theorem group_advanceClause (s : State) (stay : List Nat) (y : Bool) (j : Nat) :
    (s.advanceClause stay y).group j =
      if s.cur.gkey = j then { s.group s.cur.gkey with lastIssue := s.now } else s.group j := by
  unfold State.advanceClause
  dsimp only
  split <;> simp [group_setGroup]

theorem islot_advanceClause (s : State) (stay : List Nat) (y : Bool) (j : Nat) (h : j ≠ s.cur.islotKey) :
    (s.advanceClause stay y).islot j = s.islot j := by
  have hk : ¬ s.cur.islotKey = j := fun e => h e.symm
  unfold State.advanceClause
  dsimp only
  split
  · rw [islot_endClause _ _ _ _ h]; simp [islot_setISlot, hk]
  · simp [islot_setISlot, hk]

/-! ## Completing an instruction -/

theorem faulted_ok (ls : List Nat) (ws : Nat → List Wr) :
    faultsOf (ls.map fun lk => (lk, (.ok (ws lk) : LaneRes))) = [] := by
  simp [faultsOf]

theorem commit_ok (s : State) (ls : List Nat) (ws : Nat → List Wr) (low : Option Nat) (y : Bool) :
    s.commit (ls.map fun lk => (lk, .ok (ws lk))) low y =
      ((s.advanceLanes s.setLanes).applyAll ls ws low).advanceClause s.setLanes y := by
  unfold State.commit
  rw [faulted_ok]
  simp [State.advanceLanes, State.applyAll, State.applyRes, List.foldl_map]

/-- WHAT COMPLETING DOES, said once: with no fault among them, the acting lanes of the set get their results. -/
theorem commit_completed (s : State) (ls : List Nat) (ws : Nat → List Wr) (y : Bool)
    (hs : ∀ lk ∈ ls, lk ∈ s.setLanes) (hn : ls.Nodup) :
    Completed s (s.commit (ls.map fun lk => (lk, .ok (ws lk))) ls.head? y) ls ws := by
  rw [commit_ok]
  have na := near_advanceLanes s s.setLanes
  have nb := na.trans (near_applyAll (s.advanceLanes s.setLanes) ls ws ls.head?)
  have nc := nb.trans (near_advanceClause _ s.setLanes y)
  refine ⟨?_, ?_, ?_, ?_, ?_, ?_, nc⟩
  · intro lk h1 h2
    rw [lane_advanceClause, lane_applyAll _ _ _ _ _ hn, if_pos h2, putWr_near na, lane_advanceLanes, if_pos h1]
  · intro lk h1 h2
    rw [lane_advanceClause, lane_applyAll _ _ _ _ _ hn, if_neg h2, lane_advanceLanes, if_pos h1]
  · intro lk h1
    rw [lane_advanceClause, lane_applyAll _ _ _ _ _ hn, if_neg (fun h => h1 (hs lk h)), lane_advanceLanes, if_neg h1]
  · rw [group_advanceClause, nb.cur, if_pos rfl, nb.now,
      group_applyAll _ s.cur.gkey _ _ _ hn (fun lk h => groupOf_setLanes (hs lk h)), if_pos rfl]
    simp only [group_advanceLanes]
  · intro gk h
    have h' : ¬ s.cur.gkey = gk := fun e => h e.symm
    rw [group_advanceClause, nb.cur, if_neg h',
      group_applyAll _ s.cur.gkey _ _ _ hn (fun lk h => groupOf_setLanes (hs lk h)), if_neg h', group_advanceLanes]
  · intro k h
    rw [islot_advanceClause _ _ _ _ (by rw [nb.cur]; exact h), islot_applyAll, islot_advanceLanes]

end Sys2Proof.Machine
end

