-- ==== Sys2Proof/Laws/Frame.lean ====
section
/-! SUPPORT. The frame of an instruction: what counting it leaves, and what instructions of independent lanes, instructions that
act once, and decode faults do. -/

namespace Sys2Proof.Machine

/-! ## Counting an instruction (R357) -/

@[simp] theorem counted_lane (s : State) (i : Instr) (k : Nat) : (s.counted i).lane k = s.lane k := rfl
@[simp] theorem counted_group (s : State) (i : Instr) (k : Nat) : (s.counted i).group k = s.group k := rfl
@[simp] theorem counted_team (s : State) (i : Instr) (k : Nat) : (s.counted i).team k = s.team k := rfl
@[simp] theorem counted_islot (s : State) (i : Instr) (k : Nat) : (s.counted i).islot k = s.islot k := rfl
@[simp] theorem counted_launch (s : State) (i : Instr) (k : Nat) : (s.counted i).launch k = s.launch k := rfl
@[simp] theorem counted_cur (s : State) (i : Instr) : (s.counted i).cur = s.cur := rfl
@[simp] theorem counted_now (s : State) (i : Instr) : (s.counted i).now = s.now := rfl
@[simp] theorem counted_mem (s : State) (i : Instr) : (s.counted i).mem = s.mem := rfl
@[simp] theorem counted_hostMem (s : State) (i : Instr) : (s.counted i).hostMem = s.hostMem := rfl
@[simp] theorem counted_frames (s : State) (i : Instr) : (s.counted i).frames = s.frames := rfl
@[simp] theorem counted_grants (s : State) (i : Instr) : (s.counted i).grants = s.grants := rfl
@[simp] theorem counted_setLanes (s : State) (i : Instr) : (s.counted i).setLanes = s.setLanes := rfl
@[simp] theorem counted_acting (s : State) (i j : Instr) : (s.counted i).acting j = s.acting j := rfl
@[simp] theorem counted_guardTrue (s : State) (i : Instr) (g : BitVec 4) : (s.counted i).guardTrue g = s.guardTrue g := rfl
@[simp] theorem counted_poisonOf (s : State) (i j : Instr) (lk : Nat) : (s.counted i).poisonOf j lk = s.poisonOf j lk := rfl
@[simp] theorem counted_reg (s : State) (i : Instr) (lk : Nat) (f : BitVec 9) (k : Nat) :
    (s.counted i).reg lk f k = s.reg lk f k := rfl
@[simp] theorem counted_reg1 (s : State) (i : Instr) (lk : Nat) (f : BitVec 9) : (s.counted i).reg1 lk f = s.reg1 lk f := rfl
@[simp] theorem counted_pair (s : State) (i : Instr) (lk : Nat) (f : BitVec 9) : (s.counted i).pair lk f = s.pair lk f := rfl
@[simp] theorem counted_quad (s : State) (i : Instr) (lk : Nat) (f : BitVec 9) : (s.counted i).quad lk f = s.quad lk f := rfl
@[simp] theorem counted_pred (s : State) (i : Instr) (lk k : Nat) : (s.counted i).pred lk k = s.pred lk k := rfl
@[simp] theorem counted_barrier (s : State) (i : Instr) (t k : Nat) : (s.counted i).barrier t k = s.barrier t k := rfl
@[simp] theorem counted_site (s : State) (i : Instr) (f : Byte) : (s.counted i).site f = s.site f := rfl

@[simp] theorem ctx_measure (s : State) (die src n c : Nat) : (s.measure die src n).ctx c = s.ctx c := rfl

/-- A counter of a context counts, and nothing else of the context changes. -/
theorem count_ctx (s : State) (x core sel n c : Nat) :
    (s.count x core sel n).ctx c = { s.ctx c with counters := ((s.count x core sel n).ctx c).counters } := by
  simp only [State.count, modCtx_eq, ctx_setCtx]
  split <;> rename_i h
  · subst h; rfl
  · rfl

/-- Counting an instruction changes counters of a context, and no other part of a context. -/
theorem counted_ctx (s : State) (i : Instr) (c : Nat) :
    (s.counted i).ctx c = { s.ctx c with counters := ((s.counted i).ctx c).counters } := by
  simp only [State.counted, ctx_measure]
  rw [count_ctx, count_ctx]

@[simp] theorem counted_colourOf (s : State) (i : Instr) (gk : Nat) : (s.counted i).colourOf gk = s.colourOf gk := by
  show ((s.counted i).ctx _).colour = _
  rw [counted_ctx]; rfl

@[simp] theorem counted_laneColour (s : State) (i : Instr) (lk : Nat) : (s.counted i).laneColour lk = s.laneColour lk :=
  counted_colourOf s i _

@[simp] theorem counted_laneCtx (s : State) (i : Instr) (lk : Nat) : (s.counted i).laneCtx lk = s.laneCtx lk := rfl
@[simp] theorem counted_laneTeam (s : State) (i : Instr) (lk : Nat) : (s.counted i).laneTeam lk = s.laneTeam lk := rfl
@[simp] theorem counted_teamOf (s : State) (i : Instr) (gk : Nat) : (s.counted i).teamOf gk = s.teamOf gk := rfl
@[simp] theorem counted_ctxOf (s : State) (i : Instr) (gk : Nat) : (s.counted i).ctxOf gk = s.ctxOf gk := rfl

/-! ## The frame of an instruction -/

/-- An instruction without a decode fault runs its body. -/
theorem instr_run {i : Instr} {s : State} (h : s.decodeCheck i = none) (body : State → Res) :
    instr i s body = body (s.counted i) := by simp [instr, h]

/-- An instruction with a decode fault has no other effect (R46). -/
theorem instr_decode {i : Instr} {s : State} {f : Flt} (h : s.decodeCheck i = some f) (body : State → Res) :
    instr i s body = .next (s.decodeFault f) := by simp [instr, h]

theorem map_congr_acting {s : State} {i : Instr} {f : Nat → LaneRes} {ws : Nat → List Wr}
    (hf : ∀ lk ∈ s.acting i, f lk = .ok (ws lk)) :
    ((s.acting i).map fun lk => (lk, f lk)) = (s.acting i).map fun lk => (lk, (.ok (ws lk) : LaneRes)) :=
  List.map_congr_left fun lk h => by rw [hf lk h]

/-- Independent lanes: each acting lane gets its own result. -/
theorem lanesBody_completed {i : Instr} {f : State → Nat → LaneRes} {s : State} {ws : Nat → List Wr}
    (hp : ∀ lk ∈ s.acting i, s.poisonOf i lk = none) (hf : ∀ lk ∈ s.acting i, f s lk = .ok (ws lk)) :
    Completed s (lanesBody i f s) (s.acting i) ws := by
  have h : lanesBody i f s = s.commit ((s.acting i).map fun lk => (lk, .ok (ws lk))) (s.acting i).head? false := by
    unfold lanesBody
    exact congrArg (fun r => s.commit r (s.acting i).head? false)
      (map_congr_acting fun lk h => by rw [hp lk h, hf lk h]; rfl)
  rw [h]
  exact commit_completed s _ ws false (fun _ h => acting_sub h) (nodup_acting s i)

/-- An instruction of independent lanes that nothing stops. -/
theorem laneInstr_gives {i : Instr} {f : State → Nat → LaneRes} {s : State} {ws : Nat → List Wr}
    (hx : exec i s = laneInstr i f s) (hc : s.Clear i) (hf : ∀ lk ∈ s.acting i, f (s.counted i) lk = .ok (ws lk)) :
    Gives i s ws :=
  ⟨_, by rw [hx, laneInstr, instr_run hc.1], lanesBody_completed (s := s.counted i) hc.2 hf⟩

/-- A body that acts once, through the lowest acting lane. -/
theorem onceBody_completed {i : Instr} {f : State → Nat → State × LaneRes} {s s1 : State} {ws : List Wr} {l : Nat}
    (hl : (s.acting i).head? = some l) (hp : s.poisonOf i l = none) (hf : f s l = (s1, .ok ws))
    (hs : ∀ lk ∈ s.acting i, lk ∈ s1.setLanes) :
    Completed s1 (onceBody i f s) (s.acting i) (fun _ => ws) := by
  have h : onceBody i f s = s1.commit ((s.acting i).map fun lk => (lk, .ok ws)) (s.acting i).head? false := by
    cases ha : s.acting i with
    | nil => rw [ha] at hl; simp at hl
    | cons a t =>
      rw [ha] at hl
      obtain rfl : a = l := by simpa using hl
      unfold onceBody
      rw [show s.guardTrue (form i).guard = a :: t from ha]
      simp only [hf, hp, withPoison]
      rfl
  rw [h]
  exact commit_completed s1 _ (fun _ => ws) false hs (nodup_acting s i)

/-- With no acting lane, an instruction that acts once only advances. -/
theorem onceBody_none {i : Instr} {f : State → Nat → State × LaneRes} {s : State} {ws : Nat → List Wr}
    (hl : s.acting i = []) : Completed s (onceBody i f s) (s.acting i) ws := by
  have h : onceBody i f s = s.commit (([] : List Nat).map fun lk => (lk, .ok (ws lk))) ([] : List Nat).head? false := by
    unfold onceBody
    rw [show s.guardTrue (form i).guard = [] from hl]
    rfl
  rw [h, hl]
  exact commit_completed s [] ws false (by simp) List.nodup_nil

/-- An instruction that acts once and that nothing stops. -/
theorem onceInstr_gives {i : Instr} {f : State → Nat → State × LaneRes} {s s1 : State} {ws : List Wr} {l : Nat}
    (hx : exec i s = onceInstr i f s) (hc : s.Clear i) (hl : (s.acting i).head? = some l)
    (hf : f (s.counted i) l = (s1, .ok ws)) (hs : ∀ lk ∈ s.acting i, lk ∈ s1.setLanes) :
    GivesFrom i s s1 (fun _ => ws) :=
  ⟨_, by rw [hx, onceInstr, instr_run hc.1],
    onceBody_completed (s := s.counted i) hl (hc.2 l (List.mem_of_mem_head? hl)) hf hs⟩

/-- Lanes in lane order whose outcomes are all results: the effects one after another. -/
theorem foldLanes_ok {f : State → State → Nat → State × LaneRes} {ws : Nat → List Wr} {e : Nat → State → State} (s0 : State)
    (ls : List Nat) (s : State) (h : ∀ lk ∈ ls, ∀ u, f s0 u lk = (e lk u, .ok (ws lk))) :
    foldLanes f s0 ls s = (ls.foldl (fun u lk => e lk u) s, ls.map fun lk => (lk, .ok (ws lk))) := by
  induction ls generalizing s with
  | nil => rfl
  | cons a ls ih =>
    unfold foldLanes
    rw [h a (by simp) s]
    simp only
    rw [ih _ fun lk hk u => h lk (List.mem_cons_of_mem _ hk) u]
    rfl

end Sys2Proof.Machine
end

