-- ==== Sys2Proof/Laws/PerInstr.lean ====
section
/-! SUPPORT. The family `Row`, one lemma per constructor of Instr: the word of an instruction holds its opcode and every field
of its format where R35 to R40 place them, so that no bit of the syntax is lost in the word; an event has no word. -/

namespace Sys2Proof.Laws

open Sys2Proof Sys2Proof.Machine

/-- The opcode and fields read from a word, in the format of a given form. -/
def reread (k : Form) (w : DWord) : Form :=
  match k with
  | .t _ _ => .t (opOf w) (FmtT.ofWord w)
  | .i _ _ => .i (opOf w) (FmtI.ofWord w)
  | .m _ _ => .m (opOf w) (FmtM.ofWord w)
  | .b _ _ => .b (opOf w) (FmtB.ofWord w)
  | .x _ _ => .x (opOf w) (FmtX.ofWord w)
  | .s _ _ => .s (opOf w) (FmtS.ofWord w)
  | .event => .event

/-- A field above the lower part of an appended word is a field of the upper part. -/
theorem extract_high {m n : Nat} (a : BitVec m) (b : BitVec n) (s w : Nat) (h : n ≤ s) :
    (a ++ b).extractLsb' s w = a.extractLsb' (s - n) w := by
  ext k hk
  simp only [BitVec.getElem_extractLsb', BitVec.getLsbD_append]
  rw [if_neg (by omega)]
  congr 1; omega

/-- A field that is the whole lower part of an appended word. -/
theorem extract_low {m n : Nat} (a : BitVec m) (b : BitVec n) : (a ++ b).extractLsb' 0 n = b := by
  ext k hk
  simp only [BitVec.getElem_extractLsb', BitVec.getLsbD_append]
  rw [if_pos (by omega)]
  simp [BitVec.getLsbD_eq_getElem hk]

/-- Reading the fields of a format-T word gives the fields it was made of. -/
theorem ofWord_toWord_T (op : Nat) (f : FmtT) : FmtT.ofWord (f.toWord op) = f := by
  obtain ⟨g, ty, mod, d, a, b, c⟩ := f
  simp only [FmtT.ofWord, FmtT.toWord, FmtT.mk.injEq]
  exact ⟨(extract_high _ c 52 4 (by decide)).trans <| (extract_high _ b 43 4 (by decide)).trans <| (extract_high _ a 34 4 (by decide)).trans <| (extract_high _ d 25 4 (by decide)).trans <| (extract_high _ mod 16 4 (by decide)).trans <| (extract_high _ ty 4 4 (by decide)).trans <| extract_low _ g,
    (extract_high _ c 48 4 (by decide)).trans <| (extract_high _ b 39 4 (by decide)).trans <| (extract_high _ a 30 4 (by decide)).trans <| (extract_high _ d 21 4 (by decide)).trans <| (extract_high _ mod 12 4 (by decide)).trans <| extract_low _ ty,
    (extract_high _ c 36 12 (by decide)).trans <| (extract_high _ b 27 12 (by decide)).trans <| (extract_high _ a 18 12 (by decide)).trans <| (extract_high _ d 9 12 (by decide)).trans <| extract_low _ mod,
    (extract_high _ c 27 9 (by decide)).trans <| (extract_high _ b 18 9 (by decide)).trans <| (extract_high _ a 9 9 (by decide)).trans <| extract_low _ d,
    (extract_high _ c 18 9 (by decide)).trans <| (extract_high _ b 9 9 (by decide)).trans <| extract_low _ a,
    (extract_high _ c 9 9 (by decide)).trans <| extract_low _ b,
    extract_low _ c⟩

/-- The opcode of a format-T word is the one it was made with. -/
theorem opOf_toWord_T (op : Nat) (h : op < 256) (f : FmtT) : opOf (f.toWord op) = op := by
  obtain ⟨g, ty, mod, d, a, b, c⟩ := f
  have e : (FmtT.toWord op ⟨g, ty, mod, d, a, b, c⟩).extractLsb' 56 8 = BitVec.ofNat 8 op :=
    (extract_high _ c 56 8 (by decide)).trans <| (extract_high _ b 47 8 (by decide)).trans <| (extract_high _ a 38 8 (by decide)).trans <| (extract_high _ d 29 8 (by decide)).trans <| (extract_high _ mod 20 8 (by decide)).trans <| (extract_high _ ty 8 8 (by decide)).trans <| (extract_high _ g 4 8 (by decide)).trans <| BitVec.extractLsb'_eq_self
  simp [opOf, e, Nat.mod_eq_of_lt h]

/-- Reading the fields of a format-I word gives the fields it was made of. -/
theorem ofWord_toWord_I (op : Nat) (f : FmtI) : FmtI.ofWord (f.toWord op) = f := by
  obtain ⟨g, mi, d, a, imm⟩ := f
  simp only [FmtI.ofWord, FmtI.toWord, FmtI.mk.injEq]
  exact ⟨(extract_high _ imm 52 4 (by decide)).trans <| (extract_high _ a 20 4 (by decide)).trans <| (extract_high _ d 11 4 (by decide)).trans <| (extract_high _ mi 2 4 (by decide)).trans <| extract_low _ g,
    (extract_high _ imm 50 2 (by decide)).trans <| (extract_high _ a 18 2 (by decide)).trans <| (extract_high _ d 9 2 (by decide)).trans <| extract_low _ mi,
    (extract_high _ imm 41 9 (by decide)).trans <| (extract_high _ a 9 9 (by decide)).trans <| extract_low _ d,
    (extract_high _ imm 32 9 (by decide)).trans <| extract_low _ a,
    extract_low _ imm⟩

/-- The opcode of a format-I word is the one it was made with. -/
theorem opOf_toWord_I (op : Nat) (h : op < 256) (f : FmtI) : opOf (f.toWord op) = op := by
  obtain ⟨g, mi, d, a, imm⟩ := f
  have e : (FmtI.toWord op ⟨g, mi, d, a, imm⟩).extractLsb' 56 8 = BitVec.ofNat 8 op :=
    (extract_high _ imm 56 8 (by decide)).trans <| (extract_high _ a 24 8 (by decide)).trans <| (extract_high _ d 15 8 (by decide)).trans <| (extract_high _ mi 6 8 (by decide)).trans <| (extract_high _ g 4 8 (by decide)).trans <| BitVec.extractLsb'_eq_self
  simp [opOf, e, Nat.mod_eq_of_lt h]

/-- Reading the fields of a format-M word gives the fields it was made of. -/
theorem ofWord_toWord_M (op : Nat) (f : FmtM) : FmtM.ofWord (f.toWord op) = f := by
  obtain ⟨g, ty, ord, scope, cl, rsv, ack, ofl, d, q, x, off⟩ := f
  simp only [FmtM.ofWord, FmtM.toWord, FmtM.mk.injEq]
  exact ⟨(extract_high _ off 52 4 (by decide)).trans <| (extract_high _ x 43 4 (by decide)).trans <| (extract_high _ q 34 4 (by decide)).trans <| (extract_high _ d 25 4 (by decide)).trans <| (extract_high _ ofl 16 4 (by decide)).trans <| (extract_high _ ack 15 4 (by decide)).trans <| (extract_high _ rsv 14 4 (by decide)).trans <| (extract_high _ cl 13 4 (by decide)).trans <| (extract_high _ scope 11 4 (by decide)).trans <| (extract_high _ ord 8 4 (by decide)).trans <| (extract_high _ ty 4 4 (by decide)).trans <| extract_low _ g,
    (extract_high _ off 48 4 (by decide)).trans <| (extract_high _ x 39 4 (by decide)).trans <| (extract_high _ q 30 4 (by decide)).trans <| (extract_high _ d 21 4 (by decide)).trans <| (extract_high _ ofl 12 4 (by decide)).trans <| (extract_high _ ack 11 4 (by decide)).trans <| (extract_high _ rsv 10 4 (by decide)).trans <| (extract_high _ cl 9 4 (by decide)).trans <| (extract_high _ scope 7 4 (by decide)).trans <| (extract_high _ ord 4 4 (by decide)).trans <| extract_low _ ty,
    (extract_high _ off 44 4 (by decide)).trans <| (extract_high _ x 35 4 (by decide)).trans <| (extract_high _ q 26 4 (by decide)).trans <| (extract_high _ d 17 4 (by decide)).trans <| (extract_high _ ofl 8 4 (by decide)).trans <| (extract_high _ ack 7 4 (by decide)).trans <| (extract_high _ rsv 6 4 (by decide)).trans <| (extract_high _ cl 5 4 (by decide)).trans <| (extract_high _ scope 3 4 (by decide)).trans <| extract_low _ ord,
    (extract_high _ off 41 3 (by decide)).trans <| (extract_high _ x 32 3 (by decide)).trans <| (extract_high _ q 23 3 (by decide)).trans <| (extract_high _ d 14 3 (by decide)).trans <| (extract_high _ ofl 5 3 (by decide)).trans <| (extract_high _ ack 4 3 (by decide)).trans <| (extract_high _ rsv 3 3 (by decide)).trans <| (extract_high _ cl 2 3 (by decide)).trans <| extract_low _ scope,
    (extract_high _ off 39 2 (by decide)).trans <| (extract_high _ x 30 2 (by decide)).trans <| (extract_high _ q 21 2 (by decide)).trans <| (extract_high _ d 12 2 (by decide)).trans <| (extract_high _ ofl 3 2 (by decide)).trans <| (extract_high _ ack 2 2 (by decide)).trans <| (extract_high _ rsv 1 2 (by decide)).trans <| extract_low _ cl,
    (extract_high _ off 38 1 (by decide)).trans <| (extract_high _ x 29 1 (by decide)).trans <| (extract_high _ q 20 1 (by decide)).trans <| (extract_high _ d 11 1 (by decide)).trans <| (extract_high _ ofl 2 1 (by decide)).trans <| (extract_high _ ack 1 1 (by decide)).trans <| extract_low _ rsv,
    (extract_high _ off 37 1 (by decide)).trans <| (extract_high _ x 28 1 (by decide)).trans <| (extract_high _ q 19 1 (by decide)).trans <| (extract_high _ d 10 1 (by decide)).trans <| (extract_high _ ofl 1 1 (by decide)).trans <| extract_low _ ack,
    (extract_high _ off 36 1 (by decide)).trans <| (extract_high _ x 27 1 (by decide)).trans <| (extract_high _ q 18 1 (by decide)).trans <| (extract_high _ d 9 1 (by decide)).trans <| extract_low _ ofl,
    (extract_high _ off 27 9 (by decide)).trans <| (extract_high _ x 18 9 (by decide)).trans <| (extract_high _ q 9 9 (by decide)).trans <| extract_low _ d,
    (extract_high _ off 18 9 (by decide)).trans <| (extract_high _ x 9 9 (by decide)).trans <| extract_low _ q,
    (extract_high _ off 9 9 (by decide)).trans <| extract_low _ x,
    extract_low _ off⟩

/-- The opcode of a format-M word is the one it was made with. -/
theorem opOf_toWord_M (op : Nat) (h : op < 256) (f : FmtM) : opOf (f.toWord op) = op := by
  obtain ⟨g, ty, ord, scope, cl, rsv, ack, ofl, d, q, x, off⟩ := f
  have e : (FmtM.toWord op ⟨g, ty, ord, scope, cl, rsv, ack, ofl, d, q, x, off⟩).extractLsb' 56 8 = BitVec.ofNat 8 op :=
    (extract_high _ off 56 8 (by decide)).trans <| (extract_high _ x 47 8 (by decide)).trans <| (extract_high _ q 38 8 (by decide)).trans <| (extract_high _ d 29 8 (by decide)).trans <| (extract_high _ ofl 20 8 (by decide)).trans <| (extract_high _ ack 19 8 (by decide)).trans <| (extract_high _ rsv 18 8 (by decide)).trans <| (extract_high _ cl 17 8 (by decide)).trans <| (extract_high _ scope 15 8 (by decide)).trans <| (extract_high _ ord 12 8 (by decide)).trans <| (extract_high _ ty 8 8 (by decide)).trans <| (extract_high _ g 4 8 (by decide)).trans <| BitVec.extractLsb'_eq_self
  simp [opOf, e, Nat.mod_eq_of_lt h]

/-- Reading the fields of a format-B word gives the fields it was made of. -/
theorem ofWord_toWord_B (op : Nat) (f : FmtB) : FmtB.ofWord (f.toWord op) = f := by
  obtain ⟨g, bc, rsv, a, off⟩ := f
  simp only [FmtB.ofWord, FmtB.toWord, FmtB.mk.injEq]
  exact ⟨(extract_high _ off 52 4 (by decide)).trans <| (extract_high _ a 20 4 (by decide)).trans <| (extract_high _ rsv 11 4 (by decide)).trans <| (extract_high _ bc 4 4 (by decide)).trans <| extract_low _ g,
    (extract_high _ off 48 4 (by decide)).trans <| (extract_high _ a 16 4 (by decide)).trans <| (extract_high _ rsv 7 4 (by decide)).trans <| extract_low _ bc,
    (extract_high _ off 41 7 (by decide)).trans <| (extract_high _ a 9 7 (by decide)).trans <| extract_low _ rsv,
    (extract_high _ off 32 9 (by decide)).trans <| extract_low _ a,
    extract_low _ off⟩

/-- The opcode of a format-B word is the one it was made with. -/
theorem opOf_toWord_B (op : Nat) (h : op < 256) (f : FmtB) : opOf (f.toWord op) = op := by
  obtain ⟨g, bc, rsv, a, off⟩ := f
  have e : (FmtB.toWord op ⟨g, bc, rsv, a, off⟩).extractLsb' 56 8 = BitVec.ofNat 8 op :=
    (extract_high _ off 56 8 (by decide)).trans <| (extract_high _ a 24 8 (by decide)).trans <| (extract_high _ rsv 15 8 (by decide)).trans <| (extract_high _ bc 8 8 (by decide)).trans <| (extract_high _ g 4 8 (by decide)).trans <| BitVec.extractLsb'_eq_self
  simp [opOf, e, Nat.mod_eq_of_lt h]

/-- Reading the fields of a format-X word gives the fields it was made of. -/
theorem ofWord_toWord_X (op : Nat) (f : FmtX) : FmtX.ofWord (f.toWord op) = f := by
  obtain ⟨g, xo, bar, msel, tid, d, a, b, c⟩ := f
  simp only [FmtX.ofWord, FmtX.toWord, FmtX.mk.injEq]
  exact ⟨(extract_high _ c 52 4 (by decide)).trans <| (extract_high _ b 43 4 (by decide)).trans <| (extract_high _ a 34 4 (by decide)).trans <| (extract_high _ d 25 4 (by decide)).trans <| (extract_high _ tid 16 4 (by decide)).trans <| (extract_high _ msel 10 4 (by decide)).trans <| (extract_high _ bar 8 4 (by decide)).trans <| (extract_high _ xo 4 4 (by decide)).trans <| extract_low _ g,
    (extract_high _ c 48 4 (by decide)).trans <| (extract_high _ b 39 4 (by decide)).trans <| (extract_high _ a 30 4 (by decide)).trans <| (extract_high _ d 21 4 (by decide)).trans <| (extract_high _ tid 12 4 (by decide)).trans <| (extract_high _ msel 6 4 (by decide)).trans <| (extract_high _ bar 4 4 (by decide)).trans <| extract_low _ xo,
    (extract_high _ c 44 4 (by decide)).trans <| (extract_high _ b 35 4 (by decide)).trans <| (extract_high _ a 26 4 (by decide)).trans <| (extract_high _ d 17 4 (by decide)).trans <| (extract_high _ tid 8 4 (by decide)).trans <| (extract_high _ msel 2 4 (by decide)).trans <| extract_low _ bar,
    (extract_high _ c 42 2 (by decide)).trans <| (extract_high _ b 33 2 (by decide)).trans <| (extract_high _ a 24 2 (by decide)).trans <| (extract_high _ d 15 2 (by decide)).trans <| (extract_high _ tid 6 2 (by decide)).trans <| extract_low _ msel,
    (extract_high _ c 36 6 (by decide)).trans <| (extract_high _ b 27 6 (by decide)).trans <| (extract_high _ a 18 6 (by decide)).trans <| (extract_high _ d 9 6 (by decide)).trans <| extract_low _ tid,
    (extract_high _ c 27 9 (by decide)).trans <| (extract_high _ b 18 9 (by decide)).trans <| (extract_high _ a 9 9 (by decide)).trans <| extract_low _ d,
    (extract_high _ c 18 9 (by decide)).trans <| (extract_high _ b 9 9 (by decide)).trans <| extract_low _ a,
    (extract_high _ c 9 9 (by decide)).trans <| extract_low _ b,
    extract_low _ c⟩

/-- The opcode of a format-X word is the one it was made with. -/
theorem opOf_toWord_X (op : Nat) (h : op < 256) (f : FmtX) : opOf (f.toWord op) = op := by
  obtain ⟨g, xo, bar, msel, tid, d, a, b, c⟩ := f
  have e : (FmtX.toWord op ⟨g, xo, bar, msel, tid, d, a, b, c⟩).extractLsb' 56 8 = BitVec.ofNat 8 op :=
    (extract_high _ c 56 8 (by decide)).trans <| (extract_high _ b 47 8 (by decide)).trans <| (extract_high _ a 38 8 (by decide)).trans <| (extract_high _ d 29 8 (by decide)).trans <| (extract_high _ tid 20 8 (by decide)).trans <| (extract_high _ msel 14 8 (by decide)).trans <| (extract_high _ bar 12 8 (by decide)).trans <| (extract_high _ xo 8 8 (by decide)).trans <| (extract_high _ g 4 8 (by decide)).trans <| BitVec.extractLsb'_eq_self
  simp [opOf, e, Nat.mod_eq_of_lt h]

/-- Reading the fields of a format-S word gives the fields it was made of. -/
theorem ofWord_toWord_S (op : Nat) (f : FmtS) : FmtS.ofWord (f.toWord op) = f := by
  obtain ⟨g, fn, d, a, imm⟩ := f
  simp only [FmtS.ofWord, FmtS.toWord, FmtS.mk.injEq]
  exact ⟨(extract_high _ imm 52 4 (by decide)).trans <| (extract_high _ a 34 4 (by decide)).trans <| (extract_high _ d 25 4 (by decide)).trans <| (extract_high _ fn 16 4 (by decide)).trans <| extract_low _ g,
    (extract_high _ imm 36 16 (by decide)).trans <| (extract_high _ a 18 16 (by decide)).trans <| (extract_high _ d 9 16 (by decide)).trans <| extract_low _ fn,
    (extract_high _ imm 27 9 (by decide)).trans <| (extract_high _ a 9 9 (by decide)).trans <| extract_low _ d,
    (extract_high _ imm 18 9 (by decide)).trans <| extract_low _ a,
    extract_low _ imm⟩

/-- The opcode of a format-S word is the one it was made with. -/
theorem opOf_toWord_S (op : Nat) (h : op < 256) (f : FmtS) : opOf (f.toWord op) = op := by
  obtain ⟨g, fn, d, a, imm⟩ := f
  have e : (FmtS.toWord op ⟨g, fn, d, a, imm⟩).extractLsb' 56 8 = BitVec.ofNat 8 op :=
    (extract_high _ imm 56 8 (by decide)).trans <| (extract_high _ a 38 8 (by decide)).trans <| (extract_high _ d 29 8 (by decide)).trans <| (extract_high _ fn 20 8 (by decide)).trans <| (extract_high _ g 4 8 (by decide)).trans <| BitVec.extractLsb'_eq_self
  simp [opOf, e, Nat.mod_eq_of_lt h]

/-- What each row's word keeps: its opcode and all its fields. -/
def Row.Statement (i : Instr) : Prop := reread (form i) (encode i) = form i

theorem reread_T (op : Nat) (h : op < 256) (f : FmtT) : reread (.t op f) (f.toWord op) = .t op f := by
  simp [reread, ofWord_toWord_T, opOf_toWord_T op h]

theorem reread_I (op : Nat) (h : op < 256) (f : FmtI) : reread (.i op f) (f.toWord op) = .i op f := by
  simp [reread, ofWord_toWord_I, opOf_toWord_I op h]

theorem reread_M (op : Nat) (h : op < 256) (f : FmtM) : reread (.m op f) (f.toWord op) = .m op f := by
  simp [reread, ofWord_toWord_M, opOf_toWord_M op h]

theorem reread_B (op : Nat) (h : op < 256) (f : FmtB) : reread (.b op f) (f.toWord op) = .b op f := by
  simp [reread, ofWord_toWord_B, opOf_toWord_B op h]

theorem reread_X (op : Nat) (h : op < 256) (f : FmtX) : reread (.x op f) (f.toWord op) = .x op f := by
  simp [reread, ofWord_toWord_X, opOf_toWord_X op h]

theorem reread_S (op : Nat) (h : op < 256) (f : FmtS) : reread (.s op f) (f.toWord op) = .s op f := by
  simp [reread, ofWord_toWord_S, opOf_toWord_S op h]

theorem Row.bra (f : FmtB) : Row.Statement (.bra f) := reread_B 0x01 (by decide) f
theorem Row.brx (f : FmtT) : Row.Statement (.brx f) := reread_T 0x02 (by decide) f
theorem Row.call (f : FmtB) : Row.Statement (.call f) := reread_B 0x03 (by decide) f
theorem Row.callx (f : FmtT) : Row.Statement (.callx f) := reread_T 0x04 (by decide) f
theorem Row.ret (f : FmtT) : Row.Statement (.ret f) := reread_T 0x05 (by decide) f
theorem Row.exit (f : FmtT) : Row.Statement (.exit f) := reread_T 0x06 (by decide) f
theorem Row.nop (f : FmtT) : Row.Statement (.nop f) := reread_T 0x07 (by decide) f
theorem Row.yield (f : FmtT) : Row.Statement (.yield f) := reread_T 0x08 (by decide) f
theorem Row.brk (f : FmtS) : Row.Statement (.brk f) := reread_S 0x09 (by decide) f
theorem Row.trap (f : FmtS) : Row.Statement (.trap f) := reread_S 0x0A (by decide) f
theorem Row.iadd (f : FmtT) : Row.Statement (.iadd f) := reread_T 0x10 (by decide) f
theorem Row.isub (f : FmtT) : Row.Statement (.isub f) := reread_T 0x11 (by decide) f
theorem Row.imul (f : FmtT) : Row.Statement (.imul f) := reread_T 0x12 (by decide) f
theorem Row.imulh (f : FmtT) : Row.Statement (.imulh f) := reread_T 0x13 (by decide) f
theorem Row.imad (f : FmtT) : Row.Statement (.imad f) := reread_T 0x14 (by decide) f
theorem Row.idiv (f : FmtT) : Row.Statement (.idiv f) := reread_T 0x15 (by decide) f
theorem Row.irem (f : FmtT) : Row.Statement (.irem f) := reread_T 0x16 (by decide) f
theorem Row.imin (f : FmtT) : Row.Statement (.imin f) := reread_T 0x17 (by decide) f
theorem Row.imax (f : FmtT) : Row.Statement (.imax f) := reread_T 0x18 (by decide) f
theorem Row.iabs (f : FmtT) : Row.Statement (.iabs f) := reread_T 0x19 (by decide) f
theorem Row.ineg (f : FmtT) : Row.Statement (.ineg f) := reread_T 0x1A (by decide) f
theorem Row.iadds (f : FmtT) : Row.Statement (.iadds f) := reread_T 0x1B (by decide) f
theorem Row.isubs (f : FmtT) : Row.Statement (.isubs f) := reread_T 0x1C (by decide) f
theorem Row.icmp (f : FmtT) : Row.Statement (.icmp f) := reread_T 0x1D (by decide) f
theorem Row.sel (f : FmtT) : Row.Statement (.sel f) := reread_T 0x1E (by decide) f
theorem Row.mov (f : FmtT) : Row.Statement (.mov f) := reread_T 0x1F (by decide) f
theorem Row.andOp (f : FmtT) : Row.Statement (.andOp f) := reread_T 0x20 (by decide) f
theorem Row.orOp (f : FmtT) : Row.Statement (.orOp f) := reread_T 0x21 (by decide) f
theorem Row.xorOp (f : FmtT) : Row.Statement (.xorOp f) := reread_T 0x22 (by decide) f
theorem Row.andn (f : FmtT) : Row.Statement (.andn f) := reread_T 0x23 (by decide) f
theorem Row.lop3 (f : FmtT) : Row.Statement (.lop3 f) := reread_T 0x24 (by decide) f
theorem Row.shl (f : FmtT) : Row.Statement (.shl f) := reread_T 0x25 (by decide) f
theorem Row.shr (f : FmtT) : Row.Statement (.shr f) := reread_T 0x26 (by decide) f
theorem Row.shra (f : FmtT) : Row.Statement (.shra f) := reread_T 0x27 (by decide) f
theorem Row.rotl (f : FmtT) : Row.Statement (.rotl f) := reread_T 0x28 (by decide) f
theorem Row.funnel (f : FmtT) : Row.Statement (.funnel f) := reread_T 0x29 (by decide) f
theorem Row.clz (f : FmtT) : Row.Statement (.clz f) := reread_T 0x2A (by decide) f
theorem Row.popc (f : FmtT) : Row.Statement (.popc f) := reread_T 0x2B (by decide) f
theorem Row.brev (f : FmtT) : Row.Statement (.brev f) := reread_T 0x2C (by decide) f
theorem Row.bfx (f : FmtT) : Row.Statement (.bfx f) := reread_T 0x2D (by decide) f
theorem Row.bfi (f : FmtT) : Row.Statement (.bfi f) := reread_T 0x2E (by decide) f
theorem Row.bperm (f : FmtT) : Row.Statement (.bperm f) := reread_T 0x2F (by decide) f
theorem Row.movi (f : FmtI) : Row.Statement (.movi f) := reread_I 0x30 (by decide) f
theorem Row.iaddi (f : FmtI) : Row.Statement (.iaddi f) := reread_I 0x31 (by decide) f
theorem Row.andi (f : FmtI) : Row.Statement (.andi f) := reread_I 0x32 (by decide) f
theorem Row.ori (f : FmtI) : Row.Statement (.ori f) := reread_I 0x33 (by decide) f
theorem Row.xori (f : FmtI) : Row.Statement (.xori f) := reread_I 0x34 (by decide) f
theorem Row.icmpi (f : FmtI) : Row.Statement (.icmpi f) := reread_I 0x35 (by decide) f
theorem Row.imuli (f : FmtI) : Row.Statement (.imuli f) := reread_I 0x36 (by decide) f
theorem Row.plop (f : FmtT) : Row.Statement (.plop f) := reread_T 0x37 (by decide) f
theorem Row.packp (f : FmtT) : Row.Statement (.packp f) := reread_T 0x38 (by decide) f
theorem Row.unpackp (f : FmtT) : Row.Statement (.unpackp f) := reread_T 0x39 (by decide) f
theorem Row.idot4 (f : FmtT) : Row.Statement (.idot4 f) := reread_T 0x3A (by decide) f
theorem Row.iaddc (f : FmtT) : Row.Statement (.iaddc f) := reread_T 0x3B (by decide) f
theorem Row.isubb (f : FmtT) : Row.Statement (.isubb f) := reread_T 0x3C (by decide) f
theorem Row.cvti (f : FmtT) : Row.Statement (.cvti f) := reread_T 0x3D (by decide) f
theorem Row.fadd (f : FmtT) : Row.Statement (.fadd f) := reread_T 0x40 (by decide) f
theorem Row.fsub (f : FmtT) : Row.Statement (.fsub f) := reread_T 0x41 (by decide) f
theorem Row.fmul (f : FmtT) : Row.Statement (.fmul f) := reread_T 0x42 (by decide) f
theorem Row.ffma (f : FmtT) : Row.Statement (.ffma f) := reread_T 0x43 (by decide) f
theorem Row.fmin (f : FmtT) : Row.Statement (.fmin f) := reread_T 0x44 (by decide) f
theorem Row.fmax (f : FmtT) : Row.Statement (.fmax f) := reread_T 0x45 (by decide) f
theorem Row.fcmp (f : FmtT) : Row.Statement (.fcmp f) := reread_T 0x46 (by decide) f
theorem Row.fclass (f : FmtT) : Row.Statement (.fclass f) := reread_T 0x47 (by decide) f
theorem Row.frnd (f : FmtT) : Row.Statement (.frnd f) := reread_T 0x48 (by decide) f
theorem Row.frcp (f : FmtT) : Row.Statement (.frcp f) := reread_T 0x49 (by decide) f
theorem Row.frsq (f : FmtT) : Row.Statement (.frsq f) := reread_T 0x4A (by decide) f
theorem Row.fsqrt (f : FmtT) : Row.Statement (.fsqrt f) := reread_T 0x4B (by decide) f
theorem Row.fdiv (f : FmtT) : Row.Statement (.fdiv f) := reread_T 0x4C (by decide) f
theorem Row.fex2 (f : FmtT) : Row.Statement (.fex2 f) := reread_T 0x4D (by decide) f
theorem Row.flg2 (f : FmtT) : Row.Statement (.flg2 f) := reread_T 0x4E (by decide) f
theorem Row.fred (f : FmtT) : Row.Statement (.fred f) := reread_T 0x4F (by decide) f
theorem Row.fsin (f : FmtT) : Row.Statement (.fsin f) := reread_T 0x50 (by decide) f
theorem Row.fcos (f : FmtT) : Row.Statement (.fcos f) := reread_T 0x51 (by decide) f
theorem Row.fsincos (f : FmtT) : Row.Statement (.fsincos f) := reread_T 0x52 (by decide) f
theorem Row.ftanh (f : FmtT) : Row.Statement (.ftanh f) := reread_T 0x53 (by decide) f
theorem Row.hadd2 (f : FmtT) : Row.Statement (.hadd2 f) := reread_T 0x54 (by decide) f
theorem Row.hmul2 (f : FmtT) : Row.Statement (.hmul2 f) := reread_T 0x55 (by decide) f
theorem Row.hfma2 (f : FmtT) : Row.Statement (.hfma2 f) := reread_T 0x56 (by decide) f
theorem Row.hmnx2 (f : FmtT) : Row.Statement (.hmnx2 f) := reread_T 0x57 (by decide) f
theorem Row.cvt (f : FmtT) : Row.Statement (.cvt f) := reread_T 0x58 (by decide) f
theorem Row.pack2 (f : FmtT) : Row.Statement (.pack2 f) := reread_T 0x59 (by decide) f
theorem Row.unpack2 (f : FmtT) : Row.Statement (.unpack2 f) := reread_T 0x5A (by decide) f
theorem Row.faddi (f : FmtI) : Row.Statement (.faddi f) := reread_I 0x5B (by decide) f
theorem Row.fmuli (f : FmtI) : Row.Statement (.fmuli f) := reread_I 0x5C (by decide) f
theorem Row.tricv (f : FmtT) : Row.Statement (.tricv f) := reread_T 0x5D (by decide) f
theorem Row.fdot2 (f : FmtT) : Row.Statement (.fdot2 f) := reread_T 0x5E (by decide) f
theorem Row.ballot (f : FmtT) : Row.Statement (.ballot f) := reread_T 0x60 (by decide) f
theorem Row.vote (f : FmtT) : Row.Statement (.vote f) := reread_T 0x61 (by decide) f
theorem Row.shfl (f : FmtT) : Row.Statement (.shfl f) := reread_T 0x62 (by decide) f
theorem Row.shflx (f : FmtT) : Row.Statement (.shflx f) := reread_T 0x63 (by decide) f
theorem Row.shflup (f : FmtT) : Row.Statement (.shflup f) := reread_T 0x64 (by decide) f
theorem Row.shfldn (f : FmtT) : Row.Statement (.shfldn f) := reread_T 0x65 (by decide) f
theorem Row.pswap (f : FmtT) : Row.Statement (.pswap f) := reread_T 0x66 (by decide) f
theorem Row.matchOp (f : FmtT) : Row.Statement (.matchOp f) := reread_T 0x67 (by decide) f
theorem Row.gredux (f : FmtT) : Row.Statement (.gredux f) := reread_T 0x68 (by decide) f
theorem Row.gscan (f : FmtT) : Row.Statement (.gscan f) := reread_T 0x69 (by decide) f
theorem Row.actmask (f : FmtT) : Row.Statement (.actmask f) := reread_T 0x6A (by decide) f
theorem Row.regroup (f : FmtT) : Row.Statement (.regroup f) := reread_T 0x6B (by decide) f
theorem Row.rgquery (f : FmtT) : Row.Statement (.rgquery f) := reread_T 0x6C (by decide) f
theorem Row.binit (f : FmtX) : Row.Statement (.binit f) := reread_X 0x70 (by decide) f
theorem Row.barv (f : FmtX) : Row.Statement (.barv f) := reread_X 0x71 (by decide) f
theorem Row.bwait (f : FmtX) : Row.Statement (.bwait f) := reread_X 0x72 (by decide) f
theorem Row.bexpb (f : FmtX) : Row.Statement (.bexpb f) := reread_X 0x73 (by decide) f
theorem Row.btest (f : FmtX) : Row.Statement (.btest f) := reread_X 0x74 (by decide) f
theorem Row.bread (f : FmtX) : Row.Statement (.bread f) := reread_X 0x75 (by decide) f
theorem Row.bclustInit (f : FmtX) : Row.Statement (.bclustInit f) := reread_X 0x76 (by decide) f
theorem Row.bclustArv (f : FmtX) : Row.Statement (.bclustArv f) := reread_X 0x76 (by decide) f
theorem Row.bclustWait (f : FmtX) : Row.Statement (.bclustWait f) := reread_X 0x76 (by decide) f
theorem Row.bclustTest (f : FmtX) : Row.Statement (.bclustTest f) := reread_X 0x76 (by decide) f
theorem Row.bclustRead (f : FmtX) : Row.Statement (.bclustRead f) := reread_X 0x76 (by decide) f
theorem Row.bclustExp (f : FmtX) : Row.Statement (.bclustExp f) := reread_X 0x76 (by decide) f
theorem Row.cvinit (f : FmtX) : Row.Statement (.cvinit f) := reread_X 0x77 (by decide) f
theorem Row.cvsign (f : FmtX) : Row.Statement (.cvsign f) := reread_X 0x78 (by decide) f
theorem Row.cvdropLane (f : FmtX) : Row.Statement (.cvdropLane f) := reread_X 0x79 (by decide) f
theorem Row.cvdropFree (f : FmtX) : Row.Statement (.cvdropFree f) := reread_X 0x79 (by decide) f
theorem Row.waita (f : FmtX) : Row.Statement (.waita f) := reread_X 0x7A (by decide) f
theorem Row.waitaTimeout (lane : Nat) : Row.Statement (.waitaTimeout lane) := rfl
theorem Row.waitaHostPoll (lane : Nat) : Row.Statement (.waitaHostPoll lane) := rfl
theorem Row.laneWake (lane : Nat) : Row.Statement (.laneWake lane) := rfl
theorem Row.ld (f : FmtM) : Row.Statement (.ld f) := reread_M 0x80 (by decide) f
theorem Row.st (f : FmtM) : Row.Statement (.st f) := reread_M 0x81 (by decide) f
theorem Row.ldc (f : FmtM) : Row.Statement (.ldc f) := reread_M 0x82 (by decide) f
theorem Row.stc (f : FmtM) : Row.Statement (.stc f) := reread_M 0x83 (by decide) f
theorem Row.ldm (f : FmtM) : Row.Statement (.ldm f) := reread_M 0x84 (by decide) f
theorem Row.stm (f : FmtM) : Row.Statement (.stm f) := reread_M 0x85 (by decide) f
theorem Row.loadReturn (acc : Nat) : Row.Statement (.loadReturn acc) := rfl
theorem Row.atom (f : FmtM) : Row.Statement (.atom f) := reread_M 0x86 (by decide) f
theorem Row.acas (f : FmtM) : Row.Statement (.acas f) := reread_M 0x87 (by decide) f
theorem Row.fence (f : FmtM) : Row.Statement (.fence f) := reread_M 0x88 (by decide) f
theorem Row.fenceComplete (fence : Nat) : Row.Statement (.fenceComplete fence) := rfl
theorem Row.pref (f : FmtM) : Row.Statement (.pref f) := reread_M 0x89 (by decide) f
theorem Row.cctlWb (f : FmtM) : Row.Statement (.cctlWb f) := reread_M 0x8A (by decide) f
theorem Row.cctlInv (f : FmtM) : Row.Statement (.cctlInv f) := reread_M 0x8A (by decide) f
theorem Row.cctlWbinv (f : FmtM) : Row.Statement (.cctlWbinv f) := reread_M 0x8A (by decide) f
theorem Row.cctlWball (f : FmtM) : Row.Statement (.cctlWball f) := reread_M 0x8A (by decide) f
theorem Row.iline (f : FmtM) : Row.Statement (.iline f) := reread_M 0x8B (by decide) f
theorem Row.retainSet (f : FmtM) : Row.Statement (.retainSet f) := reread_M 0x8C (by decide) f
theorem Row.retainClr (f : FmtM) : Row.Statement (.retainClr f) := reread_M 0x8C (by decide) f
theorem Row.cget (f : FmtT) : Row.Statement (.cget f) := reread_T 0x90 (by decide) f
theorem Row.csetb (f : FmtT) : Row.Statement (.csetb f) := reread_T 0x91 (by decide) f
theorem Row.cadd (f : FmtT) : Row.Statement (.cadd f) := reread_T 0x92 (by decide) f
theorem Row.cseta (f : FmtT) : Row.Statement (.cseta f) := reread_T 0x93 (by decide) f
theorem Row.candp (f : FmtT) : Row.Statement (.candp f) := reread_T 0x94 (by decide) f
theorem Row.ctest (f : FmtT) : Row.Statement (.ctest f) := reread_T 0x95 (by decide) f
theorem Row.cmovq (f : FmtT) : Row.Statement (.cmovq f) := reread_T 0x96 (by decide) f
theorem Row.cclr (f : FmtT) : Row.Statement (.cclr f) := reread_T 0x97 (by decide) f
theorem Row.ceq (f : FmtT) : Row.Statement (.ceq f) := reread_T 0x98 (by decide) f
theorem Row.csub (f : FmtT) : Row.Statement (.csub f) := reread_T 0x99 (by decide) f
theorem Row.calign (f : FmtT) : Row.Statement (.calign f) := reread_T 0x9A (by decide) f
theorem Row.cpseal (f : FmtT) : Row.Statement (.cpseal f) := reread_T 0x9B (by decide) f
theorem Row.cpopen (f : FmtT) : Row.Statement (.cpopen f) := reread_T 0x9C (by decide) f
theorem Row.cdlg (f : FmtM) : Row.Statement (.cdlg f) := reread_M 0x9D (by decide) f
theorem Row.mma (f : FmtX) : Row.Statement (.mma f) := reread_X 0xA0 (by decide) f
theorem Row.mmat (f : FmtX) : Row.Statement (.mmat f) := reread_X 0xA1 (by decide) f
theorem Row.mmaRoundComplete (team cv : Nat) : Row.Statement (.mmaRoundComplete team cv) := rfl
theorem Row.mmaComplete (core : Nat) : Row.Statement (.mmaComplete core) := rfl
theorem Row.wload (f : FmtX) : Row.Statement (.wload f) := reread_X 0xA2 (by decide) f
theorem Row.wloadComplete (load : Nat) : Row.Statement (.wloadComplete load) := rfl
theorem Row.wloadRefused (load : Nat) (code : Byte) (addr : DWord) (bytes : Nat) : Row.Statement (.wloadRefused load code addr bytes) := rfl
theorem Row.winv (f : FmtT) : Row.Statement (.winv f) := reread_T 0xA3 (by decide) f
theorem Row.mpredSet (f : FmtT) : Row.Statement (.mpredSet f) := reread_T 0xA4 (by decide) f
theorem Row.mpredGet (f : FmtT) : Row.Statement (.mpredGet f) := reread_T 0xA4 (by decide) f
theorem Row.mquant (f : FmtT) : Row.Statement (.mquant f) := reread_T 0xA5 (by decide) f
theorem Row.tidset (f : FmtT) : Row.Statement (.tidset f) := reread_T 0xA6 (by decide) f
theorem Row.tidget (f : FmtT) : Row.Statement (.tidget f) := reread_T 0xA7 (by decide) f
theorem Row.treeld (f : FmtX) : Row.Statement (.treeld f) := reread_X 0xA8 (by decide) f
theorem Row.treeldComplete (team : Nat) : Row.Statement (.treeldComplete team) := rfl
theorem Row.xcopy (f : FmtX) : Row.Statement (.xcopy f) := reread_X 0xB0 (by decide) f
theorem Row.xcopyp (f : FmtX) : Row.Statement (.xcopyp f) := reread_X 0xB1 (by decide) f
theorem Row.xstore (f : FmtX) : Row.Statement (.xstore f) := reread_X 0xB2 (by decide) f
theorem Row.xbulk (f : FmtX) : Row.Statement (.xbulk f) := reread_X 0xB3 (by decide) f
theorem Row.xpub (f : FmtX) : Row.Statement (.xpub f) := reread_X 0xB4 (by decide) f
theorem Row.xpull (f : FmtX) : Row.Statement (.xpull f) := reread_X 0xB5 (by decide) f
theorem Row.xrun (f : FmtX) : Row.Statement (.xrun f) := reread_X 0xB6 (by decide) f
theorem Row.xfill (f : FmtX) : Row.Statement (.xfill f) := reread_X 0xB7 (by decide) f
theorem Row.xsig (f : FmtX) : Row.Statement (.xsig f) := reread_X 0xB8 (by decide) f
theorem Row.xcancel (f : FmtX) : Row.Statement (.xcancel f) := reread_X 0xB9 (by decide) f
theorem Row.xstat (f : FmtX) : Row.Statement (.xstat f) := reread_X 0xBA (by decide) f
theorem Row.engineCommandStart (core : Nat) : Row.Statement (.engineCommandStart core) := rfl
theorem Row.cmdCopy (cmd : Nat) : Row.Statement (.cmdCopy cmd) := rfl
theorem Row.cmdTcopy (cmd : Nat) : Row.Statement (.cmdTcopy cmd) := rfl
theorem Row.cmdTcopyp (cmd : Nat) : Row.Statement (.cmdTcopyp cmd) := rfl
theorem Row.cmdFill (cmd : Nat) : Row.Statement (.cmdFill cmd) := rfl
theorem Row.cmdAllreduce (cmd : Nat) : Row.Statement (.cmdAllreduce cmd) := rfl
theorem Row.cmdReducescatter (cmd : Nat) : Row.Statement (.cmdReducescatter cmd) := rfl
theorem Row.cmdAllgather (cmd : Nat) : Row.Statement (.cmdAllgather cmd) := rfl
theorem Row.cmdBroadcast (cmd : Nat) : Row.Statement (.cmdBroadcast cmd) := rfl
theorem Row.collectiveRun (cmd : Nat) (parts : List CollPart) : Row.Statement (.collectiveRun cmd parts) := rfl
theorem Row.xpullRecordRead (cmd : Nat) : Row.Statement (.xpullRecordRead cmd) := rfl
theorem Row.engineCommandEnd (cmd : Nat) : Row.Statement (.engineCommandEnd cmd) := rfl
theorem Row.xbulkPacket (m : FabMsg) : Row.Statement (.xbulkPacket m) := rfl
theorem Row.qput (f : FmtT) : Row.Statement (.qput f) := reread_T 0xC0 (by decide) f
theorem Row.qget (f : FmtT) : Row.Statement (.qget f) := reread_T 0xC1 (by decide) f
theorem Row.qstat (f : FmtT) : Row.Statement (.qstat f) := reread_T 0xC2 (by decide) f
theorem Row.evget (f : FmtT) : Row.Statement (.evget f) := reread_T 0xC3 (by decide) f
theorem Row.launch (f : FmtT) : Row.Statement (.launch f) := reread_T 0xC4 (by decide) f
theorem Row.regacqWait (f : FmtS) : Row.Statement (.regacqWait f) := reread_S 0xC8 (by decide) f
theorem Row.regacqTry (f : FmtS) : Row.Statement (.regacqTry f) := reread_S 0xC8 (by decide) f
theorem Row.regacqGrant (ctx core : Nat) : Row.Statement (.regacqGrant ctx core) := rfl
theorem Row.regrel (f : FmtS) : Row.Statement (.regrel f) := reread_S 0xC9 (by decide) f
theorem Row.regrelLease (f : FmtS) : Row.Statement (.regrelLease f) := reread_S 0xC9 (by decide) f
theorem Row.spillMemory (f : FmtM) : Row.Statement (.spillMemory f) := reread_M 0xCA (by decide) f
theorem Row.spillLease (f : FmtM) : Row.Statement (.spillLease f) := reread_M 0xCA (by decide) f
theorem Row.fillMemory (f : FmtM) : Row.Statement (.fillMemory f) := reread_M 0xCB (by decide) f
theorem Row.fillLease (f : FmtM) : Row.Statement (.fillLease f) := reread_M 0xCB (by decide) f
theorem Row.handoff (f : FmtS) : Row.Statement (.handoff f) := reread_S 0xCC (by decide) f
theorem Row.sread (f : FmtS) : Row.Statement (.sread f) := reread_S 0xD0 (by decide) f
theorem Row.swrite (f : FmtS) : Row.Statement (.swrite f) := reread_S 0xD1 (by decide) f
theorem Row.perfrd (f : FmtS) : Row.Statement (.perfrd f) := reread_S 0xD2 (by decide) f
theorem Row.svcWalltime (f : FmtS) : Row.Statement (.svcWalltime f) := reread_S 0xD3 (by decide) f
theorem Row.svcQcreate (f : FmtS) : Row.Statement (.svcQcreate f) := reread_S 0xD3 (by decide) f
theorem Row.svcQclose (f : FmtS) : Row.Statement (.svcQclose f) := reread_S 0xD3 (by decide) f
theorem Row.svcCommcreate (f : FmtS) : Row.Statement (.svcCommcreate f) := reread_S 0xD3 (by decide) f
theorem Row.svcCommend (f : FmtS) : Row.Statement (.svcCommend f) := reread_S 0xD3 (by decide) f
theorem Row.svcBarrmint (f : FmtS) : Row.Statement (.svcBarrmint f) := reread_S 0xD3 (by decide) f
theorem Row.svcGrantreq (f : FmtS) : Row.Statement (.svcGrantreq f) := reread_S 0xD3 (by decide) f
theorem Row.eretRetry (f : FmtS) : Row.Statement (.eretRetry f) := reread_S 0xD4 (by decide) f
theorem Row.eretSkip (f : FmtS) : Row.Statement (.eretSkip f) := reread_S 0xD4 (by decide) f
theorem Row.faultrd (f : FmtS) : Row.Statement (.faultrd f) := reread_S 0xD5 (by decide) f
theorem Row.trapsetSet (f : FmtT) : Row.Statement (.trapsetSet f) := reread_T 0xD6 (by decide) f
theorem Row.trapsetClr (f : FmtT) : Row.Statement (.trapsetClr f) := reread_T 0xD6 (by decide) f
theorem Row.trapsetGet (f : FmtT) : Row.Statement (.trapsetGet f) := reread_T 0xD6 (by decide) f
theorem Row.sweep (f : FmtS) : Row.Statement (.sweep f) := reread_S 0xE0 (by decide) f
theorem Row.grantset (f : FmtT) : Row.Statement (.grantset f) := reread_T 0xE1 (by decide) f
theorem Row.fstset (f : FmtT) : Row.Statement (.fstset f) := reread_T 0xE2 (by decide) f
theorem Row.fstget (f : FmtT) : Row.Statement (.fstget f) := reread_T 0xE3 (by decide) f
theorem Row.cmint (f : FmtT) : Row.Statement (.cmint f) := reread_T 0xE4 (by decide) f
theorem Row.ctxgateGate (f : FmtS) : Row.Statement (.ctxgateGate f) := reread_S 0xE5 (by decide) f
theorem Row.ctxgateUngate (f : FmtS) : Row.Statement (.ctxgateUngate f) := reread_S 0xE5 (by decide) f
theorem Row.ctxgateState (f : FmtS) : Row.Statement (.ctxgateState f) := reread_S 0xE5 (by decide) f
theorem Row.shareset (f : FmtT) : Row.Statement (.shareset f) := reread_T 0xE6 (by decide) f
theorem Row.leaseopOffer (f : FmtT) : Row.Statement (.leaseopOffer f) := reread_T 0xE7 (by decide) f
theorem Row.leaseopAccept (f : FmtT) : Row.Statement (.leaseopAccept f) := reread_T 0xE7 (by decide) f
theorem Row.leaseopReclaim (f : FmtT) : Row.Statement (.leaseopReclaim f) := reread_T 0xE7 (by decide) f
theorem Row.leaseopRelease (f : FmtT) : Row.Statement (.leaseopRelease f) := reread_T 0xE7 (by decide) f
theorem Row.leaseopForce (f : FmtT) : Row.Statement (.leaseopForce f) := reread_T 0xE7 (by decide) f
theorem Row.leaseopQuery (f : FmtT) : Row.Statement (.leaseopQuery f) := reread_T 0xE7 (by decide) f
theorem Row.mrtload (f : FmtT) : Row.Statement (.mrtload f) := reread_T 0xE8 (by decide) f
theorem Row.cvernew (f : FmtT) : Row.Statement (.cvernew f) := reread_T 0xE9 (by decide) f
theorem Row.clauseVote (core islot : Nat) : Row.Statement (.clauseVote core islot) := rfl
theorem Row.groupPromotion (core gslot : Nat) : Row.Statement (.groupPromotion core gslot) := rfl
theorem Row.deferredFault (lane : Nat) : Row.Statement (.deferredFault lane) := rfl
theorem Row.resumeRetry (lane : Nat) : Row.Statement (.resumeRetry lane) := rfl
theorem Row.resumeSkip (lane : Nat) : Row.Statement (.resumeSkip lane) := rfl
theorem Row.resumeEnd (lane : Nat) : Row.Statement (.resumeEnd lane) := rfl
theorem Row.regroupShuffleStart (team : Nat) : Row.Statement (.regroupShuffleStart team) := rfl
theorem Row.regroupPass (team : Nat) : Row.Statement (.regroupPass team) := rfl
theorem Row.teamPlacement (ctx : Nat) : Row.Statement (.teamPlacement ctx) := rfl
theorem Row.launchLevelAge (launch : Nat) : Row.Statement (.launchLevelAge launch) := rfl
theorem Row.teamRetire (team : Nat) : Row.Statement (.teamRetire team) := rfl
theorem Row.hostLaunchMessage (msg : List Byte) : Row.Statement (.hostLaunchMessage msg) := rfl
theorem Row.multiLaunchEntry (e : MultiEntry) : Row.Statement (.multiLaunchEntry e) := rfl
theorem Row.multiArmed (src : RankRef) (e : EntryRef) : Row.Statement (.multiArmed src e) := rfl
theorem Row.multiGo (src : RankRef) (e : EntryRef) : Row.Statement (.multiGo src e) := rfl
theorem Row.multiAbort (src : RankRef) (e : EntryRef) : Row.Statement (.multiAbort src e) := rfl
theorem Row.multiArmedTimeout (launch : Nat) : Row.Statement (.multiArmedTimeout launch) := rfl
theorem Row.loadCodeObject (ctx : Nat) (obj : List Byte) : Row.Statement (.loadCodeObject ctx obj) := rfl
theorem Row.kernelRecordRelease (record : Nat) : Row.Statement (.kernelRecordRelease record) := rfl
theorem Row.launchEndService (launch : Nat) : Row.Statement (.launchEndService launch) := rfl
theorem Row.launchKeyReplace (ctx : Nat) : Row.Statement (.launchKeyReplace ctx) := rfl
theorem Row.contextCreate (p : CtxParams) : Row.Statement (.contextCreate p) := rfl
theorem Row.contextSave (ctx : Nat) : Row.Statement (.contextSave ctx) := rfl
theorem Row.contextRestore (image : ImageRef) (ctx : Nat) : Row.Statement (.contextRestore image ctx) := rfl
theorem Row.contextDiscard (ctx : Nat) : Row.Statement (.contextDiscard ctx) := rfl
theorem Row.contextReset (ctx : Nat) : Row.Statement (.contextReset ctx) := rfl
theorem Row.contextResetDone (ctx : Nat) : Row.Statement (.contextResetDone ctx) := rfl
theorem Row.coreDrain (ctx core deadline : Nat) : Row.Statement (.coreDrain ctx core deadline) := rfl
theorem Row.drainDeadline (ctx core : Nat) : Row.Statement (.drainDeadline ctx core) := rfl
theorem Row.tokenRefill : Row.Statement (.tokenRefill) := rfl
theorem Row.portRequestSend (core ctx : Nat) : Row.Statement (.portRequestSend core ctx) := rfl
theorem Row.sharedCounterUpdate : Row.Statement (.sharedCounterUpdate) := rfl
theorem Row.governorStep (die step : Nat) : Row.Statement (.governorStep die step) := rfl
theorem Row.syncNotice : Row.Statement (.syncNotice) := rfl
theorem Row.homeSliceAtomic (acc : Nat) : Row.Statement (.homeSliceAtomic acc) := rfl
theorem Row.promotionAck (granule : Nat) : Row.Statement (.promotionAck granule) := rfl
theorem Row.remoteRequest (m : FabMsg) : Row.Statement (.remoteRequest m) := rfl
theorem Row.remoteAnswer (m : FabMsg) : Row.Statement (.remoteAnswer m) := rfl
theorem Row.oflRelease (held : Nat) : Row.Statement (.oflRelease held) := rfl
theorem Row.hostAccessTimeout (acc : Nat) : Row.Statement (.hostAccessTimeout acc) := rfl
theorem Row.rdmaWrite (addr : DWord) (data : List Byte) : Row.Statement (.rdmaWrite addr data) := rfl
theorem Row.sweepAck (core : Nat) : Row.Statement (.sweepAck core) := rfl
theorem Row.coreSweep (core : Nat) : Row.Statement (.coreSweep core) := rfl
theorem Row.sweepPassComplete : Row.Statement (.sweepPassComplete) := rfl
theorem Row.scrubSubframe (frame : Nat) : Row.Statement (.scrubSubframe frame) := rfl
theorem Row.frameRetire (frame spare : Nat) : Row.Statement (.frameRetire frame spare) := rfl
theorem Row.spareReplace (frame spare : Nat) : Row.Statement (.spareReplace frame spare) := rfl
theorem Row.routeReplace (die stack : Nat) : Row.Statement (.routeReplace die stack) := rfl
theorem Row.uncorrectableError (loc : ErrLoc) : Row.Statement (.uncorrectableError loc) := rfl
theorem Row.leaseAcceptMsg (m : LeaseAccept) : Row.Statement (.leaseAcceptMsg m) := rfl
theorem Row.leaseGranted (lender id lframe : Nat) : Row.Statement (.leaseGranted lender id lframe) := rfl
theorem Row.leaseRefused (lender id : Nat) : Row.Statement (.leaseRefused lender id) := rfl
theorem Row.leaseAcceptTimeout (record : Nat) : Row.Statement (.leaseAcceptTimeout record) := rfl
theorem Row.leaseTerm (record : Nat) : Row.Statement (.leaseTerm record) := rfl
theorem Row.leaseReclaimMsg (lender id : Nat) : Row.Statement (.leaseReclaimMsg lender id) := rfl
theorem Row.leaseReleaseMsg (borrower id : Nat) : Row.Statement (.leaseReleaseMsg borrower id) := rfl
theorem Row.leaseDrainDone (record : Nat) : Row.Statement (.leaseDrainDone record) := rfl
theorem Row.leaseDrained (borrower id : Nat) : Row.Statement (.leaseDrained borrower id) := rfl
theorem Row.leaseCopyDone (record : Nat) : Row.Statement (.leaseCopyDone record) := rfl
theorem Row.leaseCopied (lender borrower id : Nat) : Row.Statement (.leaseCopied lender borrower id) := rfl
theorem Row.leaseAbort (lender id : Nat) : Row.Statement (.leaseAbort lender id) := rfl
theorem Row.leaseForceMsg (peer id : Nat) (asLender : Bool) : Row.Statement (.leaseForceMsg peer id asLender) := rfl
theorem Row.leaseDeadline (record : Nat) : Row.Statement (.leaseDeadline record) := rfl
theorem Row.portEnable (port : Nat) : Row.Statement (.portEnable port) := rfl
theorem Row.portDisable (port : Nat) : Row.Statement (.portDisable port) := rfl
theorem Row.linkTrained (port : Nat) (peer : PeerId) (peerPort : Nat) : Row.Statement (.linkTrained port peer peerPort) := rfl
theorem Row.linkTrainingFail (port : Nat) : Row.Statement (.linkTrainingFail port) := rfl
theorem Row.linkRetry (port : Nat) : Row.Statement (.linkRetry port) := rfl
theorem Row.flitReceive (port : Nat) (f : FlitIn) : Row.Statement (.flitReceive port f) := rfl
theorem Row.nak (port ackseq : Nat) : Row.Statement (.nak port ackseq) := rfl
theorem Row.ackTimeout (port : Nat) : Row.Statement (.ackTimeout port) := rfl
theorem Row.replayLimit (port : Nat) : Row.Statement (.replayLimit port) := rfl
theorem Row.linkRekey (port : Nat) : Row.Statement (.linkRekey port) := rfl
theorem Row.peerUnreachable (peer : Nat) : Row.Statement (.peerUnreachable peer) := rfl
theorem Row.sealingKeyAgree (peer : Nat) : Row.Statement (.sealingKeyAgree peer) := rfl
theorem Row.chairliftProbe (queue : Nat) : Row.Statement (.chairliftProbe queue) := rfl
theorem Row.queueFree (queue : Nat) : Row.Statement (.queueFree queue) := rfl
theorem Row.monitorControlWrite (die k : Nat) (w : DWord) : Row.Statement (.monitorControlWrite die k w) := rfl
theorem Row.monitorCounterWrite (die k : Nat) (w : DWord) : Row.Statement (.monitorCounterWrite die k w) := rfl
theorem Row.boot (b : BootIn) : Row.Statement (.boot b) := rfl
theorem Row.secverRaise (ver : Nat) (signed : Bool) : Row.Statement (.secverRaise ver signed) := rfl
theorem Row.attestationReport (nonce : List Byte) : Row.Statement (.attestationReport nonce) := rfl
theorem Row.thermalCap (die : Nat) : Row.Statement (.thermalCap die) := rfl
theorem Row.thermalDutyCycle (die : Nat) : Row.Statement (.thermalDutyCycle die) := rfl
theorem Row.thermal (die : Nat) : Row.Statement (.thermal die) := rfl
theorem Row.modulePowerDown : Row.Statement (.modulePowerDown) := rfl
theorem Row.flitSlot (port : Nat) : Row.Statement (.flitSlot port) := rfl
theorem Row.slotAlignmentLost (port : Nat) : Row.Statement (.slotAlignmentLost port) := rfl
theorem Row.correctableError (die : Nat) : Row.Statement (.correctableError die) := rfl
theorem Row.reeveAnswer (job : Nat) : Row.Statement (.reeveAnswer job) := rfl
theorem Row.multiRefusal (src : RankRef) (e : EntryRef) : Row.Statement (.multiRefusal src e) := rfl

end Sys2Proof.Laws
end

