-- ==== Sys2Proof/Tests/Setup.lean ====
section
/-! SUPPORT. Small states for the tests: a device that has placed one team of one thread, about to execute one instruction, with
registers, tags and memory of a test's choosing. -/

namespace Sys2Proof.Tests

open Sys2Proof Sys2Proof.Machine

/-- The clause of one instruction that withFetchWord places. -/
def oneClause : Clause := ⟨0, 1, BitVec.ofNat 64 probeBase, probeHeader, 0, 0, false, []⟩

/-- One team of one thread, with registers all zero. -/
def base : State := State.reset.withFetchWord 64 0

/-- The state about to execute an instruction. -/
def at_ (i : Instr) (s : State) : State := s.withCur 0 0 oneClause (encode i)

/-- The thread's vector registers and tagged quads. -/
def regs (s : State) (r : List (Nat × Word)) (tags : List Nat := []) : State :=
  s.setLane 0 { s.lane 0 with regs := r.foldl (fun t p => t.set p.1 p.2) (s.lane 0).regs, tags := tags }

/-- The four words of a quad at quad register `q`, low word first. -/
def quadRegs (q : Nat) (v : Quad) : List (Nat × Word) := (List.range 4).map fun k => (4 * q + k, quadWord v k)

/-- The thread's lane in another state. -/
def laneAs (s : State) (x : LaneState) : State := s.setLane 0 { s.lane 0 with state := x }

/-- The running context with another colour. -/
def colour (s : State) (k : Nat) : State := s.modCtx 0 fun x => { x with colour := k }

/-- A word of 4 bytes at an address. -/
def word (s : State) (a n v : Nat) : State := { s with mem := s.mem.setBytes a (natBytes n v) }

/-- An instruction acts for the one thread and nothing stops it. -/
def ready (i : Instr) (s : State) : Bool :=
  decide ((at_ i s).decodeCheck i = none) && decide ((at_ i s).acting i = [0]) && decide ((at_ i s).poisonOf i 0 = none)

/-- `ready` is what the obligations call Clear, with lane 0 the acting lane. -/
theorem clear_of_ready {i : Instr} {s : State} (h : ready i s = true) : (at_ i s).Clear i ∧ (at_ i s).acting i = [0] := by
  simp only [ready, Bool.and_eq_true, decide_eq_true_eq] at h
  refine ⟨⟨h.1.1, fun lk hl => ?_⟩, h.1.2⟩
  rw [h.1.2, List.mem_singleton] at hl
  exact hl ▸ h.2

/-- The next state of an instruction, seen through a test. -/
def after (i : Instr) (s : State) (p : State → Bool) : Bool :=
  match exec i (at_ i s) with | .next t => p t | _ => false

/-- The next state of an event. -/
def afterEvent (i : Instr) (s : State) (p : State → Bool) : Bool :=
  match exec i s with | .next t => p t | _ => false

/-- Register `r` of the thread. -/
def reg (s : State) (r : Nat) : Nat := ((s.lane 0).regs.getD r 0).toNat

/-- A DATA capability of colour 0 with every data permission over one page of frame 0. -/
def page : Quad := Cap.make Kind.data 0 0xBCF 0x10000 4096 0x10000

/-- A PAD capability over the team's pad. -/
def padCap : Quad := Cap.make Kind.pad 0 0xB0F padBase 4096 padBase

end Sys2Proof.Tests
end

