-- ==== Sys2Proof/Tests/Witness.lean ====
section
/-! SUPPORT. For every statement with hypotheses, states and operands that meet them. A witness is named after its statement. -/

namespace Sys2Proof.Tests

set_option Elab.async false

open Sys2Proof Sys2Proof.Machine
/-- IntegerElements: The thirteen instructions with nothing to stop them; `Claims.intRule` names each. -/
theorem witness_IntegerElements :
    ([.iadd ⟨0, 1, 0, 4, 8, 0x30, 0⟩, .isub ⟨0, 1, 0, 4, 8, 0x30, 0⟩, .imul ⟨0, 1, 0, 4, 8, 0x30, 0⟩,
     .imulh ⟨0, 1, 0, 4, 8, 0x30, 0⟩, .imad ⟨0, 1, 0, 4, 8, 0x30, 0x50⟩, .idiv ⟨0, 1, 0, 4, 8, 0x30, 0⟩,
     .irem ⟨0, 1, 0, 4, 8, 0x30, 0⟩, .imin ⟨0, 1, 0, 4, 8, 0x30, 0⟩, .imax ⟨0, 1, 0, 4, 8, 0x30, 0⟩,
     .iabs ⟨0, 1, 0, 4, 8, 0, 0⟩, .ineg ⟨0, 1, 0, 4, 8, 0, 0⟩, .iadds ⟨0, 1, 0, 4, 8, 0x30, 0⟩,
     .isubs ⟨0, 1, 0, 4, 8, 0x30, 0⟩] : List Instr).all (ready · base) = true := by decide

/-- LogicBits: each instruction with nothing to stop it and an acting lane. -/
theorem witness_LogicBits :
    ([.andOp ⟨0, 0, 0, 4, 8, 0x30, 0⟩, .orOp ⟨0, 0, 0, 4, 8, 0x30, 0⟩, .xorOp ⟨0, 0, 0, 4, 8, 0x30, 0⟩,
     .andn ⟨0, 0, 0, 4, 8, 0x30, 0⟩, .lop3 ⟨0, 0, 0, 4, 8, 0x30, 0x50⟩] : List Instr).all (ready · base) = true := by decide

/-- MoveShiftResults: each instruction with nothing to stop it and an acting lane. -/
theorem witness_MoveShiftResults :
    ([.mov ⟨0, 0, 0, 4, 8, 0, 0⟩, .sel ⟨0, 0, 0, 4, 8, 0x30, 0⟩, .shl ⟨0, 0, 0, 4, 8, 0x30, 0⟩,
     .shr ⟨0, 0, 0, 4, 8, 0x30, 0⟩, .shra ⟨0, 1, 0, 4, 8, 0x30, 0⟩, .rotl ⟨0, 0, 0, 4, 8, 0x30, 0⟩,
     .funnel ⟨0, 0, 0, 4, 8, 0x30, 0x50⟩, .clz ⟨0, 0, 0, 4, 8, 0, 0⟩, .popc ⟨0, 0, 0, 4, 8, 0, 0⟩,
     .brev ⟨0, 0, 0, 4, 8, 0, 0⟩, .bfx ⟨0, 1, 0, 4, 8, 0, 0⟩, .bfi ⟨0, 0, 0, 4, 8, 0x30, 0⟩,
     .bperm ⟨0, 0, 0, 4, 8, 0x30, 0x50⟩, .movi ⟨0, 0, 4, 0, 0x3F800000⟩, .iaddi ⟨0, 0, 4, 8, 0x3F800000⟩,
     .imuli ⟨0, 0, 4, 8, 0x3F800000⟩, .andi ⟨0, 0, 4, 8, 0x3F800000⟩, .ori ⟨0, 0, 4, 8, 0x3F800000⟩,
     .xori ⟨0, 0, 4, 8, 0x3F800000⟩, .cvti ⟨0, 1, 1, 4, 8, 0, 0⟩] : List Instr).all (ready · base) = true := by decide

/-- PredicateResults: each instruction with nothing to stop it and an acting lane. -/
theorem witness_PredicateResults :
    ([.icmp ⟨0, 1, 0, 4, 8, 0x30, 0⟩, .icmpi ⟨0, 0, 4, 8, 0x3F800000⟩, .fcmp ⟨0, 3, 0, 4, 8, 0x30, 0⟩,
     .plop ⟨0, 0, 0, 4, 0, 0, 0⟩, .packp ⟨0, 0, 0, 4, 0, 0, 0⟩, .unpackp ⟨0, 0, 0, 0, 8, 0, 0⟩,
     .iaddc ⟨0, 2, 0, 4, 8, 0x30, 0⟩, .isubb ⟨0, 2, 0, 4, 8, 0x30, 0⟩] : List Instr).all (ready · base) = true := by decide

/-- DotProduct: each instruction with nothing to stop it and an acting lane. -/
theorem witness_DotProduct :
    ([.idot4 ⟨0, 0xB, 0, 4, 8, 0x30, 0x50⟩] : List Instr).all (ready · base) = true := by decide

/-- FloatResults: each instruction with nothing to stop it and an acting lane. -/
theorem witness_FloatResults :
    ([.fadd ⟨0, 3, 0, 4, 8, 0x30, 0⟩, .fsub ⟨0, 3, 0, 4, 8, 0x30, 0⟩, .fmul ⟨0, 3, 0, 4, 8, 0x30, 0⟩,
     .ffma ⟨0, 3, 0, 4, 8, 0x30, 0x50⟩, .fdiv ⟨0, 3, 0, 4, 8, 0x30, 0⟩, .fsqrt ⟨0, 3, 0, 4, 8, 0, 0⟩,
     .fmin ⟨0, 3, 0, 4, 8, 0x30, 0⟩, .fmax ⟨0, 3, 0, 4, 8, 0x30, 0⟩, .frnd ⟨0, 3, 0, 4, 8, 0, 0⟩,
     .faddi ⟨0, 0, 4, 8, 0x3F800000⟩, .fmuli ⟨0, 0, 4, 8, 0x3F800000⟩, .pack2 ⟨0, 7, 0, 4, 8, 0x30, 0⟩,
     .unpack2 ⟨0, 7, 0, 4, 8, 0, 0⟩, .cvt ⟨0, 3, 8, 4, 8, 0, 0⟩, .tricv ⟨0, 0, 0, 4, 8, 0, 0⟩,
     .fdot2 ⟨0, 7, 0, 4, 8, 0x30, 0x50⟩, .hadd2 ⟨0, 7, 0, 4, 8, 0x30, 0⟩, .hmul2 ⟨0, 7, 0, 4, 8, 0x30, 0⟩,
     .hfma2 ⟨0, 7, 0, 4, 8, 0x30, 0x50⟩, .hmnx2 ⟨0, 7, 0, 4, 8, 0x30, 0⟩] : List Instr).all (ready · base) = true := by decide

/-- ClassBits: each instruction with nothing to stop it and an acting lane. -/
theorem witness_ClassBits :
    ([.fclass ⟨0, 3, 0, 4, 8, 0, 0⟩] : List Instr).all (ready · base) = true := by decide

/-- ApproximateResults: each instruction with nothing to stop it and an acting lane. -/
theorem witness_ApproximateResults :
    ([.frcp ⟨0, 3, 0, 4, 8, 0, 0⟩, .frsq ⟨0, 3, 0, 4, 8, 0, 0⟩, .fex2 ⟨0, 3, 0, 4, 8, 0, 0⟩, .flg2 ⟨0, 3, 0, 4, 8, 0, 0⟩,
     .ftanh ⟨0, 3, 0, 4, 8, 0, 0⟩, .fred ⟨0, 3, 0, 4, 8, 0, 0⟩, .fsin ⟨0, 3, 0, 4, 8, 0, 0⟩, .fcos ⟨0, 3, 0, 4, 8, 0, 0⟩,
     .fsincos ⟨0, 3, 0, 4, 8, 0, 0⟩] : List Instr).all (ready · base) = true := by decide

/-- CrossLaneResults: each instruction with nothing to stop it and an acting lane. -/
theorem witness_CrossLaneResults :
    ([.ballot ⟨0, 0, 0, 4, 0, 0, 0⟩, .shfl ⟨0, 0, 0, 4, 8, 0x30, 0⟩, .shflx ⟨0, 0, 0, 4, 8, 0x30, 0⟩,
     .shflup ⟨0, 0, 0, 4, 8, 0x30, 0⟩, .shfldn ⟨0, 0, 0, 4, 8, 0x30, 0⟩, .pswap ⟨0, 0, 0, 4, 8, 0, 0⟩,
     .gredux ⟨0, 3, 0, 4, 8, 0, 0⟩, .gscan ⟨0, 3, 0, 4, 8, 0, 0⟩, .actmask ⟨0, 0, 0, 4, 0, 0, 0⟩] : List Instr).all (ready · base) = true := by decide

/-- VoteResults: each instruction with nothing to stop it and an acting lane. -/
theorem witness_VoteResults :
    ([.vote ⟨0, 0, 0, 4, 0, 0, 0⟩] : List Instr).all (ready · base) = true := by decide

/-- MatchMasks: each instruction with nothing to stop it and an acting lane. -/
theorem witness_MatchMasks :
    ([.matchOp ⟨0, 0, 0, 4, 8, 0, 0⟩] : List Instr).all (ready · base) = true := by decide

/-- SpecialRegisters: each instruction with nothing to stop it and an acting lane. -/
theorem witness_SpecialRegisters :
    ([.sread ⟨0, 1, 4, 0, 0⟩, .perfrd ⟨0, 0, 4, 0, 0⟩, .swrite ⟨0, 0x30, 0, 8, 0⟩] : List Instr).all (ready · base) = true := by decide

/-- ControlTransfers: each instruction with nothing to stop it and an acting lane. -/
theorem witness_ControlTransfers :
    ([.bra ⟨0, 0, 0, 0, 4⟩, .call ⟨0, 0, 0, 8, 4⟩, .brx ⟨0, 0, 0, 0, 8, 0, 0⟩, .callx ⟨0, 0, 0, 4, 8, 0, 0⟩,
     .ret ⟨0, 0, 0, 0, 8, 0, 0⟩, .nop ⟨0, 0, 0, 0, 0, 0, 0⟩, .yield ⟨0, 0, 0, 0, 0, 0, 0⟩, .exit ⟨0, 0, 0, 0, 0, 0, 0⟩] : List Instr).all (ready · base) = true := by decide

/-- A code version with a handler at the header of withFetchWord. -/
def handled : State := { base with vers := base.vers.modify 1 fun v => { v with handler := some 0x1000 } }

/-- A second thread of the group, in lane 1, for which p1 is true. -/
def twoLanes (s : State) : State := s.setLane 1 { s.lane 0 with tid := 1, preds := 2 }

/-- An instruction that acts for lane 1 alone, of two lanes in the set. -/
def readyOne (i : Instr) (s : State) : Bool :=
  let u := s.withCur 0 0 { oneClause with mask := 3 } (encode i)
  decide (u.decodeCheck i = none) && decide (u.setLanes = [0, 1]) && decide (u.acting i = [1]) && decide (u.poisonOf i 1 = none)

/-- BreakpointsTaken: each instruction with nothing to stop it, where there is a handler and where there is none, and with a lane
of the set that does not act. -/
theorem witness_BreakpointsTaken :
    ([.brk ⟨0, 0, 0, 0, 0⟩, .trap ⟨0, 0, 0, 0, 0⟩] : List Instr).all (fun i => ready i base && ready i handled) = true ∧
      ([.brk ⟨1, 0, 0, 0, 0⟩, .trap ⟨1, 0, 0, 0, 0⟩] : List Instr).all (readyOne · (twoLanes handled)) = true := by decide

/-- FaultRecordRead: each instruction with nothing to stop it and an acting lane. -/
theorem witness_FaultRecordRead :
    ([.faultrd ⟨0, 0, 0x10, 0, 0⟩] : List Instr).all (ready · base) = true := by decide

/-- BarrierInstructions: each instruction with nothing to stop it and an acting lane. -/
theorem witness_BarrierInstructions :
    ([.bread ⟨0, 0, 3, 0, 0, 4, 0, 0, 0⟩, .bclustRead ⟨0, 4, 3, 0, 0, 4, 0, 0, 0⟩, .btest ⟨0, 0, 3, 0, 0, 4, 8, 0, 0⟩,
     .bwait ⟨0, 0, 3, 0, 0, 0, 8, 0, 0⟩, .bclustTest ⟨0, 3, 3, 0, 0, 4, 8, 0, 0⟩,
     .bclustWait ⟨0, 2, 3, 0, 0, 0, 8, 0, 0⟩, .bexpb ⟨0, 0, 3, 0, 0, 0, 8, 0, 0⟩, .bclustExp ⟨0, 5, 3, 0, 0, 0, 8, 0, 0⟩,
     .binit ⟨0, 0, 3, 0, 0, 4, 8, 0, 0⟩, .bclustInit ⟨0, 0, 3, 0, 0, 4, 8, 0, 0⟩] : List Instr).all (ready · base) = true := by decide

/-- BarrierArrivals: each instruction with nothing to stop it and an acting lane. -/
theorem witness_BarrierArrivals :
    ([.barv ⟨0, 0, 3, 0, 0, 4, 0, 0, 0⟩, .bclustArv ⟨0, 1, 3, 0, 0, 4, 0, 0, 0⟩] : List Instr).all (ready · base) = true := by decide

/-- RegroupRuns: each instruction with nothing to stop it and an acting lane. -/
theorem witness_RegroupRuns :
    ([.regroup ⟨0, 0, 0, 0, 8, 0, 0⟩, .rgquery ⟨0, 0, 0, 4, 0, 0, 0⟩] : List Instr).all (ready · base) = true := by decide


/-- ControlTransfers: the pair that an indirect transfer reads holds a multiple of 8, and the acting lane reads it. -/
theorem witness_ControlTransfers_even :
    ready (.brx ⟨0, 0, 0, 0, 8, 0, 0⟩) (regs base [(8, 0x2008)]) = true ∧
      ((at_ (.brx ⟨0, 0, 0, 0, 8, 0, 0⟩) (regs base [(8, 0x2008)])).pair 0 8).toNat % 8 = 0 ∧
      ready (.callx ⟨0, 0, 0, 4, 8, 0, 0⟩) (regs base [(8, 0xFFFFFFF8), (9, 0xFFFFFFFF)]) = true ∧
      ((at_ (.callx ⟨0, 0, 0, 4, 8, 0, 0⟩) (regs base [(8, 0xFFFFFFF8), (9, 0xFFFFFFFF)])).pair 0 8).toNat % 8 = 0 ∧
      ready (.ret ⟨0, 0, 0, 0, 8, 0, 0⟩) base = true ∧ ((at_ (.ret ⟨0, 0, 0, 0, 8, 0, 0⟩) base).pair 0 8).toNat % 8 = 0 := by
  decide

/-- MinMaxTable: a NaN and a number, two NaNs, and two numbers either way round. -/
theorem witness_MinMaxTable :
    f32.val 0x7FC00000 = .nan ∧ f32.val 0xFF800001 = .nan ∧ f32.val 0x3F800000 ≠ .nan ∧
      ((f32.val 0xBF800000).cmp (f32.val 0x3F800000)).isSome = true ∧
      (((f32.val 0xBF800000).cmp (f32.val 0x3F800000)).getD 0 < 0) ∧
      (0 < ((f32.val 0x3F800000).cmp (f32.val 0)).getD 0) := by decide

/-- RoundToNearest: 16,777,217 × 2^0 lies between two values and rounds to a finite one. -/
theorem witness_RoundToNearest :
    (match f32.val (f32.round 0 false false 16777217 0) with | .fin _ _ _ => true | _ => false) = true ∧
      (match f32.val 0x4B800001 with | .fin _ _ _ => true | _ => false) = true := by decide

/-- FaultTaken: a lane with a handler, one without, and one that stands in its handler already. -/
theorem witness_FaultTaken :
    handled.handler (handled.laneTeam 0) = some 0x1000 ∧ (handled.lane 0).state = .active ∧
      base.handler (base.laneTeam 0) = none ∧ ((laneAs handled .trapped).lane 0).state = .trapped := by decide

/-- DecodeFaultTaken: opcodes at both ends of the range, executed by a context of colour 1. -/
theorem witness_DecodeFaultTaken :
    (form (.sweep ⟨0, 0, 4, 0, 0⟩)).op? = some 0xE0 ∧ (form (.cvernew ⟨0, 0, 0, 4, 8, 0x30, 0⟩)).op? = some 0xE9 ∧
      (at_ (.sweep ⟨0, 0, 4, 0, 0⟩) (colour base 1)).colourOf 0 ≠ 0 ∧ (at_ (.sweep ⟨0, 0, 4, 0, 0⟩) base).cur.gkey = 0 ∧
      (at_ (.sweep ⟨0, 0, 4, 0, 0⟩) (colour base 1)).illegalHere (.sweep ⟨0, 0, 4, 0, 0⟩) = false ∧
      (at_ (.cvernew ⟨0, 0, 0, 4, 8, 0x30, 0⟩) (colour base 1)).illegalHere (.cvernew ⟨0, 0, 0, 4, 8, 0x30, 0⟩) = false ∧
      0 ∈ (at_ (.sweep ⟨0, 0, 4, 0, 0⟩) (colour base 1)).setLanes := by decide

/-- A lane in its handler, with a return point of each kind. -/
def returning (k : Nat) : State :=
  let s := laneAs base .trapped
  s.setLane 0 { s.lane 0 with ret := some ⟨k, 0x1008, 0x1000, probeHeader, 0, 0⟩ }

/-- FaultReturns: a TRAPPED lane executes ERET, with a return point of either kind. -/
theorem witness_FaultReturns :
    ready (.eretRetry ⟨0, 0, 0, 0, 0⟩) (returning 0) = true ∧ ready (.eretSkip ⟨0, 1, 0, 0, 0⟩) (returning 1) = true ∧
      ((returning 0).lane 0).state = .trapped ∧ (((returning 0).lane 0).ret.map (·.kind)) = some 0 ∧
      (((returning 1).lane 0).ret.map (·.kind)) = some 1 := by decide

/-- HandlerSet: a handler inside the kernel's CODE capability, one outside it, and one that is no multiple of 8. -/
theorem witness_HandlerSet :
    ready (.trapsetSet ⟨0, 0, 0, 4, 8, 0, 0⟩) (regs base [(8, 0x1FF8)]) = true ∧
      ready (.trapsetSet ⟨0, 0, 0, 4, 8, 0, 0⟩) (regs base [(8, 0x2000)]) = true ∧
      ready (.trapsetSet ⟨0, 0, 0, 4, 8, 0, 0⟩) (regs base [(8, 0x1004)]) = true ∧
      ready (.trapsetClr ⟨0, 0, 1, 4, 0, 0, 0⟩) handled = true ∧ ready (.trapsetGet ⟨0, 0, 2, 4, 0, 0, 0⟩) handled = true ∧
      (base.vers.get? 1).isSome = true ∧ (Cap.ofQuad probeVersion.cap).base = 0x1000 ∧
      (Cap.ofQuad probeVersion.cap).top = 0x2000 := by decide

/-- A group that is not in a clause: its lane stands at a header. -/
def idle : State :=
  let s := base.setISlot 0 { base.islot 0 with c0 := none }
  s.setLane 0 { s.lane 0 with pc := 0x1000, resume := none }

/-- A lane with a refusal that has not been taken, about to issue. -/
def refused : State :=
  at_ (.nop ⟨0, 0, 0, 0, 0, 0, 0⟩) (base.setLane 0 { base.lane 0 with late := [⟨0x24, 0x10000, 0⟩] })

/-- A SUSPENDED lane with the word of its fault. -/
def suspended : State :=
  base.setLane 0 { base.lane 0 with state := .suspended, susp := some ⟨0, 0x1008, 0x1000, probeHeader, 0, 0⟩ }

/-- IssueEvents: a vote, a promotion after 256 cycles, a deferred fault, and a suspended lane. -/
theorem witness_IssueEvents :
    idle.voteDue (0 * 4 + 0) = true ∧ 0 ∈ ({ idle with now := 256 } : State).promotable (0 * 4 + 0 % 4) ∧
      refused.deferredDue 0 = true ∧ (refused.lane 0).late = [⟨0x24, 0x10000, 0⟩] ∧
      (suspended.lane 0).state = .suspended ∧ ((suspended.lane 0).susp.map (·.kind)) = some 0 := by decide

/-- IssueEvents: a vote at a well-formed header and at one that is none; of two sets, the second in a class of its own, at the oldest
set's turn and at another. -/
theorem witness_IssueEvents_votes :
    let bad := word idle 0x1000 8 0
    let pairOf := fun (v : Nat) =>
      let s := word (word (idle.modGroup 0 fun g => { g with vote := v }) 0x1000 8 0xFE00000000000000) 0x1080 8 0xFE10000000000000
      s.setLane 1 { idle.lane 0 with tid := 1, pc := 0x1080, lastIssue := 5 }
    (∃ x, pickSet (idle.group 0).vote (idle.ableSets 0) = some x ∧ x.resume = none ∧ x.pc = 0x1000) ∧
      (match idle.fetch 1 0x1000 with | .word w => hdrOk w | _ => false) = true ∧
      (∃ x, pickSet (bad.group 0).vote (bad.ableSets 0) = some x ∧ x.resume = none ∧ x.pc = 0x1000) ∧
      (match bad.fetch 1 0x1000 with | .word w => !hdrOk w | _ => false) = true ∧
      ((pairOf 0).ableSets 0).length = 2 ∧ (pickSet 0 ((pairOf 0).ableSets 0)).map (·.pc) = some 0x1000 ∧
      (pickSet 63 ((pairOf 63).ableSets 0)).map (·.pc) = some 0x1000 ∧
      (match (pairOf 0).fetch 1 0x1000, (pairOf 0).fetch 1 0x1080 with
        | .word a, .word b => hdrOk a && hdrOk b && decide (hdrClass a ≠ hdrClass b ∧ hdrClass a ≠ 7 ∧ hdrClass b ≠ 7)
        | _, _ => false) = true := by
  refine ⟨⟨⟨0x1000, none, 1, 0⟩, ?_⟩, ?_, ⟨⟨0x1000, none, 1, 0⟩, ?_⟩, ?_⟩ <;> decide +kernel

/-- BarrierInstructions: the completion test met with both counts reached, unmet, and an arrival on a barrier that expects none. -/
theorem witness_BarrierInstructions_test :
    let b : Bar := ⟨16, 16, 8191, 8191, false, false⟩
    (b.arrCnt = b.arrExp ∧ b.byteExp ≤ b.byteCnt ∧ 0 < b.arrExp + b.byteExp) ∧
      (let c : Bar := ⟨0, 16, 1, 1, false, false⟩
       ¬ (c.arrCnt = c.arrExp ∧ c.byteExp ≤ c.byteCnt ∧ 0 < c.arrExp + c.byteExp)) ∧
      (⟨0, 0, 0, 0, false, false⟩ : Bar).arrExp = 0 ∧
      (let d : Bar := ⟨0, 0, 0, 2, false, false⟩
       1 < d.arrExp ∧ d.arrExp < 2 ^ 13 ∧ d.arrCnt + 1 < d.arrExp) ∧
      b.byteCnt < 2 ^ 40 ∧ b.byteExp < 2 ^ 40 ∧ b.arrCnt < 2 ^ 13 ∧ b.arrExp < 2 ^ 13 := by decide

/-- BarrierInstructions: BINIT with a count above 8,191, on a barrier that has arrivals, and on a fresh one. -/
theorem witness_BarrierInstructions_init :
    let i : Instr := .binit ⟨0, 0, 3, 0, 0, 4, 8, 0, 0⟩
    let j : Instr := .bclustInit ⟨0, 0, 3, 0, 0, 4, 8, 0, 0⟩
    let busy := word base (padBase + 48) 16 (1 * 2 ^ 21)
    ready i (regs base [(8, 8192)]) = true ∧ (8191 < ((at_ i (regs base [(8, 8192)])).reg1 0 8).toNat) ∧
      ready i (regs busy [(8, 8191)]) = true ∧
      ((at_ i busy).barGet ((at_ i busy).barHere 3)).extractLsb' 21 13 ≠ 0 ∧
      ready i (regs base [(8, 8191)]) = true ∧ (at_ i base).barGet ((at_ i base).barHere 3) = 0 ∧
      ready j (regs base [(8, 8191)]) = true ∧ (at_ j base).barGet ((at_ j base).cbHere 3) = 0 := by decide

/-- The team's convergence register 3 in a state, with an owner and a mask. -/
def cvAs (s : State) (x : CvState) (owner : Nat) (set : DWord) : State := s.setCv 1 3 ⟨x, owner, set, 0, 0, 0, none, false, 0, none⟩

/-- ConvergenceRegisters: a FREE register, one armed by another group, one armed by this group, and a first signer of two. -/
theorem witness_ConvergenceRegisters :
    let i : Instr := .cvinit ⟨0, 0, 3, 0, 0, 4, 8, 0, 0⟩
    let d : Instr := .cvdropFree ⟨0, 1, 3, 0, 0, 4, 0, 0, 0⟩
    let l : Instr := .cvdropLane ⟨0, 0, 3, 0, 0, 4, 0, 0, 0⟩
    let g : Instr := .cvsign ⟨0, 0, 3, 0, 0, 0, 0, 0, 0⟩
    ready i (regs base [(8, 1)]) = true ∧ (base.cv 1 3).state = .free ∧ base.laneTeam 0 = 1 ∧
      ready i (cvAs base .armed 1 1) = true ∧ ((cvAs base .armed 1 1).cv 1 3).owner ≠ 0 ∧
      ready d (cvAs base .armed 0 1) = true ∧ ready l (cvAs base .armed 0 3) = true ∧ ready g (cvAs base .armed 0 3) = true ∧
      ((cvAs base .armed 0 3).cv 1 3).state = .armed ∧ ((cvAs base .armed 0 3).cv 1 3).owner = 0 ∧
      ((cvAs base .armed 0 3).cv 1 3).set.getLsbD 0 = true ∧ ((cvAs base .armed 0 3).cv 1 3).set ≠ 1#64 <<< 0 := by decide

/-- ConvergenceRegisters: the last signer of a round, with another asleep in it, and lanes that may not sign. -/
theorem witness_ConvergenceRegisters_signs :
    let g : Instr := .cvsign ⟨0, 0, 3, 0, 0, 0, 0, 0, 0⟩
    let r : CvReg := ⟨.signing, 0, 3, 2, 0x1008, 1, none, false, 0, none⟩
    let s := (twoLanes base).setCv 1 3 r
    let both := s.setLane 1 { s.lane 1 with state := .asleep false, sleep := some (.cv 3) }
    ready g both = true ∧ (at_ g both).cur.pc = 0x1008 ∧ (both.team 1).ver = 1 ∧ (2 : DWord) ||| lanesMask [0] = r.set ∧
      (both.team 1).core = (at_ g both).cur.core ∧ r.signed.getLsbD 0 = false ∧
      ready g base = true ∧ (base.cv 1 3).state = .free ∧ ready g (cvAs base .armed 1 1) = true ∧
      ready g (cvAs base .armed 0 2) = true ∧ ((cvAs base .armed 0 2).cv 1 3).set.getLsbD 0 = false := by decide

/-- A team with one carried register and its one thread, arrived at REGROUP with key 5 and code version `ver`. -/
def arrivedTeam (ver : Nat := 1) (trapped : Bool := false) : State :=
  let s : State := { base with vers := base.vers.modify 1 fun v => { v with desc := { v.desc with carry := 0x10 } } }
  s.setLane 0 { s.lane 0 with
    state := .asleep trapped, sleep := some .regroup, site := some (s.site 0), arrival := some ⟨ver, 5⟩ }

/-- The same with a second thread, whose code version may be another. -/
def arrivedTwo (ver : Nat) : State := (arrivedTeam).setLane 1 { (arrivedTeam ver).lane 0 with tid := 1 }

/-- RegroupRuns: a team that has arrived; one where a thread has not; one whose shuffle waits; and each fault: two code versions,
an armed convergence register, an extended block in use, and a thread that was TRAPPED. -/
theorem witness_RegroupRuns_settles :
    let s := arrivedTeam
    s.allArrived 1 = true ∧ (s.team 1).rg = none ∧ s.threads 1 = [0] ∧ s.regroupFault 1 = none ∧
      (s.setLane 1 (base.lane 0)).allArrived 1 = false ∧ (s.modTeam 1 fun m => { m with rg := some ⟨false, [], 0, 0⟩ }).allArrived 1 = true ∧
      (arrivedTwo 2).allArrived 1 = true ∧ (arrivedTwo 2).threads 1 = [0, 1] ∧ (arrivedTwo 2).regroupFault 1 = some Code.convMismatch ∧
      (cvAs s .armed 0 1).allArrived 1 = true ∧ (cvAs s .armed 0 1).regroupFault 1 = some Code.regroupBusy ∧
      (s.modGroup 0 fun g => { g with ext := true }).regroupFault 1 = some Code.regroupBusy ∧
      (arrivedTeam 1 true).regroupFault 1 = some Code.regroupBusy := by decide

/-- RegroupRuns: a shuffle that waits to start, one with its placement to compute, one with a carried register to move and one
with its last pass to make; the placements are of different places. -/
theorem witness_RegroupRuns_events :
    let at_ := fun (r : RgRun) => (arrivedTwo 1).modTeam 1 fun m => { m with rg := some r }
    let place := (arrivedTwo 1).placement 1
    (at_ ⟨false, [], 0, 0⟩).shuffleDue 1 = true ∧ (arrivedTwo 1).carrySet 1 = [4] ∧ place.length = 2 ∧
      (place.map fun p => (base.team 1).laneAt (p.grp * 64 + p.lane)).Nodup ∧
      ([(0, 3), (1, 3), (2, 3)].all fun x => (at_ ⟨true, place, x.2, x.1⟩).passDue 1 &&
        decide (((at_ ⟨true, place, x.2, x.1⟩).team 1).rg = some ⟨true, place, x.2, x.1⟩)) = true := by decide

/-- The state with a tagged capability in the quad at register 8. -/
def with8 (s : State) (q : Quad) (more : List (Nat × Word) := []) (tags : List Nat := []) : State :=
  regs s (quadRegs 2 q ++ more) (2 :: tags)

/-- A CMD capability with DLG over the first 128 bytes of the page. -/
def cmdCap : Quad := Cap.make Kind.cmd 0 0x8CF 0x10000 128 0x10000

/-- A PAD capability whose cursor stands past the barrier registers. -/
def padAt : Quad := Cap.make Kind.pad 0 0xB0F padBase 4096 (padBase + 0x200)

/-- A REMOTE capability for peer 3. -/
def remoteCap : Quad := Cap.make Kind.remote 1 0xB03 (3 * 2 ^ 54) 4096 (3 * 2 ^ 54)

/-- CapabilityResults, SetBounds: each instruction on a well-formed DATA capability. -/
theorem witness_CapabilityResults :
    ([.cget ⟨0, 0, 5, 4, 8, 0, 0⟩, .cget ⟨0, 4, 1, 4, 8, 0, 0⟩, .cadd ⟨0, 5, 0, 4, 8, 0x30, 0⟩, .cseta ⟨0, 4, 0, 4, 8, 0x30, 0⟩,
      .candp ⟨0, 0, 0, 4, 8, 0x30, 0⟩, .ctest ⟨0, 0, 0, 4, 8, 0x30, 0⟩, .cmovq ⟨0, 0, 0, 4, 8, 0, 0⟩,
      .cclr ⟨0, 0, 0, 4, 8, 0, 0⟩, .ceq ⟨0, 0, 0, 4, 8, 0x30, 0⟩, .csub ⟨0, 5, 0, 4, 8, 0x30, 0⟩,
      .calign ⟨0, 4, 0, 4, 8, 0x30, 0⟩, .cmint ⟨0, 0, 0, 4, 8, 0, 0⟩, .csetb ⟨0, 4, 0, 4, 8, 0x30, 0⟩] : List Instr).all
      (ready · (with8 base page)) = true ∧
      (Cap.ofQuad page).wf = true ∧ sealedKind (Cap.ofQuad page).kind = false ∧ (Cap.ofQuad page).perm.getLsbD 10 = false := by
  decide

/-- CapabilityResults: a tagged source that is not well formed, one that is sealed, and a SYS one of another colour. -/
theorem witness_CapabilityResults_faults :
    let bad := Cap.toQuad ⟨0, 3, 9, 0, 0, 1, 0⟩
    let queue := Cap.make Kind.queue 0 3 0 16 0
    let sys := Cap.make Kind.data 5 0x403 0x10000 4096 0x10000
    (Cap.ofQuad bad).wf = false ∧ (Cap.ofQuad queue).wf = true ∧ sealedKind (Cap.ofQuad queue).kind = true ∧
      (Cap.ofQuad sys).wf = true ∧ (Cap.ofQuad sys).perm.getLsbD 10 = true ∧ (Cap.ofQuad sys).colour ≠ 0 ∧
      ([.csetb ⟨0, 4, 0, 4, 8, 0x30, 0⟩, .cadd ⟨0, 5, 0, 4, 8, 0x30, 0⟩, .cseta ⟨0, 4, 0, 4, 8, 0x30, 0⟩,
        .calign ⟨0, 4, 0, 4, 8, 0x30, 0⟩, .cget ⟨0, 4, 1, 4, 8, 0, 0⟩, .cmint ⟨0, 0, 0, 4, 8, 0, 0⟩] : List Instr).all (fun i =>
        ready i (with8 base bad) && ready i (with8 base queue) && ready i (with8 base sys)) = true ∧
      ((at_ (.cmint ⟨0, 0, 0, 4, 8, 0, 0⟩) (with8 base bad)).quad 0 8).2 = true := by decide

/-- SetBounds: the largest length that needs no rounding, and the first that does. -/
theorem witness_SetBounds :
    let s := with8 base page [(0x30, 0x8000)]
    ready (.csetb ⟨0, 4, 3, 4, 8, 0x30, 0⟩) s = true ∧ (Cap.ofQuad ((at_ (.csetb ⟨0, 4, 3, 4, 8, 0x30, 0⟩) s).quad 0 8).1).wf = true ∧
      ((at_ (.csetb ⟨0, 4, 3, 4, 8, 0x30, 0⟩) s).pair 0 0x30).toNat = 2 ^ 15 ∧
      ready (.csetb ⟨0, 4, 0, 4, 8, 0x30, 0⟩) (with8 base page [(0x30, 0x8001)]) = true := by decide

/-- DerivationNarrows: CSETB keeps the tag of a range within bounds, and so does a cursor change. -/
theorem witness_DerivationNarrows :
    (Cap.ofQuad page).wf = true ∧ (csetb (Cap.ofQuad page) true 4096 false false).2 = true ∧
      ((Cap.ofQuad page).setCursor 0x10FFF).2 = true := by decide

/-- A context of colour 1 that may seal for device 3 under grant 1: what CPSEAL needs. -/
def sealer : State :=
  { regs (colour base 1) (quadRegs 2 (Cap.make Kind.data 1 0x123 0x10000 4096 0x10000) ++ [(0x30, 3), (0x50, 1)]) [2] with
    grants := [(1, 0x20000#64 ++ 0#64 ++ 1#12 ++ 0x203#12 ++ 3#10 ++ 0#93 ++ 1#1)]
    keys := [(3, ⟨some 0, none, 0⟩)] }

/-- SealAndOpen: CPSEAL of a DATA capability with SEAL and GLOBAL under a valid grant passes its checks. -/
theorem witness_SealAndOpen_seal :
    ready (.cpseal ⟨0, 0, 0, 0x10, 8, 0x30, 0x50⟩) sealer = true ∧
      (match cpsealLane ⟨0, 0, 0, 0x10, 8, 0x30, 0x50⟩ (at_ (.cpseal ⟨0, 0, 0, 0x10, 8, 0x30, 0x50⟩) sealer) 0 with
        | .ok _ => true | .error _ => false) = true := by decide

/-- The registers 8 to 15 with the 256 bits of a blob. -/
def blobbed (b : BitVec 256) : State :=
  regs base (quadRegs 2 (b.extractLsb' 0 128) ++ quadRegs 3 (b.extractLsb' 128 128))

/-- The two quads from register 8 on are the blob. -/
theorem quads_blobbed (b : BitVec 256) :
    (at_ (.cpopen ⟨0, 0, 0, 4, 8, 0, 0⟩) (blobbed b)).quadBits 0 8 1 ++
      (at_ (.cpopen ⟨0, 0, 0, 4, 8, 0, 0⟩) (blobbed b)).quadBits 0 8 0 = b := by
  have h : ∀ q : Quad, (quadWord q 3 ++ quadWord q 2 ++ quadWord q 1 ++ quadWord q 0 : Quad) = q := fun q => by
    ext k hk
    simp only [quadWord, BitVec.getElem_append, BitVec.getElem_extractLsb']
    split_ifs <;> rw [← BitVec.getLsbD_eq_getElem] <;> exact congrArg q.getLsbD (by omega)
  have e : (at_ (.cpopen ⟨0, 0, 0, 4, 8, 0, 0⟩) (blobbed b)).quadBits 0 8 1 ++
      (at_ (.cpopen ⟨0, 0, 0, 4, 8, 0, 0⟩) (blobbed b)).quadBits 0 8 0 =
      (b.extractLsb' 128 128 ++ b.extractLsb' 0 128 : BitVec 256) := by
    rw [← h (b.extractLsb' 128 128), ← h (b.extractLsb' 0 128)]; rfl
  rw [e]
  ext k hk
  simp only [BitVec.getElem_append, BitVec.getElem_extractLsb']
  split_ifs <;> rw [← BitVec.getLsbD_eq_getElem] <;> exact congrArg b.getLsbD (by omega)

/-- SealAndOpen: CPOPEN of a blob that device 3 has sealed for this one under the first key of the pair. -/
theorem witness_SealAndOpen_open :
    let b := sealBlob (Config.sealKey 3 0) (blobHeader 3 0 0 7) page
    (at_ (.cpopen ⟨0, 0, 0, 4, 8, 0, 0⟩) (blobbed b)).Clear (.cpopen ⟨0, 0, 0, 4, 8, 0, 0⟩) ∧ base.parish = 0 ∧
      base.keys.get? 3 = none ∧ (Cap.ofQuad page).colour = 0 ∧
      (at_ (.cpopen ⟨0, 0, 0, 4, 8, 0, 0⟩) (blobbed b)).quadBits 0 8 1 ++
        (at_ (.cpopen ⟨0, 0, 0, 4, 8, 0, 0⟩) (blobbed b)).quadBits 0 8 0 = b :=
  ⟨(clear_of_ready (by rfl)).1, by decide, by decide, by decide, quads_blobbed _⟩

/-- AccessCheck: an access at the last byte within bounds passes, and the one behind it does not. -/
theorem witness_AccessCheck :
    checkCode true (Cap.ofQuad page) 0 accData Perm.ld 0x10FFF 1 = none ∧
      checkCode true (Cap.ofQuad page) 0 accData Perm.ld 0x11000 1 ≠ none := by decide

/-- A memory instruction with nothing to stop it, whose accesses pass every check. -/
def memReady (i : Instr) (s : State) : Bool :=
  match Sys2Proof.Claims.memPlan i with
  | none => false
  | some (_, plan) =>
    let p := plan ((at_ i s).counted i) 0
    ready i s && decide (p.fault = none) && !p.accs.isEmpty &&
      p.accs.all fun x => !x.1.acquires && (x.1.peer.isSome || decide (regionOf x.1.addr ≠ .control))

/-- MemoryInstructionsRun: each instruction on local memory; CDLG on a command block. -/
theorem witness_MemoryInstructionsRun :
    ([.ld ⟨0, 3, 1, 0, 0, 0, 0, 0, 4, 8, 0x30, 0⟩, .st ⟨0, 0, 1, 0, 0, 0, 0, 0, 4, 8, 0x30, 0⟩,
      .ldc ⟨0, 6, 1, 0, 0, 0, 0, 0, 4, 8, 0x30, 0⟩, .stc ⟨0, 6, 1, 0, 0, 0, 0, 0, 4, 8, 0x30, 0⟩,
      .ldm ⟨0, 6, 1, 0, 0, 0, 0, 0, 4, 8, 0x30, 0⟩, .stm ⟨0, 6, 1, 0, 0, 0, 0, 0, 4, 8, 0x30, 0⟩,
      .spillMemory ⟨0, 6, 1, 0, 0, 0, 0, 0, 0x10, 8, 0x30, 0⟩, .fillMemory ⟨0, 6, 1, 0, 0, 0, 0, 0, 0x10, 8, 0x30, 0⟩,
      .atom ⟨0, 4, 1, 0, 0, 0, 0, 0, 4, 8, 0x30, 0⟩, .acas ⟨0, 4, 1, 0, 0, 0, 0, 0, 4, 8, 0x30, 0⟩] : List Instr).all
      (memReady · (with8 base page)) = true ∧
      memReady (.cdlg ⟨0, 6, 0, 0, 0, 0, 0, 0, 4, 8, 0x30, 1⟩) (with8 base cmdCap (quadRegs 1 page) [1]) = true := by decide

/-- An instruction that accesses the pad, with its check passed at an address. -/
def padReady (i : Instr) (f : FmtM) (acc : List Nat) (perm : BitVec 12) (n al : Nat) (st : Bool) : Bool :=
  let s := with8 base padAt
  let a := match i with | .atom _ | .acas _ => (at_ i s).atomAddr 0 f n | _ => (at_ i s).memAddr 0 f n
  ready i s && decide (s.outst = []) && (List.range n).all (fun j =>
    decide (regionOf (padBase + 0x200 + j) = .pad) && s.holdsPad 0 0 (0x200 + j) && !s.granPoison (padBase + 0x200 + j)) &&
    (match (at_ i s).accPre 0 ((at_ i s).quad 0 8) acc perm a n al st with | .ok x => decide (x = padBase + 0x200) | .error _ => false)

/-- PadAccesses: one access of each kind at 512 bytes into the pad; 8 and 16 bytes wide among them. -/
theorem witness_PadAccesses :
    padReady (.ld ⟨0, 6, 0, 0, 0, 0, 0, 0, 4, 8, 0x30, 0⟩) ⟨0, 6, 0, 0, 0, 0, 0, 0, 4, 8, 0x30, 0⟩ accData Perm.ld 16 16 false = true ∧
      padReady (.ld ⟨0, 1, 0, 0, 0, 0, 0, 0, 4, 8, 0x30, 0⟩) ⟨0, 1, 0, 0, 0, 0, 0, 0, 4, 8, 0x30, 0⟩ accData Perm.ld 1 1 false = true ∧
      padReady (.st ⟨0, 5, 1, 0, 0, 0, 0, 0, 4, 8, 0x30, 0⟩) ⟨0, 5, 1, 0, 0, 0, 0, 0, 4, 8, 0x30, 0⟩ accData Perm.st 8 8 true = true ∧
      padReady (.atom ⟨0, 5, 1, 0, 0, 0, 0, 0, 4, 8, 0x30, 0⟩) ⟨0, 5, 1, 0, 0, 0, 0, 0, 4, 8, 0x30, 0⟩ accData permAtom 8 8 true = true ∧
      padReady (.acas ⟨0, 4, 1, 0, 0, 0, 0, 0, 4, 8, 0x30, 0⟩) ⟨0, 4, 1, 0, 0, 0, 0, 0, 4, 8, 0x30, 0⟩ accData permAtom 4 4 true = true ∧
      padReady (.ldc ⟨0, 6, 1, 0, 0, 0, 0, 0, 4, 8, 0x30, 0⟩) ⟨0, 6, 1, 0, 0, 0, 0, 0, 4, 8, 0x30, 0⟩ accLocal Perm.ld 16 16 false = true ∧
      padReady (.stc ⟨0, 6, 1, 0, 0, 0, 0, 0, 4, 8, 0x30, 0⟩) ⟨0, 6, 1, 0, 0, 0, 0, 0, 4, 8, 0x30, 0⟩ accLocal
        (Perm.st ||| Perm.stc) 16 16 true = true ∧
      (with8 base padAt).capLocal 1 0 false (padBase + 0x200) = none := by decide

/-- The number that a test's state has given last. -/
def given (n : Nat) (s : State) : State := { s with fresh := n }

/-- Nothing is outstanding in a state, no team awaits a tree, no pass is under way. -/
def quietState (s : State) : Bool :=
  s.outst.isEmpty && s.cmds.isEmpty && s.wloads.isEmpty && s.jobs.isEmpty && s.heldReqs.isEmpty && s.images.isEmpty &&
    s.leases.isEmpty && s.pass.isNone && s.launches.all (fun p => decide (p.1 ≤ s.fresh)) && s.teams.all (fun p => p.2.treePend.isNone)

theorem used_of_quiet {s : State} (h : quietState s = true) : s.NumbersUsed := by
  simp only [quietState, Bool.and_eq_true, List.isEmpty_iff, Option.isNone_iff_eq_none, List.all_eq_true, decide_eq_true_eq] at h
  obtain ⟨⟨⟨⟨⟨⟨⟨⟨⟨h1, h2⟩, h3⟩, h4⟩, h5⟩, h6⟩, ha⟩, h7⟩, h8⟩, h9⟩ := h
  refine ⟨by simp [h1], by simp [h2], by simp [h3], by simp [h4], by simp [ha], h8, by simp [h5], by simp [h7], fun p hp x hx => ?_, by simp [h6]⟩
  rw [h9 p hp] at hx
  cases hx

/-- PadAccesses, StepKeepsNumbersUsed: the numbers in use have been given, and a release fence has not come before. -/
theorem witness_PadAccesses_state :
    (at_ (.ld ⟨0, 6, 0, 0, 0, 0, 0, 0, 4, 8, 0x30, 0⟩) (with8 base padAt)).NumbersUsed ∧ ((with8 base padAt).lane 0).fenced = false ∧
      State.reset.NumbersUsed ∧ quietState base = true ∧ (match step base with | .next _ => true | _ => false) = true :=
  ⟨used_of_quiet (by decide), by decide, used_of_quiet (by decide), by decide, by decide +kernel⟩

/-- Local memory of the page with its first line in the core's L1: two granules. -/
def inL1 (s : State) : State :=
  { s with l1 := [⟨0, 0, 0x200, 0, 0, false,
    [(0, ⟨0x0F0E0D0C0B0A09080706050403020100, false, false, true, 0, false⟩), (1, ⟨5, false, false, false, 0xFFFF, true⟩)]⟩] }

/-- One lane's access to local memory through the page, with its check passed at 0x10000, held in L1 or not. -/
def localReady (i : Instr) (f : FmtM) (n : Nat) (st cached : Bool) : Bool :=
  let s := at_ i ((if cached then inL1 else id) (with8 base page))
  let here := fun (j : Nat) => let x := s.sectorAt 0 0 ((0x10000 + j) / 16); x.valid || x.dirty.getLsbD ((0x10000 + j) % 16)
  ready i ((if cached then inL1 else id) (with8 base page)) && quietState s && decide (s.unitOf (s.laneCtx 0) s.cur.core = 0) &&
    (match s.accPre 0 (s.quad 0 f.q) accData (if st then Perm.st else Perm.ld) (s.memAddr 0 f n) n (min n 16) st with
      | .ok x => decide (x = 0x10000) | .error _ => false) &&
    (List.range n).all (fun j => decide (regionOf (0x10000 + j) = .local) && here j == cached &&
      !s.sectorBad 0 0 ((0x10000 + j) / 16) && (s.lineAt 0 0 ((0x10000 + j) / 128)).isSome == cached &&
      (match gate s.frames s.spares 0 (0x10000 + j) st with | .go _ _ => true | _ => false)) &&
    decide ((Cap.ofQuad (s.quad 0 f.q).1).kind ≠ Kind.remote) && (Cap.ofQuad (s.quad 0 f.q).1).has Perm.cache && decide (f.cl ≠ 3 ∧ f.ord = 0)

/-- PadAccesses: LD and ST of a line of local memory that L1 holds and of one that it does not; 1, 4 and 32 bytes wide. -/
theorem witness_PadAccesses_local :
    let b1 : FmtM := ⟨0, 1, 0, 0, 0, 0, 0, 0, 4, 8, 0x30, 0⟩
    let b32 : FmtM := ⟨0, 4, 0, 0, 0, 0, 0, 0, 4, 8, 0x30, 0⟩
    let b256 : FmtM := ⟨0, 7, 0, 0, 0, 0, 0, 0, 0x10, 8, 0x30, 0⟩
    ([b1, b32, b256].all fun f => localReady (.ld f) f (tySize f.ty.toNat) false true) = true ∧
      ([b1, b32].all fun f => localReady (.ld f) f (tySize f.ty.toNat) false false) = true ∧
      ([{ b1 with ty := 0 }, b32, b256].all fun f => localReady (.st f) f (tySize f.ty.toNat) true true) = true ∧
      ([{ b1 with ty := 0 }, b32].all fun f => localReady (.st f) f (tySize f.ty.toNat) true false) = true ∧
      tySize 7 = 32 ∧ tySize 4 = 4 ∧ tySize 1 = 1 := by decide +kernel

/-- PadAccesses: the plans of LDM, STM, SPILL, FILL and CDLG on local memory. -/
theorem witness_PadAccesses_plans :
    let s := with8 base page
    let m : FmtM := ⟨0, 6, 1, 0, 0, 0, 0, 0, 0x10, 8, 0x30, 0⟩
    let c : FmtM := ⟨0, 6, 0, 0, 0, 0, 0, 0, 4, 8, 0x30, 1⟩
    let d := with8 base cmdCap (quadRegs 1 page) [1]
    let ok := fun (i : Instr) acc perm n st (p : State → Nat → Plan) =>
      (match (at_ i s).accPre 0 ((at_ i s).quad 0 8) acc perm ((at_ i s).memAddr 0 m 16) n 16 st with
        | .ok x => decide (x = 0x10000) | _ => false) && (p (at_ i s) 0).fault.isNone && !(p (at_ i s) 0).accs.isEmpty
    ok (.ldm m) accData Perm.ld 144 false (ldmPlan m) = true ∧ ok (.stm m) accData Perm.st 144 true (stmPlan m) = true ∧
      ok (.spillMemory m) accLocal Perm.st 288 true (spillPlan m) = true ∧
      ok (.fillMemory m) accLocal Perm.ld 288 false (fillPlan m) = true ∧
      (match (at_ (.cdlg c) d).accPre 0 ((at_ (.cdlg c) d).quad 0 8) [Kind.cmd] Perm.dlg ((at_ (.cdlg c) d).memAddr 0 c 16) 16 16 true with
        | .ok x => (match cdlgSource c (at_ (.cdlg c) d) 0 x with | .ok _ => true | _ => false) | _ => false) = true ∧
      (cdlgPlan c (at_ (.cdlg c) d) 0).fault.isNone = true ∧ (at_ (.ldm m) s).resumed 0 = 0 := by decide +kernel

/-- A CMD capability over a command block in the pad. -/
def padCmd : Quad := Cap.make Kind.cmd 0 0x8CF (padBase + 0x200) 128 (padBase + 0x200)

/-- An instruction on `n` bytes of the pad at 512 bytes, with its check passed. -/
def padRange (i : Instr) (f : FmtM) (q : Quad) (acc : List Nat) (perm : BitVec 12) (n : Nat) (st : Bool) (o : Nat := 0) : Bool :=
  let s := with8 base q (quadRegs 1 page) [1]
  ready i s && quietState s && !(s.lane 0).fenced && decide (s.resumed 0 = 0) && (List.range n).all (fun j =>
    decide (regionOf (padBase + 0x200 + o + j) = .pad) && s.holdsPad 0 0 (0x200 + o + j) && !s.granPoison (padBase + 0x200 + o + j)) &&
    (match (at_ i s).accPre 0 ((at_ i s).quad 0 8) acc perm ((at_ i s).memAddr 0 f 16) n 16 st with
      | .ok x => decide (x = padBase + 0x200 + o) | .error _ => false)

/-- PadAccesses: LDM, STM, SPILL, FILL and CDLG on the pad. -/
theorem witness_PadAccesses_blocks :
    let m : FmtM := ⟨0, 6, 1, 0, 0, 0, 0, 0, 0x10, 8, 0x30, 0⟩
    let c : FmtM := ⟨0, 6, 0, 0, 0, 0, 0, 0, 4, 8, 0x30, 1⟩
    let s := with8 base padCmd (quadRegs 1 page) [1]
    padRange (.ldm m) m padAt accData Perm.ld 144 false = true ∧ padRange (.stm m) m padAt accData Perm.st 144 true = true ∧
      padRange (.spillMemory m) m padAt accLocal Perm.st 288 true = true ∧
      padRange (.fillMemory m) m padAt accLocal Perm.ld 288 false = true ∧
      padRange (.cdlg c) c padCmd [Kind.cmd] Perm.dlg 16 true 16 = true ∧
      (match cdlgSource c (at_ (.cdlg c) s) 0 (padBase + 0x210) with | .ok _ => true | _ => false) = true ∧
      (at_ (.cdlg c) s).capLocal 1 ((at_ (.cdlg c) s).quad 0 4).1 true (padBase + 0x210) = none ∧
      (with8 base padAt).capLocal 1 0 false (padBase + 0x200) = none ∧
      (List.range 18).all (fun g => ((with8 base padAt).capLocal 1 0 false (padBase + 0x200 + 16 * g)).isNone) = true ∧ countBits m = 8 := by decide +kernel

/-- An instruction that acts for both of two lanes. -/
def readyTwo (i : Instr) (s : State) : Bool :=
  let u := s.withCur 0 0 { oneClause with mask := 3 } (encode i)
  decide (u.decodeCheck i = none) && decide (u.acting i = [0, 1]) && decide (u.poisonOf i 0 = none) && decide (u.poisonOf i 1 = none)

/-- PadAccesses: two lanes store one byte each, to one place of the pad and to two. -/
theorem witness_PadAccesses_lanes :
    let f : FmtM := ⟨0, 0, 0, 0, 0, 0, 0, 0, 4, 8, 0x30, 0⟩
    let same := twoLanes (with8 base padAt)
    let apart := same.setLane 1 { same.lane 1 with regs := (same.lane 1).regs.set 0x30 1 }
    ([same, apart].all fun s =>
      let u := s.withCur 0 0 { oneClause with mask := 3 } (encode (.st f))
      readyTwo (.st f) s && quietState u && [0, 1].all fun lk => !(u.lane lk).fenced &&
        (match u.accPre 0 (u.quad lk 8) accData Perm.st (u.memAddr lk f 1) 1 1 true with
          | .ok x => decide (regionOf x = .pad) && u.holdsPad 0 0 (x - padBase) | .error _ => false)) = true := by decide +kernel

/-- RefusedAccesses: an access through a quad with a clear tag fails its check, for each of the six instructions. -/
theorem witness_RefusedAccesses :
    ([.ld ⟨0, 3, 1, 0, 0, 0, 0, 0, 4, 8, 0x30, 0⟩, .st ⟨0, 0, 1, 0, 0, 0, 0, 0, 4, 8, 0x30, 0⟩,
      .ldc ⟨0, 6, 1, 0, 0, 0, 0, 0, 4, 8, 0x30, 0⟩, .stc ⟨0, 6, 1, 0, 0, 0, 0, 0, 4, 8, 0x30, 0⟩,
      .atom ⟨0, 4, 1, 0, 0, 0, 0, 0, 4, 8, 0x30, 0⟩, .acas ⟨0, 4, 1, 0, 0, 0, 0, 0, 4, 8, 0x30, 0⟩] : List Instr).all (ready · base) = true ∧
      (match base.accPre 0 (base.quad 0 8) accData Perm.ld 0 4 4 false with | .error e => decide (e.code = 0x10) | .ok _ => false) = true ∧
      (match base.accPre 0 (base.quad 0 8) accLocal (Perm.st ||| Perm.stc) 0 16 16 true with
        | .error _ => true | .ok _ => false) = true := by decide

/-- RefusedAccesses: a 32-byte access whose second half lies in a hole, though its first half is refused by its frame's state. -/
theorem witness_RefusedAccesses_hole :
    let edge := Cap.make Kind.data 0 0xBCF 0xBFFFFFF000 0x2000 0xBFFFFFFFF0
    let f : FmtM := ⟨0, 7, 0, 0, 0, 0, 0, 0, 0x10, 8, 0x30, 0⟩
    let s := with8 base edge
    ready (.ld f) s = true ∧ ready (.st f) s = true ∧ regionOf (0xBFFFFFFFF0 + 16) = .hole ∧
      (match gate base.frames base.spares 0 0xBFFFFFFFF0 false with | .refuse _ _ => true | _ => false) = true ∧
      (match (at_ (.ld f) s).accPre 0 (edge, true) accData Perm.ld ((at_ (.ld f) s).memAddr 0 f 32) 32 16 false,
        (at_ (.st f) s).accPre 0 (edge, true) accData Perm.st ((at_ (.st f) s).memAddr 0 f 32) 32 16 true with
        | .ok x, .ok y => decide (x = 0xBFFFFFFFF0 ∧ y = x) | _, _ => false) = true ∧
      (at_ (.ld f) s).quad 0 8 = (edge, true) ∧ (Cap.ofQuad edge).kind ≠ Kind.remote := by decide +kernel

/-- CacheInstructions: each instruction on a line of local memory; RETAIN.set on one way of a core that has two, and of one. -/
theorem witness_CacheInstructions :
    let s := with8 base page
    let two := base.modCtx 0 fun x => { x with alloc := x.alloc.set 0 ⟨1, 1, 1, 1, 1, false, true, false, none⟩ }
    ([.fence ⟨0, 0, 2, 0, 0, 0, 0, 0, 0, 0, 0, 0⟩, .pref ⟨0, 3, 0, 0, 0, 0, 0, 0, 0, 8, 0x30, 0⟩,
      .cctlWb ⟨0, 0, 0, 0, 0, 0, 0, 0, 0, 8, 0x30, 0⟩, .cctlInv ⟨0, 1, 0, 0, 0, 0, 0, 0, 0, 8, 0x30, 0⟩,
      .cctlWbinv ⟨0, 2, 0, 0, 0, 0, 0, 0, 0, 8, 0x30, 0⟩, .cctlWball ⟨0, 3, 0, 0, 0, 0, 0, 0, 0, 0x140, 0x140, 0⟩,
      .iline ⟨0, 1, 0, 0, 0, 0, 0, 0, 0, 8, 0x30, 0⟩, .iline ⟨0, 0, 0, 0, 0, 0, 0, 0, 0, 8, 0x30, 0⟩,
      .retainSet ⟨0, 0, 0, 0, 0, 0, 0, 0, 4, 8, 0x140, 0⟩, .retainClr ⟨0, 1, 0, 0, 0, 0, 0, 0, 0, 0x140, 0x140, 0⟩] : List Instr).all
      (ready · s) = true ∧
      (match s.lineCheck 0 ⟨0, 0, 0, 0, 0, 0, 0, 0, 0, 8, 0x30, 0⟩ accLocal Perm.ld with | .ok x => decide (x = 0x10000) | _ => false) = true ∧
      (match s.lineCheck 0 ⟨0, 0, 0, 0, 0, 0, 0, 0, 0, 8, 0x30, 0⟩ [Kind.data, Kind.code] 0 with | .ok x => decide (x = 0x10000) | _ => false) = true ∧
      s.outst = [] ∧ s.cmds = [] ∧ checkAccess (s.quad 0 8) 0 [Kind.data, Kind.pad] Perm.ld 0x10000 4096 = none ∧
      s.waysOf 0 0 0 < 0 + 0 + 1 + 1 ∧ ¬ (two.waysOf 0 0 0 < 0 + 1) ∧ s.waysOf 0 0 0 = 1 := by decide

/-- An access of a thread that waits at a place. -/
def waiting (p : AccPlace) (addr ord scope : Nat) (kind : AccKind) : Acc :=
  { kind := kind, place := p, team := 1, tid := 0, core := 0, ctx := 0, colour := 0, addr := addr, size := 4, ty := 4, aop := 0,
    ord := ord, scope := scope, cl := 0, val := 7, cmp := 0, tag := false, poison := false, d := some 4, dk := 0, caps := false,
    ldc := false, cache := true, ofl := false, peer := none, since := 0, batch := 1, req := 0, fenced := false, passed := none, site := none }

/-- Frame 0 of the host window is the context's, at host frame 0. -/
def hosted : State := { base with frames := base.frames.set 524288 (Fst.mk 0 0 2 false false 0 Fst.owned) }

/-- MemoryEvents: a load at home and at the host, an atomic at home, a promotion, a notice, a host access that has waited, a
fence that need wait no longer. -/
theorem witness_MemoryEvents :
    let home := { base with outst := [(1, waiting .home 0x10000 0 0 .load)] }
    let host := { hosted with outst := [(1, waiting .host hostBase 0 0 .load)], now := 12500000 }
    let gone := { base with outst := [(1, waiting .host hostBase 0 0 .load)] }
    let atom := { base with outst := [(1, waiting .home 0x10000 1 4 .atom)] }
    let owned := { atom with sync := [⟨0x1000, 1, 0⟩] }
    let noted := { base with notices := [⟨0x1000, 0, 0⟩] }
    let fence := { base with fences := [(1, ⟨1, 0, 0, 2, 2, false, [0]⟩)] }
    home.outst.get? 1 = some (waiting .home 0x10000 0 0 .load) ∧ home.loadDue (waiting .home 0x10000 0 0 .load) = true ∧
      (match host.gateOf (waiting .host hostBase 0 0 .load) with | .host h => decide (h = 0) | _ => false) = true ∧
      (match gone.gateOf (waiting .host hostBase 0 0 .load) with | .host _ => false | _ => true) = true ∧
      atom.homeDue (waiting .home 0x10000 1 4 .atom) = true ∧ atom.atHome (waiting .home 0x10000 1 4 .atom) = true ∧
      regionOf 0x10000 = .local ∧ owned.recordOf 0x1000 = some ⟨0x1000, 1, 0⟩ ∧
      owned.ackDue 0x1000 = true ∧ noted.notices = [⟨0x1000, 0, 0⟩] ∧ base.findThread 1 0 = some 0 ∧
      (base.lane 0).state ≠ .exited ∧ (waiting .host hostBase 0 0 .load).since + 12500000 ≤ host.now ∧
      (waiting .home 0x10000 0 0 .load).acquires = false ∧ fence.fenceDue ⟨1, 0, 0, 2, 2, false, [0]⟩ = true := by decide

/-- MemoryEvents: an acquire that finds poison, at its home and when it lands; halves of a 32-byte load of which the first, or the
second, has come. -/
theorem witness_MemoryEvents_pairs :
    let x := waiting .home 0x10000 2 2 .load
    let bad := { base with poison := [0x1000], outst := [(1, x)] }
    let a := { waiting .home 0x10000 0 0 .load with mate := true, batch := 7, size := 16 }
    let b := { a with addr := 0x10010, dk := 4 }
    let one := { base with outst := [(1, a), (2, b)] }
    let two := { base with outst := [(1, a), (2, { b with place := .mate, got := some ⟨0, false, false⟩ })] }
    x.acquires = true ∧ bad.granPoison 0x10000 = true ∧ bad.ofTree x = false ∧ x.mate = false ∧ bad.findThread 1 0 = some 0 ∧
      (bad.lane 0).state = .active ∧ x.team ≠ 0 ∧ one.mateOf 1 a = some (2, b) ∧ b.got = none ∧ one.ofTree a = false ∧
      two.mateOf 1 a = some (2, { b with place := .mate, got := some ⟨0, false, false⟩ }) ∧ a.acquires = false ∧ a.dk < b.dk := by
  decide +kernel

/-- MemoryEvents: a load and a store of another device of more than 16 bytes, at the host. -/
theorem witness_MemoryEvents_wide :
    let x := { waiting .host hostBase 0 0 .load with size := 64, batch := 7 }
    let y := { x with kind := .store }
    let m : FabMsg := { src := 3, dst := 0, grant := 1, colour := 1, op := 1, sub := 0, path := 0, ofl := false, counts := [0, 0, 0, 0],
                        data := List.replicate 64 1, len := 64, ty := 6, ord := 0, scope := 0, aop := 0, rnum := 1, pseq := 1,
                        addr := 0, status := 0, tags := [], poison := [], bar := 0, seen := 0 }
    let s := { hosted with outst := [(1, x), (2, y)], heldReqs := [(7, ⟨m, true⟩)] }
    s.outst.get? 1 = some x ∧ s.outst.get? 2 = some y ∧ 16 < x.size ∧ x.place = .host ∧ y.place = .host ∧ y.kind ≠ .load ∧
      s.heldReqs.get? y.batch = some ⟨m, true⟩ ∧ (match s.gateOf x, s.gateOf y with | .host _, .host _ => true | _, _ => false) = true := by
  decide

/-- A lane that sleeps in a WAITA on a word of its pad, or of the host window. -/
def waits (s : State) (addr cmp : Nat) (polls : Bool) (deadline last : Option Nat) : State :=
  s.setLane 0 { s.lane 0 with
    state := .asleep false
    sleep := some (.waita ⟨addr, false, 0, 0, BitVec.ofNat 64 cmp, polls, 4, deadline, 0, last⟩) }

/-- WaitOnAddress: a WAITA whose condition holds and one whose does not, and one that fails its check. -/
theorem witness_WaitOnAddress :
    let i : Instr := .waita ⟨0, 0, 3, 0, 0, 4, 8, 0x30, 0x50⟩
    let s := with8 base padAt
    ready i s = true ∧
      (match waitCheck ⟨0, 0, 3, 0, 0, 4, 8, 0x30, 0x50⟩ ((at_ i s).counted i) 0 with
        | .ok (x, .go y false) => decide (x = padBase + 0x200 ∧ y = x) | _ => false) = true ∧
      ready i base = true ∧
      (match waitCheck ⟨0, 0, 3, 0, 0, 4, 8, 0x30, 0x50⟩ (at_ i base) 0 with | .error e => decide (e.code = 0x10) | _ => false) = true ∧
      s.granPoison (padBase + 0x200) = false ∧ s.holdsPad 0 0 0x203 = true ∧
      (List.range 4).any (fun c => waitCond c 0 0) = true ∧ (List.range 4).any (fun c => !waitCond c 0 0) = true := by decide

/-- The window frame that device 3 lends. -/
def borrowed : State := { base with frames := base.frames.set 393217 (Fst.mk (3 * 2 ^ 22 + 1) 7 1 false false 0 Fst.borrowed) }

/-- WaitOnAddress: a wake, one whose word is poisoned, one in a held group; a batch; a deadline; and a poll of the host, of a
lender, and of a word that is gone. -/
theorem witness_WaitOnAddress_events :
    let w : WaitWord := ⟨padBase + 0x200, false, 0, 0, 0, false, 4, none, 0, none⟩
    let s := waits base (padBase + 0x200) 0 false none none
    let bad := { s with poison := [(padBase + 0x200) / 16] }
    let held := s.modTeam 1 fun m => { m with held := true }
    let due := base.setLane 0 { base.lane 0 with state := .asleep true, sleep := some (.due 5 []) }
    let late := waits base (padBase + 0x200) 9 false (some 0) none
    let poll := fun (s : State) a => ({ waits s a 9 true none none with now := 1024 } : State)
    let p := fun a => (⟨a, false, 0, 0, 9, true, 4, none, 0, none⟩ : WaitWord)
    (s.lane 0).sleep = some (.waita w) ∧ s.wakeDue 0 = true ∧ (s.waitRead 0 w).2 = some ⟨0, false, false⟩ ∧ s.held (groupOf 0) = false ∧
      bad.wakeDue 0 = true ∧ (bad.waitRead 0 w).2 = some ⟨0, false, true⟩ ∧
      held.wakeDue 0 = true ∧ held.held (groupOf 0) = true ∧ (held.waitRead 0 w).2 = some ⟨0, false, false⟩ ∧
      due.wakeDue 0 = true ∧ (due.lane 0).sleep = some (.due 5 []) ∧
      late.timeoutDue 0 = true ∧ (late.lastSeen 0 { w with cmp := 9, deadline := some 0 }).2 = some ⟨0, false, false⟩ ∧
      (poll hosted hostBase).pollDue 0 = true ∧
      (match (poll hosted hostBase).gateOf ((poll hosted hostBase).waitAcc 0 (p hostBase)) with | .host h => decide (h = 0) | _ => false) = true ∧
      (poll borrowed (frameAddr 393217)).pollDue 0 = true ∧
      (match (poll borrowed (frameAddr 393217)).gateOf ((poll borrowed (frameAddr 393217)).waitAcc 0 (p (frameAddr 393217))) with
        | .lender q _ => decide (q = 3) | _ => false) = true ∧
      (poll base hostBase).pollDue 0 = true ∧
      (match (poll base hostBase).gateOf ((poll base hostBase).waitAcc 0 (p hostBase)) with | .host _ => false | _ => true) = true := by
  decide

/-- WaitOnAddress: an update that flips a barrier on which a lane sleeps in BWAIT, or in BCLUST.wait, and one that does not. -/
theorem witness_WaitOnAddress_flip :
    let flips := fun (b : Quad) (n : Nat) => ({ Bar.ofQuad b with arrExp := n } : Bar).threadArrive
    let b := base.barGet (.team 1 3)
    let s := base.setLane 0 { base.lane 0 with state := .asleep false, sleep := some (.bwait 3 false) }
    let c := base.setLane 0 { base.lane 0 with state := .asleep false, sleep := some (.bclust 2 false) }
    (flips b 1).flip = true ∧ (flips b 1).ovf = false ∧ (flips b 2).flip = false ∧ (flips b 2).ovf = false ∧
      (flips b 1).bar.phase = true ∧ 0 ∈ (s.barTeams (.team 1 3)).flatMap s.teamLanes ∧ sleepsOn (s.lane 0) (.team 1 3) true = true ∧
      sleepsOn (s.lane 0) (.team 1 3) false = false ∧ 0 ∈ (c.barTeams (.cluster 0 0 2)).flatMap c.teamLanes ∧
      sleepsOn (c.lane 0) (.cluster 0 0 2) true = true ∧ borrowed.sliceRead (frameAddr 393217) 4 = none := by decide +kernel

/-- The uniform registers of the group. -/
def uregs (s : State) (r : List (Nat × Word)) : State :=
  s.setGroup 0 { s.group 0 with sregs := r.foldl (fun t p => t.set p.1 p.2) [] }

/-- The bits of the tensor: FMT 1 at byte 52, RANK 1 at byte 53, EXT0 4 at byte 16. -/
def tensorBits : BitVec 512 := 0#80 ++ 1#8 ++ 1#8 ++ 0#160 ++ 0#96 ++ 4#32 ++ page

/-- Tensor identifier 4 of the team. -/
def withTensor (s : State) : State := s.modTeam 1 fun m => { m with tns := m.tns.set 4 ⟨tensorBits, true, true⟩ }

/-- Registers 0 to 15 with an entry. -/
def entryRegs (b : BitVec 512) : List (Nat × Word) := (List.range 16).map fun k => (k, b.extractLsb' (32 * k) 32)

/-- The team's convergence register 3, signed by its one lane for MMA: a full round, whose row is live where `row` says. -/
def signed (s : State) (f : FmtX) (row : DWord := 1) : State :=
  let r : CvReg := ⟨.signing, 0, 1, 1, 0x1008, 1, some (f, false), true, 1, none⟩
  s.setCv 1 3 { r with args := some { s.mmaArgs 1 r f false 1 with mrow := row } }

/-- MatrixInstructions: an entry that TIDSET accepts and one without a tag; a weight load, an empty slot, a tree of 256 nodes and
one of 257, and a lane that may sign. -/
theorem witness_MatrixInstructions :
    let t : Instr := .tidset ⟨0, 0, 0, 0x14, 0, 0, 0⟩
    let w : FmtX := ⟨0, 0, 3, 0, 4, 4, 8, 0x30, 0x140⟩
    let r : FmtX := ⟨0, 0, 0, 0, 0, 4, 8, 0x30, 0⟩
    let x : FmtX := ⟨0, 0, 3, 0, 4, 0x10, 8, 0x30, 0x140⟩
    let s := withTensor (with8 base page)
    ready t (regs base (entryRegs tensorBits) [0]) = true ∧
      (regs base (entryRegs tensorBits) [0]).tidStatus 0 ⟨tensorBits, true, true⟩ = 0 ∧
      BitVec.ofNat 512 ((regs base (entryRegs tensorBits) [0]).regsNat 0 0 16) = tensorBits ∧
      base.tidStatus 0 ⟨tensorBits, false, true⟩ ≠ 0 ∧ ready (.tidget ⟨0, 0, 0, 0x10, 0, 0, 0⟩) s = true ∧
      ready (.wload w) s = true ∧
      (match wloadCheck w ((at_ (.wload w) s).counted (.wload w)) 0 with | .ok v => decide (v = (4, 0x10000, 512)) | _ => false) = true ∧
      ready (.winv ⟨0, 0, 15, 0, 0x140, 0, 0⟩) base = true ∧ 15 < base.slotCount 0 0 ∧
      ready (.mpredSet ⟨0, 0, 0, 0, 8, 0, 0⟩) base = true ∧ ready (.mpredGet ⟨0, 0, 8, 4, 0, 0, 0⟩) base = true ∧
      ready (.mquant ⟨0, 0, 0, 0x10, 8, 0, 0⟩) base = true ∧
      ready (.treeld r) (regs base [(0x30, 257)]) = true ∧ ready (.treeld r) (with8 base page [(0x30, 256)]) = true ∧
      (match (at_ (.treeld r) (with8 base page)).accPre 0 (page, true) accData Perm.ld 0x10000 256 1 false with
        | .ok a => decide (a = 0x10000) | _ => false) = true ∧
      ((at_ (.treeld r) (with8 base page)).counted (.treeld r)).rangePlace 0 0 0 0x10000 256 false = none ∧
      ready (.mma x) (cvAs base .armed 0 1) = true ∧ ready (.mmat x) (cvAs base .armed 0 1) = true ∧
      (at_ (.mma x) (cvAs base .armed 0 1)).setLanes = [0] ∧ ((cvAs base .armed 0 1).cv 1 3).state = .armed ∧
      ((cvAs base .armed 0 1).cv 1 3).set.getLsbD (posOf 0) = true := by decide

/-- A slot of core 0 in a state. -/
def slotAs (s : State) (n : Nat) (x : SlotState) : State := s.setSlot 0 0 n ⟨x, List.replicate 512 0, 1, 0, false, []⟩

/-- MatrixEvents: a round that is due and passes its checks, one whose slot is empty, an engine whose occupancy ends, a load
with its last piece, and a tree list with its last. -/
theorem witness_MatrixEvents :
    let f : FmtX := ⟨0, 0, 3, 0, 4, 0x10, 8, 0, 0x100⟩
    let s := signed (slotAs (withTensor base) 0 .ready) f
    let z := signed (slotAs (withTensor base) 0 .ready) f 0
    let e := signed (withTensor base) f
    let holds := fun (s : State) (live : List Nat) (ok : Bool) => s.roundDue 1 3 && (match (s.cv 1 3).args, (s.cv 1 3).mma with
      | some a, some (g, false) => decide (g = f) && decide (((List.range 64).filter fun i =>
          ((s.cv 1 3).signed.getLsbD i && (s.cv 1 3).guards.getLsbD i) && a.mrow.getLsbD i) = live) &&
        (s.mmaOk (s.team 1) 0 f a == ok)
      | _, _ => false)
    let w : WLoad := ⟨0, 0, 4, 1, none, (page, true), 0x10000, 16, [(bufKey 0x10000 16, ⟨0, false, false⟩)]⟩
    let l := { slotAs base 4 .loading with wloads := [(7, w)] }
    let x : TreePend := ⟨7, 0, 0, 0, 1, 4, 0x10000, 1, [(0, ⟨0xFF, false, false⟩)]⟩
    let bad := { x with buf := [(0, ⟨0xFF, false, true⟩)] }
    let t := base.modTeam 1 fun m => { m with treePend := some x }
    let r : CvReg := ⟨.signing, 0, 1, 1, 0x1008, 1, some (f, true), true, 1, none⟩
    let u := (slotAs (withTensor base) 0 .ready).modTeam 1 fun m => { m with treePend := some x }
    let later := (u.setCv 1 3 r).cvSettle 1 3
    holds s [0] true = true ∧ holds z [] true = true ∧ holds e [0] false = true ∧ l.wloads.get? 7 = some w ∧ l.loadReady 7 w = true ∧ l.laterLoad 7 w = false ∧ ((l.ctx 0).slot 0 4).state = .loading ∧
      (t.team 1).treePend = some x ∧ t.treeReady 1 = true ∧ (∀ v ∈ x.vals, v.poison = false) ∧
      (base.modTeam 1 fun m => { m with treePend := some bad }).treeReady 1 = true ∧ (∃ v ∈ bad.vals, v.poison = true) ∧ x.num = 7 ∧
      ((later.cv 1 3).args.map (·.treeBy)) = some (some 7) ∧ later.roundDue 1 3 = false ∧
      (match exec (.treeldComplete 1) later with | .next v => v.roundDue 1 3 | _ => false) = true ∧
      ([(0, 4, 5#32, false), (0, 5, 6#32, false)] : List (Nat × Nat × Word × Bool)).map (fun w => (w.1, w.2.1)) =
        [(0, 4), (0, 5)] := by decide

/-- ExactAccumulator: sums of TRI8 elements with and without a NaN, at the largest accumulator. -/
theorem witness_ExactAccumulator :
    residueSum false [(0x10, 0x10), (0x20, 0x30)] ≠ none ∧ residueSum false [(0x03, 0x10)] = none ∧
      triVal false 0x03 = none ∧ (2 ^ 63 - 1 : Nat) < 2 ^ 64 ∧ toSigned 64 (2 ^ 63 - 1) + 0 < 2 ^ 63 := by decide

/-- A CMD capability over a command block. -/
def blockCap : Quad := cmdCap

/-- A command of core 0 for the team's thread. -/
def command (st : CmdState) (body : CmdBody) (comp : Comp) : Cmd :=
  { core := 0, ctx := 0, team := 1, tid := 0, opcode := 0xB7, opc := 0, block := none, body := body, count := 16, comp := comp,
    state := st, code := 0, failAddr := 0, bytes := 0, engine := 0, moved := false, joined := false, buf := [] }

/-- The command of a block at the start of the page. -/
def blockCommand (st : CmdState) (joined : Bool) : Cmd :=
  { command st .block .none with opcode := 0xB6, block := some ((blockCap, true), 0x10000), joined := joined }

/-- A device with a command, and its status record when it is a block's. -/
def commanded (c : Cmd) : State :=
  { with8 base blockCap with cmds := [(9, c)], xrecs := if c.block.isSome then [⟨0, 0, 0x10000, 9⟩] else [] }

/-- CommandsIssued: XPUB of a tile, XSIG on a barrier of the team, XSTAT and XCANCEL with no command, one that has ended, one
that runs and one that has joined. -/
theorem witness_CommandsIssued_control :
    let p : Instr := .xpub ⟨0, 0, 0, 0, 0, 0, 8, 0x30, 0⟩
    let g : Instr := .xsig ⟨0, 0, 0, 0, 0, 0, 8, 0x30, 0⟩
    let barr := Cap.make Kind.barr 0 2 (padBase + 48) 16 (padBase + 48)
    ready p (with8 base padAt [(0x30, 16)]) = true ∧
      ((at_ p (with8 base padAt [(0x30, 16)])).counted p).padTile 0 (padAt, true) 16 Perm.ld = none ∧
      (Cap.ofQuad padAt).cur % 16 = 0 ∧ ready g (with8 base barr) = true ∧
      checkAccess (barr, true) 0 [Kind.barr] Perm.st (padBase + 48) 16 = none ∧
      (at_ g (with8 base barr)).barrierAt (padBase + 48) = some (1, 3) := by decide

/-- CommandsIssued: XSTAT and XCANCEL with no command, one that has ended, one that waits, one that runs and one that has joined. -/
theorem witness_CommandsIssued_block :
    let t : FmtX := ⟨0, 0, 0, 0, 0, 4, 8, 0, 0⟩
    ([blockCommand .done false, blockCommand .queued false, blockCommand .running false, blockCommand .running true] : List Cmd).all
      (fun c => ready (.xstat t) (commanded c) && ready (.xcancel t) (commanded c) &&
        decide ((commanded c).blockCmd 0 0 0x10000 = some (9, c)) &&
        decide ((commanded c).blockOwner 0x10000 = if c.unfinished then some (9, c) else none)) = true ∧
      (match blockCheck t 0 (with8 base blockCap) 0 with | .ok a => decide (a = 0x10000) | _ => false) = true ∧
      (with8 base blockCap).blockCmd 0 0 0x10000 = none ∧ (with8 base blockCap).blockOwner 0x10000 = none ∧
      (blockCommand .done false).unfinished = false ∧ (blockCommand .running true).unfinished = true := by
  decide

/-- The box of four elements in uniform registers 16 to 23. -/
def boxed (s : State) : State := uregs s [(21, 4)]

/-- CommandsIssued: each instruction that makes a command, with its operands within their limits. -/
theorem witness_CommandsIssued :
    let c : FmtX := ⟨0, 0, 3, 0, 4, 8, 0x110, 0, 0⟩
    let b : FmtX := ⟨0, 0, 3, 0, 4, 8, 0x110, 0x30, 0⟩
    let s := boxed (withTensor (with8 base padAt))
    let s2 := boxed (withTensor (regs base (quadRegs 2 padAt ++ quadRegs 12 page) [2, 12]))
    ready (.xcopy c) s = true ∧ (match boxOf c (at_ (.xcopy c) s) 0 with | .ok v => decide (imageSize v.1.fmt v.2 = 16) | _ => false) = true ∧
      ((at_ (.xcopy c) s).counted (.xcopy c)).padTile 0 (padAt, true) 16 Perm.st = none ∧
      (match compOf c 0 (at_ (.xcopy c) s) 0 with | .ok v => decide (v = .barrier 3) | _ => false) = true ∧
      ready (.xcopyp b) s2 = true ∧ checkAccess (page, true) 0 accData Perm.ld 0x10000 16 = none ∧
      ready (.xstore c) s = true ∧ 8 + 4 ≤ s.allocation 0 ∧
      ready (.xbulk ⟨0, 0, 3, 0, 0, 0x100, 8, 0x30, 0⟩) (with8 base remoteCap [(0x30, 256)]) = true ∧
      checkAccess (remoteCap, true) 0 [Kind.remote] Perm.st (3 * 2 ^ 54) 256 = none ∧
      ready (.xpull ⟨0, 0, 3, 0, 0, 8, 0, 0x30, 0⟩) (with8 base padAt [(0x30, 7)]) = true ∧
      ready (.xfill ⟨0, 0, 3, 0, 0, 0, 8, 0x30, 0x50⟩) (with8 base page [(0x30, 16)]) = true ∧
      checkAccess (page, true) 0 accData Perm.st 0x10000 16 = none ∧
      ready (.xrun ⟨0, 0, 0, 0, 0, 4, 8, 0, 0⟩) (with8 base blockCap) = true ∧
      ready (.xrun ⟨0, 0, 0, 0, 0, 4, 8, 0, 0⟩) (commanded (blockCommand .queued false)) = true ∧
      (∃ p ∈ (commanded (blockCommand .queued false)).cmds, p.2.unfinished = true ∧ p.2.block = some ((blockCap, true), 0x10000)) ∧
      (with8 base blockCap).cmds = [] ∧ (with8 base blockCap).pass = none ∧
      (match blockCheck ⟨0, 0, 0, 0, 0, 4, 8, 0, 0⟩ Perm.cmd (with8 base blockCap) 0 with | .ok _ => true | _ => false) = true := by
  decide

/-- Of two granules of which one may go on, it does. -/
theorem firstSome_turned_two {α β : Type} (g : α → Option β) (k : Nat) (a b : α) (x : β) (ha : g a = some x) (hb : g b = none) :
    firstSome g (turned k [a, b]) = some x := by
  rcases Nat.mod_two_eq_zero_or_one k with h | h <;> simp [turned, firstSome, ha, hb, h]

/-- Of two granules that may both go on, one does. -/
theorem firstSome_turned_either {α β : Type} (g : α → Option β) (k : Nat) (a b : α) (x y : β) (ha : g a = some x)
    (hb : g b = some y) : firstSome g (turned k [a, b]) = some x ∨ firstSome g (turned k [a, b]) = some y := by
  rcases Nat.mod_two_eq_zero_or_one k with h | h <;> simp [turned, firstSome, ha, hb, h]

/-- A piece that moves a granule of the page to another, and pieces that fill two granules, and one that fills a hole. -/
def copied : Move := ⟨some ⟨(page, true), 0x10000, 16, false⟩, ⟨0, false, false⟩, (page, true), 0x10040, 16, true⟩
def filled (a : Nat) : Move := ⟨none, ⟨7, false, false⟩, (page, true), a, 16, false⟩

/-- A block's command whose payload is on its way. -/
def moving (ms : List Move) (opc : Nat) : Cmd := { blockCommand .running false with opc := opc, body := .moving ms [] }

/-- CommandsRun: a payload that reads its source, one that writes the first of two granules, one that stops, and one that
writes its last granule. -/
theorem witness_CommandsRun_moves :
    (commanded (moving [copied] 1)).moveSome ((commanded (moving [copied] 1)).cmdEng 9 (moving [copied] 1)) [copied] =
        some (.got [(bufKey 0x10000 16, ⟨0, false, false⟩)]) ∧
      (let ms := [filled 0x10000, filled 0x10010]
       let s := commanded (moving ms 4)
       s.moveSome (s.cmdEng 9 (moving ms 4)) ms = some (.write [filled 0x10000]) ∨
         s.moveSome (s.cmdEng 9 (moving ms 4)) ms = some (.write [filled 0x10010])) ∧
      (let ms := [filled 0xD000000000]
       let s := commanded (moving ms 4)
       s.moveSome (s.cmdEng 9 (moving ms 4)) ms = some (.stop (0x21, 0xD000000000))) ∧
      (let ms := [filled 0x10000]
       let s := commanded (moving ms 4)
       s.moveSome (s.cmdEng 9 (moving ms 4)) ms = some (.write ms)) :=
  ⟨firstSome_turned_two _ _ (true, 0x400) (false, 0x1004) _ (by decide) (by decide),
   firstSome_turned_either _ _ (false, 0x1000) (false, 0x1001) _ _ (by decide) (by decide),
   by decide, by decide⟩

/-- Every request that waits at a port has left it. -/
def allSent (s : State) : State := { s with reqs := s.reqs.map fun p => (p.1, { p.2 with sent := some 0 }) }

/-- CommandsRun: commands that may end: with no completion and a status record or none, on a barrier, with a value word in the
pad, and in error. -/
theorem witness_CommandsRun_ends :
    let ends := fun (c : Cmd) => (commanded c).cmds.get? 9 = some c ∧ (commanded c).cmdEndDue 9 c = true
    let done := { blockCommand .running false with moved := true }
    let lone := { command .running .block .none with moved := true }
    let bar := { command .running .block (.barrier 3) with moved := true }
    let word := { command .running .block (.padWord 512 7) with moved := true }
    let fault := { command .faulted .block (.barrier 3) with moved := true }
    ends done ∧ done.comp = .none ∧ (∃ r ∈ (commanded done).xrecs, r.cmd = 9) ∧ ends lone ∧ lone.comp = .none ∧
      (∀ r ∈ (commanded lone).xrecs, r.cmd ≠ 9) ∧ ends bar ∧ bar.comp = .barrier 3 ∧ bar.state = .running ∧
      ends word ∧ word.comp = .padWord 512 7 ∧ word.state = .running ∧ ((commanded word).team 1).padAddr 512 % 4 = 0 ∧
      ends fault ∧ fault.comp = .barrier 3 ∧ fault.state = .faulted := by decide

/-- CommandsRun: a value word where a capability's cursor lies, before its request is at the port and when it has left. -/
theorem witness_CommandsRun_word :
    let c := { command .running .block (.word (page, true) 7) with moved := true }
    let r : Req := ⟨0, 0, false, 0x10000, 16, false, .word 9, some 0⟩
    let s := commanded c
    let sent := { s with reqs := [(10, r)] }
    s.cmds.get? 9 = some c ∧ s.cmdEndDue 9 c = true ∧
      (match s.compAt (s.cmdEng 9 c) c with | .ok (.cap q a v) => decide (q = (page, true) ∧ a = 0x10000 ∧ v = 7) | _ => false) = true ∧
      (s.wordReq 9 c (.cap (page, true) 0x10000 7)).isSome = true ∧ sent.cmdEndDue 9 c = true ∧
      (sent.wordReq 9 c (.cap (page, true) 0x10000 7)).isNone = true := by decide

/-- A command that runs as the operation `opc` of a block, with a body. -/
def operation (opc : Nat) (body : CmdBody) : Cmd := { blockCommand .running false with opc := opc, body := body }

/-- A DATA capability over the first page of the frame that device 3 lends. -/
def lentPage : Quad := Cap.make Kind.data 0 0xBCF (frameAddr 393217) 4096 (frameAddr 393217)

/-- The same with the frame borrowed. -/
def commandedFar (c : Cmd) : State :=
  { commanded c with frames := (commanded c).frames.set 393217 (Fst.mk (3 * 2 ^ 22 + 1) 7 1 false false 0 Fst.borrowed) }

/-- A block at the start of the page: FILL of 16 bytes of the page's second line. -/
def fillBlock : State :=
  let s := word (word (commanded (blockCommand .queued false)) 0x10000 16 (4 + 16 * 2 ^ 64)) 0x10060 16 7
  let s1 := word s 0x10020 16 (Cap.make Kind.data 0 0xBCF 0x10080 128 0x10080).toNat
  { s1 with tags := [0x1002] }

/-- CommandsRun: a queued command without a block, a queued block whose requests are still to be made, one whose block lies with a
lender, and one whose block has been asked for and lies there; its operation is parsed. -/
theorem witness_CommandsRun_starts :
    let fill := command .queued (.fill (page, true) 16 0) .none
    let q := blockCommand .queued false
    let farCap : Quad := Cap.make Kind.cmd 0 0x8CF (frameAddr 393217) 128 (frameAddr 393217)
    let far := { q with block := some ((farCap, true), frameAddr 393217) }
    let sent := fun (s : State) (c : Cmd) => allSent (s.enterAll (s.newReqs (s.cmdEng 9 c) false (pieceTouches c.blockPieces)))
    (commanded fill).headCmd 0 = some (9, fill) ∧ fill.block = none ∧ fill.body ≠ .block ∧
      (commanded q).headCmd 0 = some (9, q) ∧ (commanded q).startDue 0 = true ∧
      (match (commanded q).startStep 9 q with | some (.enter _) => true | _ => false) = true ∧
      (commandedFar far).headCmd 0 = some (9, far) ∧
      (match (sent (commandedFar far) far).startStep 9 far with | some (.ask _) => true | _ => false) = true ∧
      (sent fillBlock q).headCmd 0 = some (9, q) ∧ (sent fillBlock q).startStep 9 q = some .go ∧ q.body = .block ∧
      (fillBlock.gather (fillBlock.cmdEng 9 q) q.blockPieces).bad = none ∧
      (match (fillBlock.parseBlock { q with state := .running, engine := 0 } (fillBlock.blockGrans 9 q)).1 with
        | .ok (.fill _ n v) => decide (n = 16 ∧ v = 7) | _ => false) = true := by decide

/-- The box of four elements. -/
def box4 : BitVec 256 := BitVec.ofNat 256 (4 * 2 ^ 160)

/-- CommandsRun: an operation that stops, one whose requests are still to be made, one that asks a lender for its block table, one
that begins to move, and one that moves. -/
theorem witness_CommandsRun_steps :
    let e : TnEntry := ⟨tensorBits, true, true⟩
    let table := fun (q : Quad) => operation 3 (.tcopy e box4 (padAt, true) false (some (q, true)))
    let sent := fun (s : State) (c : Cmd) => match s.cmdStep 9 c with | some (.enter rs) => allSent (s.enterAll rs) | _ => s
    let fill := operation 4 (.fill (page, true) 16 7)
    let bad := operation 4 (.fill (page, false) 16 7)
    let go := moving [copied] 1
    (match (commanded bad).cmdStep 9 bad with | some (.stop b) => decide (b.1 = 0x10) | _ => false) = true ∧
      (match (commanded (table page)).cmdStep 9 (table page) with | some (.enter _) => true | _ => false) = true ∧
      (match (sent (commandedFar (table lentPage)) (table lentPage)).cmdStep 9 (table lentPage) with
        | some (.ask _) => true | _ => false) = true ∧
      (match (commanded fill).cmdStep 9 fill with | some (.start ms) => decide (ms.length = 1) | _ => false) = true ∧
      (commanded fill).cmds.get? 9 = some fill ∧ fill.opcode = 0xB6 ∧
      go.moved = false ∧ go.state = .running ∧ (commanded go).readsOwed 9 = false ∧
      (∃ m ∈ [filled 0x10000, filled 0x10010], m ∉ [filled 0x10000]) ∧ go.body = .moving [copied] [] := by decide

/-- CommandsRun: a pull whose publication stands. -/
theorem witness_CommandsRun_pull :
    let pull := command .running (.pull 0 1 (padAt, true) none) (.barrier 3)
    let s := (commanded pull).modCtx 0 fun x => { x with pubs := [(1, ⟨0x200, 16, true, 0x001⟩)] }
    s.cmds.get? 9 = some pull ∧ (s.barGet (.cluster 0 0 0)).getLsbD 0 ≠ (s.pubOf pull 0 1).phase := by decide

/-- The header of a BROADCAST of four f32 from rank 0 of communicator 5. -/
def castHdr : Quad := BitVec.ofNat 128 (0x13 + 1 * 2 ^ 16 + 1 * 2 ^ 24 + 4 * 2 ^ 64 + 5 * 2 ^ 116)

/-- A BROADCAST that has read this or that, before it joins or after. -/
def casting (src : Quad) (joined : Bool) (buf : Tbl AccVal) (data : List (Byte × Bool)) : Cmd :=
  { operation 0x13 (.coll castHdr (src, true) (page, true) 0 2 data []) with joined := joined, buf := buf }

/-- Communicator 5 of this device's context and one of device 1. -/
def inComm (s : State) (ranks : List (Nat × Nat)) : State := { s with comms := [(5, ⟨ranks, 0, false⟩)] }

/-- CommandsRun: a collective without its communicator, one whose requests are still to be made, one whose source lies with a
lender, one that reads its own, and one that joins ranks of which another device has one. -/
theorem witness_CommandsRun_joins :
    let ranks := [(0, 0), (1, 0)]
    let c := casting page false [] []
    let far := casting lentPage false [] []
    let full := casting page false [(bufKey 0x10000 16, ⟨7, false, false⟩)] []
    let sent := fun (s : State) (c : Cmd) => match s.joinStep 9 c with | some (.enter rs) => allSent (s.enterAll rs) | _ => s
    (match (commanded c).joinStep 9 c with | some (.stop _) => true | _ => false) = true ∧
      (match (inComm (commanded c) ranks).joinStep 9 c with | some (.enter _) => true | _ => false) = true ∧
      (match (sent (inComm (commandedFar far) ranks) far).joinStep 9 far with | some (.ask _) => true | _ => false) = true ∧
      (match (sent (inComm (commanded c) ranks) c).joinStep 9 c with | some (.got _) => true | _ => false) = true ∧
      (match (inComm (commanded full) ranks).joinStep 9 full with | some (.join d _) => decide (d.length = 16) | _ => false) = true ∧
      (inComm (commanded full) ranks).commOf full castHdr = some (⟨ranks, 0, false⟩, 0) ∧ full.opcode = 0xB6 := by decide

/-- CommandsRun: a join of a communicator with ranks of this device, of one in this parish and of one in another. -/
theorem witness_CommandsRun_sends :
    let ranks := [(0, 0), (1, 0), (1024, 0)]
    let full := casting page false [(bufKey 0x10000 16, ⟨7, false, false⟩)] []
    let s := inComm (commanded full) ranks
    (match s.joinStep 9 full with | some (.join d _) => decide (d.length = 16) | _ => false) = true ∧
      s.commOf full castHdr = some (⟨ranks, 0, false⟩, 0) ∧ s.farParts ⟨ranks, 0, false⟩ 5 2 = [] ∧ s.parish = 0 := by decide

/-- CommandsRun: a collective runs when its ranks are there, one of them with the event. -/
theorem witness_CommandsRun_collective :
    let c := casting page true [] (List.replicate 16 (0, false))
    let ranks := [(0, 0), (1, 0)]
    let part : CollPart := ⟨1, 0x13, 0, 1, 0, 1, 4, 0, [], []⟩
    let s := { inComm (commanded c) ranks with parts := [⟨5, 2, part⟩] }
    let mine := s.joinedRanks ⟨ranks, 0, false⟩ 5 2
    let far := s.farParts ⟨ranks, 0, false⟩ 5 2
    let xs := mine.map Prod.snd ++ far.map CollPart.toIn
    s.cmds.get? 9 = some c ∧ Hdr.comm castHdr = 5 ∧ (s.runColl 5 2).isSome = true ∧ mine.map Prod.fst = [9] ∧ far = [part] ∧
      s.comms.get? 5 = some ⟨ranks, 0, false⟩ ∧ ((inComm (commanded c) ranks).runColl 5 2).isNone = true ∧
      (∀ r < 2, ∃ x ∈ xs, x.rank = r) ∧ (∀ x ∈ xs, ∀ y ∈ xs, x.params = y.params) ∧ collOk castHdr 2 = true := by decide

/-- CollectiveResults: two ranks in order, a root among them, and a count that the ranks divide. -/
theorem witness_CollectiveResults :
    let xs : List RankIn := [⟨0, [], [(1, false)], []⟩, ⟨1, [], [(2, false)], []⟩]
    xs.Pairwise (fun a b => a.rank < b.rank) ∧ Hdr.opc 0x12 = 0x12 ∧ Hdr.opc 0x13 = 0x13 ∧ Hdr.root 0x13 = 0 ∧
      (∃ x ∈ xs, x.rank = Hdr.root 0x13) ∧ Hdr.opc (BitVec.ofNat 128 (0x11 + 4 * 2 ^ 64)) = 0x11 ∧
      writesScales (BitVec.ofNat 128 (0x11 + 4 * 2 ^ 64)) = false ∧ 2 ∣ Hdr.count (BitVec.ofNat 128 (0x11 + 4 * 2 ^ 64)) ∧
      Hdr.opc (BitVec.ofNat 128 (0x10 + 4 * 2 ^ 64)) = 0x10 := by decide

/-- A request of device 3 through entry 1 of the grant table. -/
def fabReq (op : Nat) (data : List Byte) (status : Byte := 0) : FabMsg :=
  { src := 3, dst := 0, grant := 1, colour := 1, op := op, sub := 0, path := 0, ofl := false, counts := [0, 0, 0, 0], data := data,
    len := 4, ty := 4, ord := 0, scope := 0, aop := 0, rnum := 1, pseq := 1, addr := 0x200000, status := status, tags := [],
    poison := [], bar := 0, seen := 0 }

/-- Frame 1 is OWNED with colour 1, and entry 1 grants it to device 3. -/
def granted : State :=
  { base with
    frames := base.frames.set 1 (Fst.mk 0 0 0 false false 1 Fst.owned)
    grants := [(1, 0x400000#64 ++ 0x200000#64 ++ 1#12 ++ 0x203#12 ++ 3#10 ++ 0#93 ++ 1#1)] }

/-- RemoteMessages: a read and a write that the grant admits and the gate lets through, one without a grant, one seen before, one for
another device, one with a reserved code, and a held one whose counts have been reached. -/
theorem witness_RemoteMessages :
    let held : State := { granted with heldReqs := [(4, ⟨{ fabReq 1 [1, 2, 3, 4] with ofl := true }, false⟩)] }
    let again : State := { granted with kept := [(3, 1, fabReq 8 [])] }
    granted.remoteTo (fabReq 0 []) = .gate (.go 0x200000 false) ∧ granted.remoteTo (fabReq 1 [1, 2, 3, 4]) = .gate (.go 0x200000 false) ∧
      granted.kept = [] ∧ granted.heldReqs = [] ∧ granted.parish = 0 ∧ base.grantAdmits (fabReq 1 [1, 2, 3, 4]) = false ∧
      (0x200000 % 16 + (fabReq 1 [1, 2, 3, 4]).len ≤ 16) ∧ (fabReq 1 [1, 2, 3, 4]).data.length = (fabReq 1 [1, 2, 3, 4]).len ∧
      again.kept.find? (fun k => decide (k.1 = 3 ∧ k.2.1 = 1)) = some (3, 1, fabReq 8 []) ∧
      held.heldReqs.get? 4 = some ⟨{ fabReq 1 [1, 2, 3, 4] with ofl := true }, false⟩ ∧
      held.heldDue 4 ⟨{ fabReq 1 [1, 2, 3, 4] with ofl := true }, false⟩ = true ∧ (fabReq 9 []).op = 9 ∧ granted.parish ≠ 5 := by decide

/-- RemoteMessages: a store of two granules, an atomic whose value is written and one whose value is not, a bulk packet into a pad,
and the answer to a load. -/
theorem witness_RemoteMessages_more :
    let wide := { fabReq 1 (List.replicate 32 1) with len := 32 }
    let rmw := { fabReq 2 [1, 0, 0, 0] with aop := 0 }
    let cas := fabReq 3 [1, 0, 0, 0, 9, 0, 0, 0]
    let pads : State := { colour granted 1 with grants := [(1, BitVec.ofNat 64 (padBase + 0x10000) ++ BitVec.ofNat 64 padBase ++ 1#12 ++ 0x203#12 ++ 3#10 ++ 0#93 ++ 1#1)] }
    let bulk := { fabReq 4 (List.replicate 16 1) with addr := BitVec.ofNat 54 (padBase + 0x200), len := 16 }
    let load := { waiting (.remote 3 1) 0x10000 0 0 .load with peer := some (3, 1) }
    let waits : State := { granted with outst := [(1, load)] }
    granted.remoteTo wide = .gate (.go 0x200000 false) ∧ 16 < wide.len ∧ wide.data.length = wide.len ∧ granted.sync = [] ∧ granted.notices = [] ∧
      granted.remoteTo rmw = .gate (.go 0x200000 false) ∧ granted.remoteTo cas = .gate (.go 0x200000 false) ∧
      rmw.op = 2 ∧ cas.op = 3 ∧ rmw.ord = 0 ∧ cas.ord = 0 ∧ 0x200000 % 16 + min 16 rmw.len ≤ 16 ∧
      pads.grantAdmits bulk = true ∧ pads.bulkTeam bulk = some 1 ∧ bulk.op = 4 ∧
      waits.outst.find? (fun p => p.2.place = .remote 3 1) = some (1, load) ∧ load.team ≠ 0 ∧ load.batch ≠ 0 ∧ load.acquires = false ∧
      waits.findThread 1 0 = some 0 ∧ (waits.lane 0).state ≠ .exited ∧ waits.cmds.get? 1 = none ∧ (fabReq 5 [7, 0, 0, 0]).status = 0 := by
  decide

/-- RemoteMessages: a launch message that is new and one seen before; a store of a lease to a lent frame; a part in RECOVERY. -/
theorem witness_RemoteMessages_links :
    let m := { fabReq 7 [] with body := .launch .go 0 ⟨0, 1⟩ }
    let lent : State := { base with frames := base.frames.set 1 (Fst.mk (3 * 2 ^ 22) 7 0 false false 1 Fst.lent) }
    let w := { fabReq 6 (List.replicate 16 1) with sub := 1, grant := 7, len := 16, ty := 6, tags := [true] }
    let seen : State := { base with kept := [(3, 1, m)] }
    m.dst = base.parish ∧ m.rsvd = 0 ∧ m.op = 7 ∧ base.kept = [] ∧ (∃ k ∈ seen.kept, k.1 = m.src ∧ k.2.1 = m.rnum) ∧
      lent.leaseTo w = .gate (.go 0x200000 false) ∧ lent.heldReqs = [] ∧ w.ofl = false ∧ w.ord = 0 ∧ w.data.length = 16 ∧
      0x200000 % 16 = 0 ∧ base.deaf = false ∧ ({ base with bootstat := 0x81 } : State).deaf = true := by decide

/-- The context's QUEUE capability for queue 0, in quad register 2. -/
def queueCap : Quad := Cap.make Kind.queue 0 3 0 16 0

/-- Queue 0 in a state, with messages. -/
def queued (depth : Nat) (st : QState) (msgs : List (List (Quad × Bool))) : State :=
  { with8 base queueCap with queues := [(0, ⟨0, depth, st, msgs, [], []⟩)] }

/-- A request to the reeve that waits for its answer. -/
def asking (a : Ask) : Job := ⟨⟨0, 0, 1, 4, 0x30, [], 0, false⟩, a, [], none⟩

/-- QueuesAndServices: no queue, an open one with room, a full one, a closed one, one with messages, an event queue with and
without a record, a request to the reeve, and one that can be answered. -/
theorem witness_QueuesAndServices :
    let p : FmtT := ⟨0, 0, 0, 4, 8, 0x30, 0⟩
    let w : FmtT := ⟨0, 0, 1, 4, 8, 0x30, 0⟩
    let e : FmtT := ⟨0, 0, 0, 0x10, 0, 0x30, 0⟩
    let m : List (Quad × Bool) := [(1, false), (page, true)]
    let states := [with8 base queueCap, queued 2 .opened [], queued 2 .opened [m, m], queued 2 .closed [], queued 2 .closed [m]]
    let recorded := base.modCtx 0 fun x => { x with evq := ⟨[5], 1, 0⟩ }
    let j := asking (.svc 0x01 [0, 0, 0, 0] (0, false))
    let g : State := { base with jobs := [(5, j)] }
    states.all (fun s => ready (.qput p) s && ready (.qget p) s && ready (.qput w) s && ready (.qget w) s &&
      ready (.qstat ⟨0, 0, 0, 0x10, 8, 0, 0⟩) s) = true ∧
      checkAccess (queueCap, true) 0 [Kind.queue] Perm.st 0 0 = none ∧ checkAccess (queueCap, true) 0 [Kind.queue] Perm.ld 0 0 = none ∧
      checkAccess (queueCap, true) 0 [Kind.queue] 0 0 0 = none ∧ (Cap.ofQuad queueCap).cur = 0 ∧
      (queued 2 .opened [m]).queues.get? 0 = some ⟨0, 2, .opened, [m], [], []⟩ ∧ (with8 base queueCap).queues.get? 0 = none ∧
      ready (.evget e) base = true ∧ ready (.evget e) recorded = true ∧ base.fwq.recs = [] ∧
      (recorded.ctx 0).evq.recs = [5] ∧
      ([.svcWalltime ⟨0, 0, 0x10, 8, 0⟩, .svcQcreate ⟨0, 0x10, 0x10, 8, 0⟩, .svcQclose ⟨0, 0x11, 0x10, 8, 0⟩,
        .svcCommcreate ⟨0, 0x20, 0x10, 8, 0⟩, .svcCommend ⟨0, 0x21, 0x10, 8, 0⟩, .svcBarrmint ⟨0, 0x30, 0x10, 8, 0⟩,
        .svcGrantreq ⟨0, 0x40, 0x10, 8, 0⟩] : List Instr).all (fun i => ready i base && (Sys2Proof.Claims.svcOf i).isSome) = true ∧
      g.jobs.get? 5 = some j ∧ g.answerDue 5 j = true ∧
      (match ({ g with jobs := [] } : State).serve 5 j 0x01 [0, 0, 0, 0] (0, false) with | .done _ _ => true | _ => false) = true := by
  decide

/-- QueuesAndServices: a queue on which another group's QGET waits, one on which a QPUT waits, and the sleeping lane of either. -/
theorem witness_QueuesAndServices_waiting :
    let p : Instr := .qput ⟨0, 0, 0, 4, 8, 0x30, 0⟩
    let g : Instr := .qget ⟨0, 0, 0, 4, 8, 0x30, 0⟩
    let w : Waiter := ⟨1, 64, 1, 4, 0x30, [(1, false)], 0, true⟩
    let x : MsgQueue := ⟨0, 2, .opened, [], [], [w]⟩
    let y : MsgQueue := ⟨0, 2, .opened, [[(7, false)], [(8, false)]], [w], []⟩
    let at_ := fun (q : MsgQueue) =>
      ({ with8 base queueCap with queues := [(0, q)] } : State).setLane 64 { base.lane 0 with state := .asleep false, sleep := some (.queue 0) }
    ready p (at_ x) = true ∧ x.state = .opened ∧ x.msgs.length < x.depth ∧ x.cons = [w] ∧ (at_ x).queues.get? 0 = some x ∧
      ready g (at_ y) = true ∧ y.state ≠ .free ∧ y.msgs = [[(7, false)], [(8, false)]] ∧ y.prod = [w] ∧ (at_ y).queues.get? 0 = some y ∧
      w.mask.getLsbD 0 = true ∧ ((at_ x).lane (w.gkey * 64 + 0)).state = .asleep false ∧ (at_ x).pass = none := by decide

/-- The group's kernel has an extended block of 8 registers; the group holds it or does not. -/
def extended (on : Bool) : State :=
  let s : State := { base with vers := base.vers.modify 1 fun v => { v with desc := { v.desc with base := 64, ext := 8, roles := [(1, 64)] } } }
  (s.modTeam 1 fun m => { m with roles := [(1, 64)] }).modGroup 0 fun g => { g with ext := on }

/-- RegisterBlocks: a kernel without an extended block, a group with it and without it, one that can have it and one that cannot, a
waiting lane set whose turn has come, and a group with and without a spill lease. -/
theorem witness_RegisterBlocks :
    let w : Waiter := ⟨0, 0, 1, 4, 0, [], 0, false⟩
    let q := (extended false).modCtx 0 fun x => { x with regq := [(0, [w])] }
    let leased := base.modGroup 0 fun g => { g with leaseOn := true }
    ([base, extended true, extended false, q].all fun s => ready (.regacqWait ⟨0, 0, 4, 0, 0⟩) s && ready (.regacqTry ⟨0, 1, 4, 0, 0⟩) s) = true ∧
      base.extRegs 0 = 0 ∧ (extended true).extRegs 0 = 8 ∧ ((extended true).group 0).ext = true ∧ ((extended false).group 0).ext = false ∧
      (extended false).regq 0 0 = [] ∧ 8 / 8 ≤ (extended false).octsFree 0 0 ∧ q.regq 0 0 = [w] ∧ q.regacqReady 0 0 = true ∧
      ready (.regrel ⟨0, 0, 4, 0, 0⟩) (extended true) = true ∧ ready (.regrel ⟨0, 0, 4, 0, 0⟩) base = true ∧
      ready (.regrelLease ⟨0, 1, 4, 0, 0⟩) leased = true ∧ ready (.regrelLease ⟨0, 1, 4, 0, 0⟩) base = true ∧
      (leased.group 0).leaseOn = true ∧ (base.group 0).leaseOn = false ∧
      ready (.spillLease ⟨0, 6, 1, 0, 0, 0, 0, 0, 0x10, 0x140, 0x140, 0⟩) base = true ∧
      ready (.fillLease ⟨0, 6, 1, 0, 0, 0, 0, 0, 0x10, 0x140, 0x140, 0⟩) leased = true ∧
      ready (.handoff ⟨0, 0, 0, 0, 0⟩) base = true ∧
      (((at_ (.handoff ⟨0, 0, 0, 0, 0⟩) base).acting (.handoff ⟨0, 0, 0, 0, 0⟩)).map fun lk => (base.lane lk).tid).Nodup := by decide

/-- RegisterBlocks: HANDOFF with a poisoned register of the inherit range; a group whose lease lies in its backing area, and one whose
bank's contents go there. -/
theorem witness_RegisterBlocks_backing :
    let i : Instr := .handoff ⟨0, 0, 0, 0, 0⟩
    let bad := base.setLane 0 { base.lane 0 with poison := [2] }
    let area := base.modCtx 0 fun x => { x with backing := 0x400000, backs := [0] }
    let lent := area.modGroup 0 fun g => { g with leaseOn := true, bank := some (0, 1), lease := [(0, 7)], leaseTags := [0] }
    let u := lent.modGroup 0 fun g => { g with bank := none }
    ready i bad = true ∧ (at_ i bad).acting i = [0] ∧ ((at_ i bad).handSnap 0).poison.head? = some 2 ∧
      ((at_ i base).handSnap 0).poison = [] ∧ lent.memOk ∧ (lent.group 0).bank.isSome = true ∧ (lent.group 0).leasePoison = [] ∧
      u.leaseArea 0 = some 0x400000 ∧ 0x400000 % 16 = 0 ∧ (∀ k ∈ (lent.group 0).lease, k.1 < 8192) ∧
      (∀ k ∈ (lent.group 0).leaseTags, k < 8192) ∧
      ready (.spillLease ⟨0, 6, 1, 0, 0, 0, 0, 0, 0x10, 0x140, 0x140, 0⟩) area = true ∧ (area.ctx (area.ctxOf 0)).backing % 16 = 0 ∧
      area.memOk := by
  refine ⟨?_, ?_, ?_, ?_, ⟨?_, ?_⟩, ?_, ?_, ?_, ?_, ?_, ?_, ?_, ?_, ⟨?_, ?_⟩⟩ <;> decide +kernel

/-- A blob gives back what was sealed in it. -/
theorem open_sealed (key : BitVec 256) (h : DWord) (c : Quad) :
    (sealBlob key h c).extractLsb' 192 64 = h ∧ openBlob key (sealBlob key h c) = some c := by
  have hk : (natBytes 32 key.toNat).length = 32 := natBytes_length 32 _
  have ex : ∀ (a : DWord) (b : DWord) (d : Quad), (a ++ b ++ d : BitVec 256).extractLsb' 192 64 = a ∧
      (a ++ b ++ d : BitVec 256).extractLsb' 128 64 = b ∧ (a ++ b ++ d : BitVec 256).extractLsb' 0 128 = d := fun a b d => by
    refine ⟨?_, ?_, ?_⟩ <;> ext k hk <;> simp only [BitVec.getElem_extractLsb', BitVec.getLsbD_append] <;>
      split_ifs <;> (try omega) <;> rw [← BitVec.getLsbD_eq_getElem] <;> exact congrArg _ (by omega)
  have hm : ∀ m : List Byte, m.length = 8 → natBytes 8 (BitVec.ofNat 64 (bytesNat m)).toNat = m := fun m e => by
    have := bytesNat_lt m
    rw [e] at this
    rw [BitVec.toNat_ofNat, Nat.mod_eq_of_lt (by simpa using this), ← e, natBytes_bytesNat]
  have hc : ∀ m : List Byte, m.length = 16 → natBytes 16 (BitVec.ofNat 128 (bytesNat m)).toNat = m := fun m e => by
    have := bytesNat_lt m
    rw [e] at this
    rw [BitVec.toNat_ofNat, Nat.mod_eq_of_lt (by simpa using this), ← e, natBytes_bytesNat]
  have lm : ((sivTag (natBytes 32 key.toNat) (blobNonce h) (natBytes 16 c.toNat)).take 8).length = 8 := by
    rw [List.length_take, sivTag_length _ _ _ hk]; rfl
  have ls : ∀ m, (sivStream (natBytes 32 key.toNat) (blobNonce h) m).length = 16 := fun m => sivStream_length _ _ _ hk
  have hp : BitVec.ofNat 128 (bytesNat (natBytes 16 c.toNat)) = c := by
    rw [bytesNat_natBytes _ _ (by have := c.isLt; omega), BitVec.ofNat_toNat, BitVec.setWidth_eq]
  have lp : (natBytes 16 c.toNat).length = 16 := natBytes_length 16 _
  unfold sealBlob openBlob
  generalize natBytes 32 key.toNat = k at *
  generalize natBytes 16 c.toNat = p at *
  generalize hmac : (sivTag k (blobNonce h) p).take 8 = mac at *
  have l2 := ls mac
  generalize hs : sivStream k (blobNonce h) mac = st at *
  obtain ⟨e1, e2, e3⟩ := ex h (BitVec.ofNat 64 (bytesNat mac)) (BitVec.ofNat 128 (bytesNat (xorBytes p st)))
  have lx : (xorBytes p st).length = 16 := by rw [xorBytes_length, lp, l2]; rfl
  simp only [e1, e2, e3, hm mac lm, hc _ lx, hs, hmac]
  rw [xorBytes_xorBytes _ _ (by rw [lp, l2]), hmac, if_pos rfl, hp]
  exact ⟨trivial, rfl⟩

/-- The kernel capability of a descriptor at byte 128 of the image. -/
def kernelCap : Quad := Cap.make Kind.code 0 (Perm.exec ||| Perm.ld) 0x1000 4096 0x1080

/-- The version takes 64 registers a lane, and a record names it by the descriptor. -/
def launchable : State :=
  { base with
    vers := base.vers.modify 1 fun v => { v with desc := { v.desc with base := 64, roles := [(1, 64)] } }
    records := [(0, ⟨0x1080, 1⟩)] }

/-- A host launch message up to its tag: a blob, a block of `nx` teams, and zeros: context 0, no arguments, cookie 0. -/
def hostHead (blob : BitVec 256) (nx : Nat) : List Byte :=
  natBytes 32 blob.toNat ++ (natBytes 4 nx ++ natBytes 4 1 ++ natBytes 4 1 ++ natBytes 4 0 ++ natBytes 4 1 ++ List.replicate 20 0)

/-- The message with its tag. -/
def hostMsg (blob : BitVec 256) (nx : Nat) : List Byte :=
  let b := hostHead blob nx
  b ++ gcmTag (Config.launchKey 0 0) ((b.drop 52).take 4 ++ (b.drop 64).take 8) b

theorem hostHead_length (blob : BitVec 256) (nx : Nat) : (hostHead blob nx).length = 72 := by simp [hostHead]

theorem hostTag_hostMsg (blob : BitVec 256) (nx : Nat) : hostTag 0 0 (hostMsg blob nx) 0 = (hostMsg blob nx).drop 72 := by
  have h := hostHead_length blob nx
  simp only [hostTag, hostMsg]
  rw [List.drop_left' h, List.take_left' h]
  rw [List.drop_append_of_le_length (by omega), List.take_append_of_le_length (by simp [h]),
    List.drop_append_of_le_length (by omega), List.take_append_of_le_length (by simp [h])]

/-- The blob of a kernel capability, sealed for this context. -/
def hostBlob : BitVec 256 := sealBlob (Config.launchKey 0 0) 0 kernelCap

/-- The device finds the kernel that the blob names. -/
theorem hostKernel_hostMsg (nx : Nat) : launchable.hostKernel 0 (hostMsg hostBlob nx) = some (0, ⟨0x1080, 1⟩) := by
  obtain ⟨h1, h2⟩ := open_sealed (Config.launchKey 0 0) 0 kernelCap
  have e : BitVec.ofNat 256 (leAt (hostMsg hostBlob nx) 0 32) = hostBlob := by
    have : ((hostMsg hostBlob nx).drop 0).take 32 = natBytes 32 hostBlob.toNat := by
      rw [List.drop_zero, hostMsg, hostHead, List.append_assoc]
      exact List.take_left' (natBytes_length 32 _)
    rw [leAt, this, bytesNat_natBytes _ _ (by have := hostBlob.isLt; omega), BitVec.ofNat_toNat, BitVec.setWidth_eq]
  have x : ∀ o n, o + n ≤ 64 → hostBlob.extractLsb' (192 + o) n = 0 := fun o n ho => by
    have : hostBlob.extractLsb' (192 + o) n = (hostBlob.extractLsb' 192 64).extractLsb' o n := by
      ext k hk
      simp only [BitVec.getElem_extractLsb', BitVec.getLsbD_extractLsb']
      rw [decide_eq_true (by omega), Bool.true_and, Nat.add_assoc]
    rw [this, hostBlob, h1]
    simp
  unfold State.hostKernel
  simp only [e]
  rw [x 44 10 (by decide), x 0 20 (by decide), x 32 12 (by decide), x 20 12 (by decide)]
  rw [show (launchable.ctx 0).keyId = 0 from rfl, hostBlob, h2]
  decide

/-- Launch 2 of context 0, in a state, for launches on `ndev` devices. -/
def launch2 (s : State) (st : LaunchState) (ndev : Nat) (own : Bool) : State :=
  { s with launches := s.launches.set 2 { Launch.empty with
      gen := 1, ver := 1, nx := 2, ny := 1, nz := 1, threads := 1, comm := 0, ndev := ndev, multi := 1 < ndev, own := own,
      issuer := if own then 0 else 1, state := st, hi := 2 } }

/-- A communicator of this device and devices 1 and 2. -/
def paired (s : State) : State := { s with comms := [(0, ⟨[(0, 0), (1, 0), (2, 0)], 0, false⟩)] }

/-- An entry of a launch on two devices, as rank 0 receives it. -/
def launchEntry : MultiEntry := ⟨1, 0, 7, 0, 0, 2, 0, [1, 1, 1, 0x410, 1], []⟩

/-- LaunchesRun: LAUNCH with a block that is refused and one that is queued; a team to place, an age, a team to retire; messages
of a launch on two devices; the host's message; and what firmware asks. -/
theorem witness_LaunchesRun :
    let f : FmtT := ⟨0, 0, 0, 0x140, 8, 0x140, 0x108⟩
    let s := uregs (with8 launchable kernelCap) [(8, 1), (9, 1), (10, 1), (12, 1)]
    let r : Request := ⟨0, 0, some (0, ⟨0x1080, 1⟩), (0, false), none, Block.ofWords [1, 1, 1, 0, 1], 0⟩
    let place := (launch2 launchable .queued 1 true).modCtx 0 fun x => { x with lq := [2] }
    let quiet := laneAs launchable .exited
    let multi := launch2 launchable .queued 2 true
    let go := launch2 launchable .armed 2 false
    let old : State := { multi with now := 16777216 }
    ready (.launch f) s = true ∧ ready (.launch f) (with8 launchable kernelCap) = true ∧
      (match launchCheck f s 0 with | .ok a => decide (a = 0x1080) | _ => false) = true ∧
      s.recordAt 0x1080 = some (0, ⟨0x1080, 1⟩) ∧ s.launchStatus r = 0 ∧ (s.versionOf r.kernel).isSome = true ∧
      s.launchStatus { r with block := Block.ofWords [0, 1, 1, 0, 1] } = 2 ∧
      place.placeDue 0 = true ∧ (place.ctx 0).lq = [2] ∧ (place.launch 2).next < (place.launch 2).hi ∧
      place.nextCore (place.launch 2) = some 1 ∧ (place.vers.get? 1).isSome = true ∧
      ({ place with now := 1048576 } : State).ageDue 2 = true ∧ quiet.retireDue 1 = true ∧
      (base.ctx 1).state = .free ∧ (base.ctx 0).state = .active ∧ launchEntry.ctx = 0 ∧
      launchable.launchStatus ⟨0, 0, some (0, ⟨0x1080, 1⟩), (0, false), none, { Block.ofWords launchEntry.block with multi := false }, 0⟩ = 0 ∧
      go.multiNamed 1 0 0 1 false = [2] ∧ (go.launch 2).state = .armed ∧ old.armedLate 2 = true ∧ ((paired multi).otherRanks ((paired multi).launch 2)).map (·.2.1) = [1] ∧
      launchable.records.get? 0 = some ⟨0x1080, 1⟩ ∧ (base.launch 1).state = .running ∧ (base.launch 1).multi = false ∧
      objMalformed [] = true := by decide +kernel

/-- LaunchesRun: ARMED from the last rank of a launch on two devices, from the first of one on three, and its refusal. -/
theorem witness_LaunchesRun_armed :
    let two := paired (launch2 launchable .armed 2 true)
    let three := paired (launch2 launchable .armed 3 true)
    two.answered1 1 0 0 1 = some 2 ∧ (two.launch 2).own = true ∧ (two.launch 2).state = .armed ∧
      two.otherRanks (two.launch 2) = [(1, 1, 0)] ∧ three.answered1 1 0 0 1 = some 2 ∧
      three.otherRanks (three.launch 2) = [(1, 1, 0), (2, 2, 0)] ∧ (three.launch 2).armed = [] := by decide +kernel

theorem launchable_none :
    launchable.launchStatus ⟨0, 0, some (0, ⟨0x1080, 1⟩), (0, false), none, Block.ofWords [0, 1, 1, 0, 1], 0⟩ = 2 := by decide +kernel

theorem launchable_one :
    launchable.launchStatus ⟨0, 0, some (0, ⟨0x1080, 1⟩), (0, false), none, Block.ofWords [1, 1, 1, 0, 1], 0⟩ = 0 := by decide +kernel

/-- LaunchesRun: a host message with a right tag, whose block is refused (no team) or makes an entry. -/
theorem witness_LaunchesRun_host (nx : Nat) (h : nx < 2) :
    let m := hostMsg hostBlob nx
    let r : Request := ⟨0, 0, launchable.hostKernel 0 m, (0, false), none,
      Block.ofWords ((List.range 5).map fun k => BitVec.ofNat 32 (leAt m (32 + 4 * k) 4)), leAt m 64 8⟩
    leAt m 52 4 = 0 ∧ leAt m 60 4 = 0 ∧ m.length = 88 + 0 ∧ hostTag 0 (launchable.ctx 0).keyId m 0 = m.drop (72 + 0) ∧
      zeroAt m 56 4 = true ∧ (launchable.ctx 0).state = .active ∧ launchable.launchStatus r = (if nx = 0 then 2 else 0) ∧
      (launchable.versionOf r.kernel).isSome = true := by
  have tail : ∀ o n, (((hostMsg hostBlob nx).drop (32 + o)).take n) =
      (((natBytes 4 nx ++ natBytes 4 1 ++ natBytes 4 1 ++ natBytes 4 0 ++ natBytes 4 1 ++ List.replicate 20 0 : List Byte) ++
        gcmTag (Config.launchKey 0 0) (((hostHead hostBlob nx).drop 52).take 4 ++ ((hostHead hostBlob nx).drop 64).take 8)
          (hostHead hostBlob nx)).drop o).take n := fun o n => by
    rw [hostMsg, hostHead, List.append_assoc, ← List.drop_drop, List.drop_left' (natBytes_length 32 _)]
  have le : ∀ o n, leAt (hostMsg hostBlob nx) (32 + o) n = bytesNat (((hostMsg hostBlob nx).drop (32 + o)).take n) := fun _ _ => rfl
  refine ⟨?_, ?_, ?_, hostTag_hostMsg _ _, ?_, by decide, ?_, ?_⟩
  · exact (le 20 4).trans (by rw [tail]; rfl)
  · exact (le 28 4).trans (by rw [tail]; rfl)
  · simp [hostMsg, hostHead_length, gcmTag_length]
  · show (((hostMsg hostBlob nx).drop (32 + 24)).take 4).all (· == 0) = true
    rw [tail]; rfl
  · rw [hostKernel_hostMsg]
    have b : (List.range 5).map (fun k => BitVec.ofNat 32 (leAt (hostMsg hostBlob nx) (32 + 4 * k) 4)) =
        [BitVec.ofNat 32 nx, 1, 1, 0, 1] := by
      simp only [le, tail]
      match nx, h with
      | 0, _ => rfl
      | 1, _ => rfl
    have c : leAt (hostMsg hostBlob nx) 64 8 = 0 := (le 32 8).trans (by rw [tail]; rfl)
    rw [b, c]
    rcases (by omega : nx = 0 ∨ nx = 1) with rfl | rfl
    · rw [if_pos rfl]; exact launchable_none
    · rw [if_neg (by decide)]; exact launchable_one
  · rw [hostKernel_hostMsg]; rfl

/-- LaunchesRun: a message to a SAVED context with a right tag. -/
theorem witness_LaunchesRun_saved :
    let s := launchable.modCtx 0 fun x => { x with state := .saved }
    (s.ctx 0).state = .saved ∧ s.launchKeyId 0 = 0 ∧ leAt (hostMsg hostBlob 1) 60 4 = 0 ∧
      hostTag 0 0 (hostMsg hostBlob 1) 0 = (hostMsg hostBlob 1).drop (72 + 0) ∧ (hostMsg hostBlob 1).length = 88 + 0 :=
  ⟨by decide, by decide, (witness_LaunchesRun_host 1 (by decide)).2.1, hostTag_hostMsg _ _, (witness_LaunchesRun_host 1 (by decide)).2.2.1⟩

/-- A second context, of colour 1, in a state. -/
def second (s : State) (x : CtxState) : State := { s with ctxs := s.ctxs ++ [(1, { Ctx.empty with state := x, colour := 1 })] }

/-- LaunchesRun: a SAVED context, to which no launch of this device belongs, and a message of a launch that names it. -/
theorem witness_LaunchesRun_late :
    let s := launchable.modCtx 0 fun x => { x with state := .saved }
    (s.ctx 0).state = .saved ∧ s.answered1 1 0 0 1 = none ∧ s.launches.get? 2 = none := by decide

/-- An entry of the grant table for device 3 over 2 MiB of colour 1. -/
def grantBits : BitVec 256 := 0x400000#64 ++ 0x200000#64 ++ 1#12 ++ 0x203#12 ++ 3#10 ++ 0#93 ++ 1#1

/-- Frame 1 in a state of colour 1. -/
def frame1 (s : State) (st : Nat) (arg : Nat := 0) : State := { s with frames := s.frames.set 1 (Fst.mk arg 0 0 false false 1 st) }

/-- FSTSET of an entry on a frame, with .cmp when a state is expected: whether it is refused, and as what. -/
def fstCase (s : State) (g : Nat) (n : DWord) (cmp : Option Nat) : Bool :=
  let f : FmtT := ⟨0, 0, if cmp.isSome then 1 else 0, 4, 8, 0x30, if cmp.isSome then 0x50 else 0⟩
  let s' := regs s [(8, n.extractLsb' 0 32), (9, n.extractLsb' 32 32), (0x30, BitVec.ofNat 32 g), (0x50, BitVec.ofNat 32 (cmp.getD 0))]
  let u := ((at_ (.fstset f) s').counted (.fstset f)).flushAll (((at_ (.fstset f) s').counted (.fstset f)).unitOf 0 0) 0
  ready (.fstset f) s' && decide ((at_ (.fstset f) s').pair 0 8 = n) && decide (u.frames = s.frames)

/-- PrivilegedInstructions: each case of each instruction. -/
theorem witness_PrivilegedInstructions :
    let pass : State := { base with sweepCur := 1 }
    let own := Fst.mk 0 0 0 false false 1 Fst.owned
    let gate (f : FmtS → Instr) (fn : BitVec 16) (s : State) (n : Word) := ready (f ⟨0, fn, 4, 8, 0⟩) (regs s [(8, n)])
    let share (m : BitVec 12) (c v k : Word) (a : BitVec 9 := 8) (z : BitVec 9 := 0x50) := ready (.shareset ⟨0, 0, m, 4, a, 0x30, z⟩) (regs base [(8, c), (0x30, v), (0x50, k)])
    ready (.sweep ⟨0, 0, 4, 0, 0⟩) base = true ∧ base.sweepCur = base.sweepDone ∧ ready (.sweep ⟨0, 0, 4, 0, 0⟩) pass = true ∧
      ready (.sweep ⟨0, 0, 4, 0, 1⟩) pass = true ∧ pass.sweepCur ≠ pass.sweepDone ∧
      ready (.grantset ⟨0, 0, 0, 4, 8, 0x30, 0⟩) (blobbed grantBits) = true ∧ grantBits.extractLsb' 1 93 = 0 ∧
      (Grant.ofBits grantBits).valid = true ∧ (Grant.ofBits grantBits).hi = 0x400000 ∧ (Grant.ofBits grantBits).lo = 0x200000 ∧
      (Grant.ofBits grantBits).pmask = 0x203 ∧ (Grant.ofBits grantBits).target = 3 ∧
      ready (.grantset ⟨0, 0, 0, 4, 8, 0x30, 0⟩) (regs base [(0x30, 4096)]) = true ∧
      fstCase base 655360 own none = true ∧ fstCase base 1 (Fst.mk 0 0 1 false false 1 Fst.owned) none = true ∧
      fstCase base 1 own (some 1) = true ∧ Fst.state (frameEntry base.frames (liveFrame base.frames 1)) = 0 ∧
      fstCase base 1 (Fst.mk 0 0 0 false false 1 Fst.quarantine) none = true ∧
      fstRow (frameEntry base.frames 1) (Fst.mk 0 0 0 false false 1 Fst.quarantine) = false ∧
      fstCase base 1 own (some 0) = true ∧ fstRow (frameEntry base.frames 1) own = true ∧
      fstRow (frameEntry (frame1 base Fst.owned).frames 1) (Fst.mk 0 0 0 false false 1 Fst.quarantine) = true ∧
      fstRow (frameEntry (frame1 base Fst.owned).frames 1) (Fst.mk 0 0 0 false false 1 Fst.scrub) = true ∧
      fstArgBad (Fst.mk 0 0 0 false false 1 Fst.scrub) = false ∧ fstArgBad own = false ∧
      ready (.fstget ⟨0, 0, 0, 4, 0, 0x30, 0⟩) (regs base [(0x30, 655359)]) = true ∧
      ready (.fstget ⟨0, 0, 0, 4, 0, 0x30, 0⟩) (regs base [(0x30, 655360)]) = true ∧
      ([(.active : CtxState), .gated].all fun x => [(0 : Word), 1, 1024].all fun n => gate .ctxgateGate 0 (second base x) n &&
        gate .ctxgateUngate 1 (second base x) n && gate .ctxgateState 2 (second base x) n) = true ∧
      ((second base .gated).ctx 1).state = .gated ∧ ((second base .active).ctx 1).state = .active ∧ base.laneCtx 0 = 0 ∧
      ([share 0 0 1 0, share 0 0 65535 0, share 0 1 1 0, share 1 0 1 0 8 0x140, share 2 0 256 2047 0x140, share 2 0 255 2047 0x140,
        share 2 0 256 2048 0x140].all id) = true ∧
      (base.ctx 0).coreSet = [0, 1, 2, 3, 4, 5, 6, 7] ∧ base.shareSum 0 (some 0) + 1 ≤ base.poolNext 0 ∧
      ¬ (base.shareSum 0 (some 0) + 65535 ≤ base.poolNext 0) ∧ base.shareSum 2047 none ≤ 256 := by decide +kernel

/-- PrivilegedInstructions: MRTLOAD of a range, its answer with a tenant on the device; CVERNEW of an unknown record,
with an unknown one, with itself, and with another. -/
theorem witness_PrivilegedInstructions_reeve :
    let i : Instr := .mrtload ⟨0, 0, 0, 4, 8, 0, 0⟩
    let tenant := Cap.make Kind.data 1 0xBCF 0x10000 0x8000 0x10000
    let j' := asking (.mrt (tenant, true))
    let t : State := { colour (frame1 base Fst.owned) 1 with
      jobs := [(5, j')], frames := base.frames.set 0 (Fst.mk 0 0 0 false false 1 Fst.owned) }
    let c : Instr := .cvernew ⟨0, 0, 0, 4, 8, 0x30, 0⟩
    let other : Quad := Cap.make Kind.code 0 (Perm.exec ||| Perm.ld) 0x1000 4096 0x1100
    let two : State := { launchable with records := [(0, ⟨0x1080, 1⟩), (1, ⟨0x1100, 1⟩)] }
    let kernels := fun (s : State) (q : Quad) => with8 s kernelCap (quadRegs 12 q) [12]
    let ok := fun (s : State) (q : Quad) => ready c (kernels s q) &&
      (match (kernels s q).kernelCheck 0 ((at_ c (kernels s q)).quad 0 8), (kernels s q).kernelCheck 0 ((at_ c (kernels s q)).quad 0 0x30) with
        | .ok a, .ok _ => decide (a = 0x1080) | _, _ => false)
    ready i (with8 base page) = true ∧
      (match (at_ i (with8 base page)).accPre 0 (page, true) accData Perm.ld 0x10000 64 64 false with
        | .ok a => decide (a = 0x10000) | _ => false) = true ∧
      base.tenantRuns = false ∧
      t.answerDue 5 j' = true ∧ t.tenantRuns = true ∧
      (match ({ t with jobs := [] } : State).mrtStep 5 j' (tenant, true) with | .done st x => decide (st = 1 ∧ x = none) | _ => false) = true ∧
      ok base other = true ∧ ok launchable other = true ∧ ok two kernelCap = true ∧ ok two other = true ∧
      base.recordAt 0x1080 = none ∧ two.recordAt 0x1080 = some (0, ⟨0x1080, 1⟩) ∧ two.recordAt 0x1100 = some (1, ⟨0x1100, 1⟩) ∧
      launchable.recordAt 0x1100 = none := by decide +kernel

/-- The record of a lease of one frame with device 3: lender's frame 1, window frame 1, colour 1, lease ID 7. -/
def leaseRec (st : Nat) (asLender : Bool) : Lease :=
  { fallback := 0, fallTag := false, term := 50, tbound := 100, lframe := 1, count := 1, wframe := 1, colour := 1,
    lender := if asLender then 0 else 3, borrower := if asLender then 3 else 0, state := st, id := 7, bctx := 1, deadline := 0,
    gen := 1, asLender := asLender, who := none, born := 0, drain := 0, sent := 0, num := 0, left := [] }

/-- A state with that record as record 0. -/
def leasing (s : State) (st : Nat) (asLender : Bool) : State := { s with leases := [(0, leaseRec st asLender)] }

/-- The image of an offer of frame 1 to device 3, or of an acceptance by context 1 of device 3's, FALLBACK in its upper 128 bits. -/
def leaseBits (lender borrower bctx : Nat) (fallback : Quad) : BitVec 512 :=
  fallback ++ BitVec.ofNat 384 (2 ^ 237 + 2 ^ 219 + 2 ^ 202 + 2 ^ 190 + lender * 2 ^ 180 + borrower * 2 ^ 170 + bctx * 2 ^ 144)

/-- A fallback on frame 2. -/
def fallback2 : Quad := Cap.make Kind.data 1 0xBCF 0x400000 0x200000 0x400000

/-- A context that may accept, with frame 2 its own, and the image of its record at 0x10000. -/
def accepting : State :=
  let s := word (second (with8 base page) .active) 0x10000 64 (leaseBits 3 0 1 fallback2).toNat
  { s with frames := s.frames.set 2 (Fst.mk 0 0 0 false false 1 Fst.owned), tags := [0x1003] }

/-- A context that may offer, with the image of its record at 0x10000. -/
def offering : State := word (with8 base page) 0x10000 64 (leaseBits 0 3 0 0).toNat

/-- A LEASE capability for record 0 of generation 1. -/
def leaseCap0 (perm : BitVec 12) : Quad := Cap.make Kind.lease 0 perm 4096 1 4096

/-- LeaseInstructions: each form on a record in each state that it accepts and one that it does not, and with no record. -/
theorem witness_LeaseInstructions :
    let s := with8 base (leaseCap0 0)
    let q := with8 base (leaseCap0 0) (quadRegs 12 page) [12]
    let named := fun (i : Instr) (s : State) => ready i s && decide (s.quad 0 8 = (leaseCap0 0, true)) &&
      (checkAccess (s.quad 0 8) (s.laneColour 0) [Kind.lease] 0 4096 0).isNone
    ([leasing s 1 true, leasing s 2 true, leasing s 9 true, leasing s 2 false, leasing s 9 false, leasing s 10 false, s].all fun s =>
      named (.leaseopReclaim ⟨0, 0, 2, 4, 8, 0, 0⟩) s && named (.leaseopRelease ⟨0, 0, 3, 4, 8, 0, 0⟩) s &&
        named (.leaseopForce ⟨0, 0, 4, 4, 8, 0, 0⟩) s) = true ∧
      (Cap.ofQuad (leaseCap0 0)).cur = 4096 ∧ s.leaseOf 4096 = none ∧
      (leasing s 2 true).leaseOf 4096 = some (0, leaseRec 2 true) ∧
      named (.leaseopQuery ⟨0, 0, 5, 4, 8, 0x30, 0⟩) q = true ∧ named (.leaseopQuery ⟨0, 0, 5, 4, 8, 0x30, 0⟩) (leasing q 2 true) = true ∧
      (match q.leaseRange 0 (q.quad 0 0x30) Perm.st true with | .ok a => decide (a = 0x10000) | _ => false) = true ∧
      (leasing q 2 true).leaseOf 4096 = some (0, leaseRec 2 true) := by decide +kernel

/-- LeaseInstructions: an offer and an acceptance that are turned away (an image of zeros) and that make a record. -/
theorem witness_LeaseInstructions_records :
    let o : Instr := .leaseopOffer ⟨0, 0, 0, 4, 8, 0x30, 0⟩
    let a : Instr := .leaseopAccept ⟨0, 0, 1, 4, 8, 0x30, 0⟩
    let flushed := fun (i : Instr) (s : State) =>
      let s0 := (at_ i s).counted i
      s0.flushAll (s0.unitOf 0 0) 0
    let image := fun (i : Instr) (f : FmtT) (accept : Bool) (s : State) =>
      let u := (flushed i s).takeNum.2
      u.leaseImage ((flushed i s).fresh + 1) ⟨((at_ i s).counted i).waiter 0 0 f.d f.b, .lease accept (page, true), [], none⟩ (page, true)
    let of := fun (i : Instr) (accept : Bool) (s : State) => image i ⟨0, 0, if accept then 1 else 0, 4, 8, 0x30, 0⟩ accept s
    let lent := Cap.make Kind.data 0 0xBCF (frameAddr 393217) 4096 (frameAddr 393217)
    let far := with8 { base with frames := base.frames.set 393217 (Fst.mk (3 * 2 ^ 22 + 1) 7 1 false false 0 Fst.borrowed) } lent
    let zero := with8 base page
    ([zero, offering, accepting].all fun s => ready o s && ready a s &&
      (match (at_ o s).leaseRange 0 (page, true) Perm.ld false with | .ok a => decide (a = 0x10000) | _ => false)) = true ∧
      (match of o false zero with | .image b _ => ((flushed o zero).offer b).isLeft | _ => false) = true ∧
      (match of o false offering with | .image b _ => ((flushed o offering).offer b).isRight | _ => false) = true ∧
      (match of a true zero with | .image b t => ((flushed a zero).acceptLease b t).isLeft | _ => false) = true ∧
      (match of a true accepting with | .image b t => ((flushed a accepting).acceptLease b t).isRight | _ => false) = true ∧
      ready o far = true ∧ (match (at_ o far).leaseRange 0 (lent, true) Perm.ld false with | .ok _ => true | _ => false) = true ∧
      (match (flushed o far).takeNum.2.leaseImage 1 ⟨⟨0, 0, 1, 4, 0x30, [], 0, false⟩, .lease false (lent, true), [], none⟩ (lent, true) with
        | .wait xs => decide (xs.length ≠ 0) | _ => false) = true := by decide +kernel

/-- LeaseProtocol: a record in the state that each message and each deadline acts on. -/
theorem witness_LeaseProtocol :
    let late := fun (s : State) => ({ s with now := 16777216 } : State)
    let m : LeaseAccept := ⟨3, 7, 1, 1, 5⟩
    let lender := { leaseRec 4 true with deadline := 1, lframe := 2 }
    let copies := fun n => ({ base with leases := [(0, { lender with sent := n })] } : State)
    let up := { Link.off with state := .up, peer := some 3 }
    let back := { leaseRec 10 false with fallback := fallback2, fallTag := true, deadline := 5 }
    let copied : State := { accepting with leases := [(0, back)] }
    (leasing base 1 true).lenderRec 3 7 = some (0, leaseRec 1 true) ∧ (leaseRec 1 true).count = m.count ∧
      (leaseRec 1 true).colour = m.colour ∧ (leasing base 1 true).allFree (leaseRec 1 true).extent = true ∧
      base.lenderRec 3 7 = none ∧ (late (leasing base 2 true)).leases.get? 0 = some (leaseRec 2 true) ∧
      (leaseRec 2 true).term ≤ (late base).now ∧ (leasing base 2 true).lenderRec 3 7 = some (0, leaseRec 2 true) ∧
      (leasing base 3 true).lenderRec 3 7 = some (0, leaseRec 3 true) ∧
      ({ base with leases := [(0, { leaseRec 4 true with deadline := 1 })] } : State).leases.get? 0 =
        some { leaseRec 4 true with deadline := 1 } ∧ base.now < 1 ∧
      (copies 0).now < lender.deadline ∧ lender.sent < lender.count * 0x200000 ∧
      (copies 0x200000).copyDue { lender with sent := 0x200000 } = true ∧
      (leasing base 8 false).acceptingRec 3 7 = some (0, leaseRec 8 false) ∧ (leaseRec 8 false).born + 16777216 ≤ (late base).now ∧
      (leasing base 9 false).borrowerRec 3 7 = some (0, leaseRec 9 false) ∧ (leasing base 10 false).drainReady (leaseRec 10 false) = true ∧
      (leasing base 10 false).borrowerRec 3 7 = some (0, leaseRec 10 false) ∧ (leaseRec 10 false).deadline ≤ base.now ∧
      copied.borrowerRec 3 7 = some (0, back) ∧ copied.now < back.deadline ∧ copied.fallbackOk back = true ∧
      (leaseRec 3 true).deadline ≤ base.now ∧ base.nextLink (fabReq 0 []) = none ∧
      (({ base with links := [(2, up)] } : State).nextLink { fabReq 0 [] with dst := 3 }).map Prod.fst = some 2 ∧
      (leasing base 10 false).drainOwed (leaseRec 10 false) = false := by decide +kernel

/-- LeaseProtocol: a drain that finds a dirty line of its extent, which it writes back first. -/
theorem witness_LeaseProtocol_drain :
    let a := frameAddr 393217
    let s : State := { leasing base 10 false with
      frames := base.frames.set 393217 (Fst.mk (3 * 2 ^ 22 + 1) 7 1 false false 1 Fst.draining)
      msc := [(mscSet a, [⟨a / 128, 0, [(0, ⟨true, false, 0xFFFF, true, some (7, false)⟩)]⟩])] }
    s.drainReady (leaseRec 10 false) = true ∧ s.windowLines (leaseRec 10 false) = [a] ∧
      ((s.windowLines (leaseRec 10 false)).foldl (fun u a => u.mscFlush a) s).drainOwed (leaseRec 10 false) = true := by decide +kernel

/-- The running context with another allocation on core 1. -/
def core1 (a : Alloc) : State := base.modCtx 0 fun x => { x with alloc := x.alloc.set 1 a }

/-- An image of a saved context that held one core. -/
def savedImage : Image :=
  { savedAt := 0, frames := [], ctx := { Ctx.empty with alloc := [(8, ⟨1, 1, 1, 8, 0, false, true, false, none⟩)] }, work := ⟨[], [], [], [], []⟩, launches := [],
    cmds := [], xrecs := [], pads := [], padTags := [], padPoison := [], late := [], ended := [] }

/-- A token bucket on core 0. -/
def bucketed (b : Bucket) : State := base.modCtx 0 fun x => { x with buckets := [(0, b)] }

/-- ContextEvents: a context that can be created and one that cannot; a core that drains with and without teams on it, and at its
deadline; saves, restores, a discard and a reset. -/
theorem witness_ContextEvents :
    let p : CtxParams := ⟨1, 1, [⟨8, 1, 1, 1, 8, 1, 1⟩], 0x400000, 0⟩
    let a : Alloc := ⟨1, 1, 1, 1, 0, false, true, false, none⟩
    let saved : State := { frame1 (second base .saved) Fst.owned with images := [(1, savedImage)] }
    let gated := (second base .active).modCtx 1 fun x => { x with state := .gated, gatedAt := 0 }
    let save0 := base.modCtx 0 fun x => { x with state := .gated, gatedAt := 0 }
    base.canCreate p = true ∧ (second base .active).canCreate p = false ∧ (base.ctx 0).alloc.get? 0 = some a ∧
      a.member = true ∧ a.drain = false ∧ (∃ p ∈ base.teams, p.2.ctx = 0 ∧ p.2.core = 0) ∧
      (base.ctx 0).alloc.get? 1 = some a ∧ (∀ p ∈ base.teams, ¬ (p.2.ctx = 0 ∧ p.2.core = 1)) ∧
      ((core1 { a with drain := true, deadline := some 0 }).ctx 0).alloc.get? 1 = some { a with drain := true, deadline := some 0 } ∧
      gated.saveReady 1 = true ∧ save0.saveReady 0 = false ∧ base.restoreStatus 1 1 ≠ 0 ∧ base.images.get? 1 = none ∧
      saved.images.get? 1 = some savedImage ∧ saved.restoreStatus 1 1 = 0 ∧ (saved.ctx 1).state = .saved ∧
      saved.colourShared 1 = false ∧ (saved.ctx 1).colour ≠ 0 ∧
      (∃ p ∈ saved.frames, p.1 = 1 ∧ Fst.colour p.2 = 1 ∧ Fst.state p.2 = Fst.owned) ∧ savedImage.ctx.backs = [] ∧
      (queued 2 .opened []).queues.get? 0 = some ⟨0, 2, .opened, [], [], []⟩ ∧ ((queued 2 .opened []).ctx 0).state = .active ∧
      ((second base .resetting).ctx 1).state = .resetting := by
  refine ⟨?_, ?_, ?_, ?_, ?_, ⟨(1, probeTeam), ?_⟩, ?_, ?_, ?_, ?_, ?_, ?_, ?_, ?_, ?_, ?_, ?_, ?_, ?_, ?_, ?_, ?_, ?_⟩ <;> decide +kernel

/-- ContextEvents: an image of another part that opens, and one that does not (what an image opens to, no statement can know). -/
theorem witness_ContextEvents_given (b c : List Byte) (hb : openImage base.fresh b = .image ⟨savedImage, [], []⟩)
    (hc : openImage base.fresh c = .bad) :
    base.foreignStatus (openImage base.fresh b) 1 [(3, ⟨[(0, 7)], [0], []⟩)] = 0 ∧ base.foreignStatus (openImage base.fresh c) 1 [] ≠ 0 := by
  rw [hb, hc]
  decide +kernel

/-- ContextEvents: a refill of a bucket that was throttled and of one that was not, a request that can pay, an update of the shared
counters, and a governor's step. -/
theorem witness_ContextEvents_due :
    let b : Bucket := ⟨5, none, 5, 0, 0, false⟩
    let r : Req := ⟨0, 0, false, 0x10000, 64, true, .lanes, none⟩
    let at_ := fun (n : Nat) => ({ base with now := n, governed := [] } : State)
    let full := bucketed b
    let asks := { bucketed b with reqs := [(3, r)] }
    let counted := (at_ 1048576).count 0 0 0x12 5
    1024 % 1024 = 0 ∧ base.lastRefill < 1024 ∧ (full.ctx 0).refills = true ∧ (∀ p ∈ full.ctxs, p.1 = 0 → p.2 = full.ctx 0) ∧
      (full.ctx 0).buckets.get? 0 = some b ∧ b.throttled = false ∧ (∀ q ∈ full.reqs, ¬ (q.2.ctx = 0 ∧ q.2.core = 0 ∧ q.2.sent = none)) ∧
      ((bucketed { b with throttled := true }).ctx 0).buckets.get? 0 = some { b with throttled := true } ∧
      asks.reqs.find? (fun p => p.2.ctx = 0 && p.2.core = 0 && p.2.sent.isNone) = some (3, r) ∧ (r.bytes + 63) / 64 ≤ b.own + b.bonus ∧
      (at_ 1048576).now % 1048576 = 0 ∧ (at_ 1048576).lastUpdate < 1048576 ∧ (∃ p ∈ counted.ctxs, p.1 = 0) ∧
      (at_ 8192).now % 8192 = 0 ∧ (at_ 8192).governed.getD 3 0 < 8192 := by decide +kernel

/-- A sweep pass over frame 1, its walk over. -/
def sweeping (acked swept : List Nat) (holds : Tbl Nat := []) : State :=
  { frame1 base Fst.quarantine with sweepCur := 1, pass := some ⟨1, [1], acked, holds, swept, some ⟨[], 0, 0, []⟩⟩ }

/-- PageAndDeviceEvents: a sweep at each of its stages, with a command that holds a revoked capability and one that does not, with a
team and a load of the core; one that is queued behind it or none; the frame of its set. -/
theorem witness_PageAndDeviceEvents_sweeps :
    let all := [0, 1, 2, 3, 4, 5, 6, 7]
    let gone : Quad := Cap.make Kind.data 1 0xBCF 0x200000 4096 0x200000
    let holds := fun (q : Quad) => operation 4 (.fill (q, true) 16 7)
    let with_ := fun (c : Cmd) => { sweeping [] [] with cmds := [(9, c)], wloads := [(7, ⟨0, 0, 4, 1, none, (page, true), 0x10000, 16, []⟩)] }
    (sweeping [] []).ackReady 0 = true ∧ (sweeping all []).coreSweepDue 7 = true ∧ (sweeping all all).walkDue = true ∧
      ((sweeping all []).pass.bind fun p => p.holds.get? 7) = none ∧
      ({ sweeping all [] [(7, 6656)] with now := 6656 } : State).coreSweepDue 7 = true ∧
      (sweeping all [] [(7, 6656)]).coreSweepDue 7 = false ∧
      (with_ (holds gone)).ackReady 0 = true ∧ (holds gone).unfinished = true ∧ (holds gone).caps.any (with_ (holds gone)).isRevoked = true ∧
      (holds page).caps.any (with_ (holds page)).isRevoked = false ∧ (with_ (holds page)).teams.get? 1 = some probeTeam ∧
      coreOf (groupOf 0) = 0 ∧ (sweeping all all).sweepQueued = false ∧ ({ sweeping all all with sweepQueued := true } : State).walkDue = true ∧
      liveFrame (sweeping all all).frames 1 = 1 ∧ 1 < 393216 ∧ Fst.state (frameEntry (sweeping all all).frames 1) = Fst.quarantine := by
  decide +kernel

/-- PageAndDeviceEvents: a frame to scrub at its first and last sub-frame, a retirement and its spare, the spare of a retired frame, and
a slot and a line to poison. -/
theorem witness_PageAndDeviceEvents_frames :
    let scrub := fun (k : Nat) => frame1 base Fst.scrub k
    let slot : State := base.setSlot 0 0 0 ⟨.ready, [], 1, 0, false, []⟩
    (scrub 0).scrubDue 1 = true ∧ scrubDone (frameEntry (scrub 0).frames 1) = 0 ∧ (scrub 31).scrubDue 1 = true ∧
      scrubDone (frameEntry (scrub 31).frames 1) = 31 ∧ Fst.state (frameEntry base.frames 1) ≤ Fst.quarantine ∧
      1 ∉ base.spares ∧ base.spareOk 1 393215 = true ∧ Fst.state (frameEntry (frame1 base Fst.retired 5).frames 1) = Fst.retired ∧
      (frame1 base Fst.retired 5).spareOk 1 2 = true ∧ Fst.arg (frameEntry (frame1 base Fst.retired 5).frames 1) % 2 ^ 19 = 5 ∧
      (slot.ctx 0).slots.get? (0 * 256 + 0) = some ⟨.ready, [], 1, 0, false, []⟩ ∧
      (⟨0, 0, 5, 0, 0, false, []⟩ : Line) ∈ ({ base with l1 := [⟨0, 0, 5, 0, 0, false, []⟩] } : State).l1 := by decide +kernel

/-- PageAndDeviceEvents: a lane's access and a running command that the network fails, and a granule of a lender's frame that the slice
holds. -/
theorem witness_PageAndDeviceEvents_errors :
    let s := { base with outst := [(1, waiting .home 0x10000 0 0 .load)] }
    let c := operation 4 (.fill (page, true) 16 7)
    let a := frameAddr 393217
    let held : State := { base with msc := [(mscSet a, [⟨a / 128, 0, [(0, ⟨true, false, 0, false, some (7, false)⟩)]⟩])] }
    s.outst.get? 1 = some (waiting .home 0x10000 0 0 .load) ∧ (waiting .home 0x10000 0 0 .load).team ≠ 0 ∧
      (commanded c).outst.get? 9 = none ∧ (commanded c).cmds.get? 9 = some c ∧ c.state = .running ∧ regionOf a = .borrowed ∧
      (held.sliceGran a).own = some (7, false) ∧ (base.sliceGran a).own = none ∧ regionOf 0x10000 ≠ .borrowed := by decide +kernel

/-- Two full queues that wait on each other, the first with its probe on its way or not, or a queue that waits on one with its reserve
in use. -/
def knotted (reserve : Option Nat) (probing : Bool) : State :=
  { base with now := 2048, iqueues := [(0, ⟨[7], 1, none, some 1, probing, 0⟩), (1, ⟨[8], 1, reserve, some 0, false, 0⟩)] }

/-- PageAndDeviceEvents: RDMA messages that wait, go on and are refused, a closed queue, a probe that is sent, one that finds its queue
and one that does not. -/
theorem witness_PageAndDeviceEvents_queues :
    let open0 := { base with frames := base.frames.set 0 (Fst.mk 0 0 0 false false 0 Fst.owned) }
    ({ base with rdma := [(0, [1])] } : State).rdma ≠ [] ∧ base.rdma = [] ∧ regionOf 0x10000 = .local ∧
      gate open0.frames open0.spares 0 0x10000 true = .go 0x10000 false ∧ 0x10000 % 0x200000 + 64 ≤ 0x200000 ∧
      (match gate base.frames base.spares 0 0x200000 true with | .refuse _ _ => true | _ => false) = true ∧ regionOf 0x200000 = .local ∧
      (queued 2 .closed []).queues.get? 0 = some ⟨0, 2, .closed, [], [], []⟩ ∧ (knotted none false).probeDue 0 = true ∧
      (knotted none false).iqueues.get? 0 = some ⟨[7], 1, none, some 1, false, 0⟩ ∧
      (knotted none true).iqueues.get? 0 = some ⟨[7], 1, none, some 1, true, 0⟩ ∧
      ((knotted none true).iqueue 1).full = true ∧ ((knotted none true).iqueue 1).reserve = none ∧ (knotted none true).probeFinds 0 3 1 = true ∧
      (knotted (some 9) true).probeFinds 0 3 1 = false := by decide +kernel

/-- PageAndDeviceEvents: the monitor of a word with a reserved source and one with none, a device to boot, and one to power down. -/
theorem witness_PageAndDeviceEvents_device :
    9 < ((0xA0000 : DWord).extractLsb' 16 16).toNat ∧ ((0x90001 : DWord).extractLsb' 16 16).toNat ≤ 9 ∧
      (0x90001 : DWord).extractLsb' 16 16 ≠ (0 : DWord).extractLsb' 16 16 ∧ State.reset.bootstat = 0 ∧
      State.reset.bootFails ⟨some 1, 0, 0, [], [], [], []⟩ = some 1 ∧ State.reset.bootFails ⟨none, 256, 0, [], [], [], []⟩ = some 3 ∧
      base.bootstat = 1 ∧ base.fuseMin ≤ 255 ∧ (base.ctx 0).state = .active ∧
      (∀ p ∈ base.ctxs, p.2 = base.ctx p.1) ∧
      (({ base with thermalAt := some 0, now := 1250000 } : State).thermalAt = some 0) := by decide +kernel

/-- PageAndDeviceEvents: a boot that meets no failure: the table is empty, and its signature is one that the reeve accepts (which
signatures are, no statement can know). -/
theorem witness_PageAndDeviceEvents_boot (sig : List Byte) (h : sig.length = sigBytes)
    (ok : Config.signatureOk (mrtBody (Mrt.empty ++ sig)) sig = true) :
    State.reset.bootFails ⟨none, 0, 0, Mrt.empty ++ sig, [], [], []⟩ = none := by
  have c : mrtCount (Mrt.empty ++ sig) = 0 := rfl
  have m : mrtOk (Mrt.empty ++ sig) = true := by
    simp only [mrtOk, c, Nat.mul_zero, Nat.add_zero, List.length_append, h]
    rw [List.drop_left' (by rfl : Mrt.empty.length = 64), ok]
    rfl
  simp [State.bootFails, m, State.reset]

/-- Link 0 in a state, with what a test changes in it. -/
def linked (l : Link) : State := { base with links := [(0, l)] }

/-- LinkEvents: a link in each state, a flit that is good, one that is not, one whose tag fails, flits that wait for their
acknowledgement, and a peer without a route. -/
theorem witness_LinkEvents :
    let up : Link := { Link.off with state := .up, peer := some 1 }
    let m := fabReq 1 [1, 2, 3, 4]
    let late : Link := { up with held := [⟨5, [m], 8, 0⟩, ⟨6, [m], 1, 1⟩], slots := 4096 }
    let down : State := { linked { Link.off with state := .down } with now := 12500000 }
    (base.link 0).state = .off ∧ ((linked { up with state := .training }).link 0).state = .training ∧ (down.link 0).state = .down ∧
      (down.link 0).retryAt ≤ down.now ∧ 16 / 16 ≠ base.parish / 16 ∧ ((linked up).link 0).usable = true ∧
      (⟨true, true, false, 1, 0, 0, false, [m]⟩ : FlitIn).fseq = ((linked up).link 0).expect ∧ up.keysel = false ∧ { up with keysel := true }.keysel ≠ false ∧
      (⟨1, false⟩ : PeerId).genuine = false ∧ (⟨16, true⟩ : PeerId).index / 16 ≠ base.parish / 16 ∧ ((linked up).link 0).nakSent = false ∧
      3 ≤ ({ up with gcmFails := 3 } : Link).gcmFails ∧ late.usable = true ∧ late.held.findIdx? (fun f => f.fseq = 5) = some 0 ∧
      late.ackLate = true ∧ ({ late with state := .replaying } : Link).replaySpent = true ∧
      ((linked { up with keySlots := 2 ^ 40 }).link 0).state = .up ∧ 2 ^ 40 ≤ ({ up with keySlots := 2 ^ 40 } : Link).keySlots ∧
      up.slotDue 0 = true ∧ up.txq = [] ∧ ({ up with txq := [m] } : Link).txq ≠ [] ∧ up.held.length < 256 ∧ up.replay = none ∧
      ({ base with now := 12500000 } : State).unreachable 1 = true ∧ base.outst = [] ∧ base.heldReqs = [] ∧ base.parish ≠ 639 := by
  decide +kernel

/-- A device about to execute IADD v1, v2, v3 as its one instruction. -/
def probed : State := State.reset.withFetchWord 64 (encode (.iadd ⟨0, 1, 0, 1, 2, 3, 0⟩)).toNat

/-- The same with the word in the fetch buffer, and another word in memory. -/
def fetched : State :=
  let w := encode (.iadd ⟨0, 1, 0, 1, 2, 3, 0⟩)
  { word probed 0x1008 8 0 with islots := [(0, { ISlot.empty with rotation := [0], c0 := some { oneClause with words := [(0, w)] } })] }

/-- The second of a pair: the first has issued, and the second port's clause stands at the instruction. -/
def second_ : State :=
  let snap : PairSnap := ⟨[], [], [], 0, [], [], [], [], [], [], none, none, none, []⟩
  { probed with islots := [(0, { ISlot.empty with rotation := [0], c1 := some oneClause, snap := some snap })] }

/-- A state in which the one thing that may act is a port with an instruction to execute. -/
def oneActs (s : State) (p : Nat) (c : Clause) : Bool :=
  let w := encode (.iadd ⟨0, 1, 0, 1, 2, 3, 0⟩)
  match s.actFits (.port 0 p) with
  | none => false
  | some q =>
    let v : State := { s with rank := q }
    let u := (if (c.words.get? c.idx).isSome then v else v.fetchFill 0 0x1008).withCur 0 p c w
    s.power && s.inbox.isEmpty && s.atOnce.isEmpty && s.forced.isEmpty && decide (s.acts = [.port 0 p]) &&
      (p = 1 || ((s.islot 0).c1.isNone && decide (s.rank = none))) &&
      decide ((s.islot 0).clause p = some c) && decide (s.liveMask 0 c ≠ 0) && !s.held 0 &&
      (match s.portWord 0 p 0 c 0x1008 with | .word x => decide (x = w) | _ => false) &&
      (match decode (s.issueWord w c.sub) with | .ok i => decide (i = .iadd ⟨0, 1, 0, 1, 2, 3, 0⟩) | _ => false) &&
      ((s.islot 0).snap.isSome || !u.blocked (.iadd ⟨0, 1, 0, 1, 2, 3, 0⟩)) && u.lateLanes.isEmpty

/-- StepRunsDecoded: a port with one instruction to execute is the one thing that may act, with the word fetched now or before, or as
the second of a pair. -/
theorem witness_StepRunsDecoded :
    oneActs probed 0 oneClause = true ∧ oneActs fetched 0 { oneClause with words := [(0, encode (.iadd ⟨0, 1, 0, 1, 2, 3, 0⟩))] } = true ∧
      oneActs second_ 1 oneClause = true ∧ (probed.islot 0).snap.isNone = true ∧ (second_.islot 0).snap.isSome = true ∧
      oneClause.hdr + 8 + BitVec.ofNat 64 (8 * oneClause.idx) = 0x1008 ∧ endsCycle (.iadd ⟨0, 1, 0, 1, 2, 3, 0⟩) = false ∧
      (probed.die (0 / 4 / 256)).duty = false ∧ probed.reqs = [] := by
  decide +kernel

/-- StepRunsDecoded: a fetch that passes its check and the gate, of a line that is not cached. -/
theorem witness_StepRunsDecoded_fetch :
    (probed.vers.get? (probed.team 1).ver) = some probeVersion ∧
      checkAccess (probeVersion.cap, true) (probed.ctx (probed.team 1).ctx).colour accExec Perm.exec 0x1008 8 = none ∧
      regionOf 0x1008 = .local ∧ gate probed.frames probed.spares 0 0x1008 false = .go 0x1008 false ∧
      probed.icacheWord (probed.team 1).core 0x1008 = none ∧
      ({ probed with inbox := [.tokenRefill] } : State).inbox = [.tokenRefill] ∧ ({ probed with power := false } : State).power = false := by
  decide +kernel

/-- StepKeepsMemoryCanonical: a state with memory in canonical form takes a step. -/
theorem witness_StepKeepsMemoryCanonical :
    probed.memOk ∧ probed.mem ≠ [] ∧ (match step probed with | .next _ => true | _ => false) = true :=
  ⟨⟨by decide +kernel, by decide +kernel⟩, by decide +kernel, by decide +kernel⟩

/-- DecodeEncode: a well-formed instruction of each format, and a word that decodes. -/
theorem witness_DecodeEncode :
    ([.iadd ⟨0, 1, 0, 1, 2, 3, 0⟩, .bra ⟨0, 0, 0, 0, 4⟩, .trap ⟨0, 0, 0, 0, 0⟩, .sread ⟨0, 1, 4, 0, 0⟩,
      .ld ⟨0, 3, 1, 0, 0, 0, 0, 0, 4, 8, 0x30, 0⟩, .mma ⟨0, 0, 3, 0, 4, 0x10, 8, 0x30, 0x140⟩] : List Instr).all wellFormed = true ∧
      (match decode 0x1001800008080A00 with | .ok _ => true | _ => false) = true := by decide +kernel

/-- RegisterResults: the last vector register, the first and last uniform register, ZERO, and the last predicate. -/
theorem witness_RegisterResults :
    (0xFF#9).toNat < 0x100 ∧ 0x100 ≤ (0x100#9).toNat ∧ (0x13F#9).toNat < 0x140 ∧ 0x140 ≤ (0x140#9).toNat ∧ 1 ≤ 7 ∧ 7 < 8 ∧
      (0xFC#9).toNat / 4 + 0 = 63 := by decide

end Sys2Proof.Tests
end

