-- ==== Sys2Proof/Tests/Slice0.lean ====
section
/-! SUPPORT. Words written out in the manual, terms that are not well formed, and one step of each kind of instruction. Expected
values are the manual's worked values, or are worked out by hand from the rule named. -/

namespace Sys2Proof.Tests

set_option Elab.async false

open Sys2Proof Sys2Proof.Machine

/-! ## Well-formedness: one ill-formed term for each check -/

/-- R34: TY 13 is no lane type; R35: MOD[11] where no immediate is allowed; R34: a reserved field that is not zero; R40: MSEL outside MMA. -/
theorem test_illegal_refused :
    ([.iadd ⟨0, 13, 0, 1, 2, 3, 0⟩, .mov ⟨0, 0, 0x800, 1, 2, 0, 0⟩, .iadd ⟨0, 1, 0, 1, 2, 3, 4⟩, .barv ⟨0, 0, 0, 1, 0, 2, 0, 0, 0⟩,
      .fadd ⟨0, 1, 0, 1, 2, 3, 0⟩, .movi ⟨0, 3, 1, 0, 5⟩, .ld ⟨0, 8, 0, 0, 0, 0, 0, 0, 1, 4, 0x140, 0⟩,
      .bra ⟨0, 1, 0, 0, 1⟩, .exit ⟨0, 0, 1, 0, 0, 0, 0⟩, .sread ⟨0, 0x1B, 1, 0, 0⟩] : List Instr).all (fun i => !wellFormed i &&
        !(form i).legal) = true := by decide

/-- R210, R47, R392: a selector of another row of the opcode. -/
theorem test_selector_refused :
    ([.regacqTry ⟨0, 0, 3, 0, 0⟩, .eretSkip ⟨0, 0, 0, 0, 0⟩, .leaseopAccept ⟨0, 0, 2, 2, 16, 0, 0⟩,
      .bclustArv ⟨0, 0, 0, 0, 0, 0, 0, 0, 0⟩, .ctxgateUngate ⟨0, 0, 4, 8, 0⟩] : List Instr).all (fun i => !wellFormed i &&
        !ownSelector i) = true := by decide

/-- R31: a pair that is odd, a quad that is no multiple of 4; R30: field values above 0x140; R127: a register above 255. -/
theorem test_operand_refused :
    ([.iadd ⟨0, 5, 0, 1, 2, 4, 0⟩, .cmovq ⟨0, 0, 0, 5, 4, 0, 0⟩, .iadd ⟨0, 1, 0, 0x141, 2, 3, 0⟩,
      .iadd ⟨0, 1, 0, 1, 0x1FF, 3, 0⟩] : List Instr).all (fun i => !wellFormed i && ((form i).badField 256).isSome) = true := by decide

/-! ## Words of the manual -/

/-- The word decodes to the instruction. -/
def decodes (w : DWord) (i : Instr) : Bool := match decode w with | .ok j => decide (i = j) | _ => false

/-- R35, R36, and the worked words of the lane chapters. -/
theorem test_decode_lane :
    decodes 0x1001800008080A00 (.iadd ⟨0, 1, 0x800, 1, 2, 5, 0⟩) && decodes 0x1D01002010040600 (.icmp ⟨0, 1, 2, 2, 1, 3, 0⟩) &&
      decodes 0x24000E8020040403 (.lop3 ⟨0, 0, 0xE8, 4, 1, 2, 3⟩) && decodes 0x2D020680301C0000 (.bfx ⟨0, 2, 0x068, 6, 7, 0, 0⟩) &&
      decodes 0x30000A003F800000 (.movi ⟨0, 0, 5, 0, 0x3F800000⟩) && decodes 0x3B020480080C0A00 (.iaddc ⟨0, 2, 0x048, 1, 3, 5, 0⟩) &&
      decodes 0x2E201E0008040600 (.bfi ⟨2, 0, 0x1E0, 1, 1, 3, 0⟩) && decodes 0x3700030030180E00 (.plop ⟨0, 0, 0x30, 6, 6, 7, 0⟩) &&
      decodes 0x4303000020040403 (.ffma ⟨0, 3, 0, 4, 1, 2, 3⟩) && decodes 0x4F030000501C0000 (.fred ⟨0, 3, 0, 10, 7, 0, 0⟩) &&
      decodes 0x52030000C0580000 (.fsincos ⟨0, 3, 0, 0x18, 0x16, 0, 0⟩) && decodes 0x5801019028180000 (.cvt ⟨0, 1, 0x019, 5, 6, 0, 0⟩) &&
      decodes 0x5908000068683600 (.pack2 ⟨0, 8, 0, 0xD, 0x1A, 0x1B, 0⟩) && decodes 0x5A080000F0680000 (.unpack2 ⟨0, 8, 0, 0x1E, 0x1A, 0, 0⟩) &&
      decodes 0x5D000240A0542C00 (.tricv ⟨0, 0, 0x024, 20, 21, 22, 0⟩) && decodes 0x5B0006033F800000 (.faddi ⟨0, 0, 3, 3, 0x3F800000⟩) &&
      decodes 0x6030804100040000 (.ballot ⟨3, 0, 0x804, 0x20, 1, 0, 0⟩) && decodes 0x6300800010041000 (.shflx ⟨0, 0, 0x800, 2, 1, 8, 0⟩) &&
      decodes 0x66000040D0340000 (.pswap ⟨0, 0, 0x004, 0x1A, 0x0D, 0, 0⟩) && decodes 0x6803000028100000 (.gredux ⟨0, 3, 0, 5, 4, 0, 0⟩) &&
      decodes 0xD000012010000000 (.sread ⟨0, 0x12, 2, 0, 0⟩) && decodes 0xD100030005000001 (.swrite ⟨0, 0x30, 0, 0x140, 1⟩) = true := by
  decide

/-- R39, R178 to R182, R193, R202, R211, R214, R226, R366 to R371. -/
theorem test_decode_control :
    decodes 0x01000000FFFFFFFA (.bra ⟨0, 0, 0, 0, 0xFFFFFFFA⟩) && decodes 0x01200000FFFFFFF9 (.bra ⟨2, 0, 0, 0, 0xFFFFFFF9⟩) &&
      decodes 0x0300002000000010 (.call ⟨0, 0, 0, 0x20, 0x10⟩) && decodes 0x0400000100080000 (.callx ⟨0, 0, 0, 0x20, 2, 0, 0⟩) &&
      decodes 0x0500000000800000 (.ret ⟨0, 0, 0, 0, 0x20, 0, 0⟩) && decodes 0x0600000000000000 (.exit ⟨0, 0, 0, 0, 0, 0, 0⟩) &&
      decodes 0x0A0000000000002A (.trap ⟨0, 0, 0, 0, 0x2A⟩) && decodes 0x6B00000000240000 (.regroup ⟨0, 0, 0, 0, 9, 0, 0⟩) &&
      decodes 0x6C00001028000000 (.rgquery ⟨0, 0, 1, 5, 0, 0, 0⟩) && decodes 0x7100300010000000 (.barv ⟨0, 0, 3, 0, 0, 2, 0, 0, 0⟩) &&
      decodes 0x7700000128980000 (.cvinit ⟨0, 0, 0, 0, 0, 0x25, 0x26, 0, 0⟩) && decodes 0x7800000000000000 (.cvsign ⟨0, 0, 0, 0, 0, 0, 0, 0, 0⟩) &&
      decodes 0x7A02300020800D40 (.waita ⟨0, 2, 3, 0, 0, 4, 0x20, 6, 0x140⟩) && decodes 0xC800001018000000 (.regacqTry ⟨0, 1, 3, 0, 0⟩) &&
      decodes 0xC800000018000000 (.regacqWait ⟨0, 0, 3, 0, 0⟩) && decodes 0xCC00000000000000 (.handoff ⟨0, 0, 0, 0, 0⟩) &&
      decodes 0xD400000000000000 (.eretRetry ⟨0, 0, 0, 0, 0⟩) && decodes 0xD400001000000000 (.eretSkip ⟨0, 1, 0, 0, 0⟩) &&
      decodes 0xD500000080000000 (.faultrd ⟨0, 0, 16, 0, 0⟩) && decodes 0xD600000010100000 (.trapsetSet ⟨0, 0, 0, 2, 4, 0, 0⟩) = true := by
  decide

/-- R38, R91 to R111, R251 to R263. -/
theorem test_decode_memory :
    decodes 0x80B4260040400E04 (.ld ⟨11, 4, 2, 3, 0, 0, 0, 0, 8, 0x10, 7, 4⟩) &&
      decodes 0x8105360030800602 (.st ⟨0, 5, 3, 3, 0, 0, 0, 0, 6, 0x20, 3, 2⟩) &&
      decodes 0x8206000864028000 (.ldc ⟨0, 6, 0, 0, 0, 0, 0, 0, 0x10C, 0x100, 0x140, 0⟩) &&
      decodes 0x8104381008828000 (.st ⟨0, 4, 3, 4, 0, 0, 0, 1, 1, 0x20, 0x140, 0⟩) &&
      decodes 0x80060181240006C0 (.ld ⟨0, 6, 0, 0, 3, 0, 0, 0, 0x24, 0x100, 3, 0xC0⟩) &&
      decodes 0x8406060080828002 (.ldm ⟨0, 6, 0, 3, 0, 0, 0, 0, 0x10, 0x20, 0x140, 2⟩) &&
      decodes 0x85061E000100A000 (.stm ⟨0, 6, 1, 7, 0, 0, 0, 0, 0, 0x40, 0x50, 0⟩) &&
      decodes 0x8604160020800A02 (.atom ⟨0, 4, 1, 3, 0, 0, 0, 0, 4, 0x20, 5, 2⟩) &&
      decodes 0x8800382000000000 (.fence ⟨0, 0, 3, 4, 0, 0, 1, 0, 0, 0, 0, 0⟩) &&
      decodes 0xCA06060100828004 (.spillMemory ⟨0, 6, 0, 3, 0, 0, 0, 0, 0x20, 0x20, 0x140, 4⟩) &&
      decodes 0x9104001100400400 (.csetb ⟨0, 4, 1, 0x20, 0x10, 2, 0⟩) && decodes 0x9205800964122000 (.cadd ⟨0, 5, 0x800, 0x12C, 0x104, 0x110, 0⟩) &&
      decodes 0x9C00000201200000 (.cpopen ⟨0, 0, 0, 0x40, 0x48, 0, 0⟩) &&
      decodes 0x9D06000180828002 (.cdlg ⟨0, 6, 0, 0, 0, 0, 0, 0, 0x30, 0x20, 0x140, 2⟩) = true := by decide

/-- R40, R270 to R322. -/
theorem test_decode_engines :
    decodes 0xA002245200000714 (.mma ⟨0, 2, 2, 1, 5, 0x40, 0, 3, 0x114⟩) && decodes 0xA172001100400128 (.mmat ⟨7, 2, 0, 0, 1, 0x20, 0x10, 0, 0x128⟩) &&
      decodes 0xA201104080800540 (.wload ⟨0, 1, 1, 0, 4, 0x10, 0x20, 2, 0x140⟩) && decodes 0xA400001000080000 (.mpredSet ⟨0, 0, 1, 0, 2, 0, 0⟩) &&
      decodes 0xA600000078C00000 (.tidset ⟨0, 0, 0, 0xF, 0x30, 0, 0⟩) && decodes 0xA800000064B00400 (.treeld ⟨0, 0, 0, 0, 0, 0xC, 0x12C, 2, 0⟩) &&
      decodes 0xB000103104400000 (.xcopy ⟨0, 0, 1, 0, 3, 0x20, 0x110, 0, 0⟩) && decodes 0xB002003104400118 (.xcopy ⟨0, 2, 0, 0, 3, 0x20, 0x110, 0, 0x118⟩) &&
      decodes 0xB100102104406000 (.xcopyp ⟨0, 0, 1, 0, 2, 0x20, 0x110, 0x30, 0⟩) && decodes 0xB300200900C00400 (.xbulk ⟨0, 0, 2, 0, 0, 0x120, 0x30, 2, 0⟩) &&
      decodes 0xB600000020800000 (.xrun ⟨0, 0, 0, 0, 0, 4, 0x20, 0, 0⟩) && decodes 0xC000001000802000 (.qput ⟨0, 0, 1, 0, 0x20, 0x10, 0⟩) &&
      decodes 0xC100000008804000 (.qget ⟨0, 0, 0, 1, 0x20, 0x20, 0⟩) && decodes 0xC200000010800000 (.qstat ⟨0, 0, 0, 2, 0x20, 0, 0⟩) &&
      decodes 0xC300001040000200 (.evget ⟨0, 0, 1, 8, 0, 1, 0⟩) && decodes 0xC400000100C08118 (.launch ⟨0, 0, 0, 0x20, 0x30, 0x40, 0x118⟩) = true := by
  decide

/-- R43, R113, R118, R331, R333, R390, R393. -/
theorem test_decode_system :
    decodes 0xE000000010000000 (.sweep ⟨0, 0, 2, 0, 0⟩) && decodes 0xE000000010000001 (.sweep ⟨0, 0, 2, 0, 1⟩) &&
      decodes 0xE100000000200200 (.grantset ⟨0, 0, 0, 0, 8, 1, 0⟩) && decodes 0xE200001010100C08 (.fstset ⟨0, 0, 1, 2, 4, 6, 8⟩) &&
      decodes 0xE700000010404000 (.leaseopOffer ⟨0, 0, 0, 2, 0x10, 0x20, 0⟩) && decodes 0xE700001010404000 (.leaseopAccept ⟨0, 0, 1, 2, 0x10, 0x20, 0⟩) &&
      decodes 0xE700002010800000 (.leaseopReclaim ⟨0, 0, 2, 2, 0x20, 0, 0⟩) && decodes 0xE800000010400000 (.mrtload ⟨0, 0, 0, 2, 0x10, 0, 0⟩) &&
      decodes 0xE900000010404000 (.cvernew ⟨0, 0, 0, 2, 0x10, 0x20, 0⟩) = true := by decide

/-- R27, R44: the word 0, a header where an instruction is due, a retired opcode, an opcode that is not assigned, and TY 13. -/
theorem test_decode_refused :
    decode 0 = .error .zero ∧ decode 0xFE21000900010080 = .error .header ∧ decode 0x0B00000000000000 = .error (.retired 0x0B) ∧
      (match decode 0x3E00000000000000 with | .ok _ => false | .error _ => true) = true ∧
      decode 0x100D000008080A00 = .error (.illegalField 0x10) := by decide

/-! ## Lane instructions: v1, v2, v3 in, v4 out -/

/-- Register `d` after one instruction, from registers. -/
def gives (i : Instr) (r : List (Nat × Word)) (d x : Nat) : Bool := after i (regs base r) fun t => reg t d == x

/-- A predicate after one instruction. -/
def givesPred (i : Instr) (r : List (Nat × Word)) (k : Nat) (b : Bool) : Bool :=
  after i (regs base r) fun t => (t.lane 0).preds.getLsbD k == b

/-- Predicate 1 true. -/
def withP1 (s : State) : State := s.setLane 0 { s.lane 0 with preds := 2 }

/-- R137, worked values: wrap, packed saturation, high products, the least number. -/
theorem test_arithmetic :
    gives (.iadd ⟨0, 1, 0x800, 4, 1, 5, 0⟩) [(1, 0xFFFFFFFE)] 4 3 && gives (.isub ⟨0, 10, 0, 4, 1, 2, 0⟩) [(1, 0x00010001), (2, 0x00010002)] 4 0xFFFF &&
      gives (.imul ⟨0, 1, 0, 4, 1, 2, 0⟩) [(1, 0x80000001), (2, 2)] 4 2 &&
      gives (.imulh ⟨0, 1, 0x800, 4, 1, 2, 0⟩) [(1, 0x80000000)] 4 0xFFFFFFFF && gives (.imulh ⟨0, 2, 0x800, 4, 1, 2, 0⟩) [(1, 0x80000000)] 4 1 &&
      gives (.imad ⟨0, 1, 0, 4, 1, 2, 3⟩) [(1, 3), (2, 0xFFFFFFFF), (3, 5)] 4 2 &&
      gives (.imin ⟨0, 1, 0, 4, 1, 2, 0⟩) [(1, 0xFFFFFFFF), (2, 1)] 4 0xFFFFFFFF && gives (.imax ⟨0, 2, 0, 4, 1, 2, 0⟩) [(1, 0xFFFFFFFF), (2, 1)] 4 0xFFFFFFFF &&
      gives (.iabs ⟨0, 1, 0, 4, 1, 0, 0⟩) [(1, 0x80000000)] 4 0x80000000 && gives (.ineg ⟨0, 11, 0, 4, 1, 0, 0⟩) [(1, 0x01FF8000)] 4 0xFF018000 &&
      gives (.iadds ⟨0, 9, 0, 4, 1, 2, 0⟩) [(1, 0x7FFF0001), (2, 0x00010001)] 4 0x7FFF0002 &&
      gives (.isubs ⟨0, 2, 0, 4, 1, 2, 0⟩) [(1, 3), (2, 5)] 4 0 &&
      gives (.idot4 ⟨0, 11, 0, 4, 1, 2, 3⟩) [(1, 0x02FF0304), (2, 0x01010201), (3, 10)] 4 21 = true := by decide

/-- R63, worked values: quotients and remainders. -/
theorem test_division :
    gives (.idiv ⟨0, 1, 0x800, 4, 1, 2, 0⟩) [(1, 0xFFFFFFF9)] 4 0xFFFFFFFD && gives (.irem ⟨0, 1, 0x800, 4, 1, 2, 0⟩) [(1, 0xFFFFFFF9)] 4 0xFFFFFFFF &&
      gives (.idiv ⟨0, 1, 0, 4, 1, 2, 0⟩) [(1, 9)] 4 0xFFFFFFFF && gives (.irem ⟨0, 1, 0, 4, 1, 2, 0⟩) [(1, 9)] 4 9 &&
      gives (.idiv ⟨0, 1, 0, 4, 1, 2, 0⟩) [(1, 0x80000000), (2, 0xFFFFFFFF)] 4 0x80000000 &&
      gives (.irem ⟨0, 1, 0, 4, 1, 2, 0⟩) [(1, 0x80000000), (2, 0xFFFFFFFF)] 4 0 = true := by decide

/-- R138, the worked pair: a carry out of the low half, and into the high one. -/
theorem test_carry :
    gives (.iaddc ⟨0, 2, 1, 0, 2, 4, 0⟩) [(2, 0xFFFFFFFF), (4, 1)] 0 0 && givesPred (.iaddc ⟨0, 2, 1, 0, 2, 4, 0⟩) [(2, 0xFFFFFFFF), (4, 1)] 1 true &&
      after (.iaddc ⟨0, 2, 0x048, 1, 3, 5, 0⟩) (withP1 (regs base [(3, 1)])) (fun t => reg t 1 == 2) &&
      gives (.isubb ⟨0, 2, 1, 0, 2, 4, 0⟩) [(4, 1)] 0 0xFFFFFFFF && givesPred (.isubb ⟨0, 2, 1, 0, 2, 4, 0⟩) [(4, 1)] 1 true = true := by decide

/-- R140, R141, R148: signed against unsigned; a combine with p1; the value selected. -/
theorem test_compare :
    givesPred (.icmp ⟨0, 1, 2, 2, 1, 3, 0⟩) [(1, 0xFFFFFFFF), (3, 1)] 2 true && givesPred (.icmp ⟨0, 2, 2, 2, 1, 3, 0⟩) [(1, 0xFFFFFFFF), (3, 1)] 2 false &&
      givesPred (.icmp ⟨0, 1, 0x10, 2, 1, 3, 1⟩) [] 2 false && givesPred (.icmpi ⟨0, 0, 0x12, 1, 0⟩) [(1, 0x80000000)] 2 true &&
      gives (.sel ⟨0, 0, 0, 4, 1, 2, 1⟩) [(1, 7), (2, 8)] 4 8 && gives (.mov ⟨0, 4, 0, 4, 2, 0, 0⟩) [(2, 7), (3, 8)] 5 8 = true := by decide

/-- R142: a logic table, and ANDN. -/
theorem test_logic :
    gives (.lop3 ⟨0, 0, 0xCA, 4, 1, 2, 3⟩) [(1, 0xFF00FF00), (2, 0x12345678), (3, 0x9ABCDEF0)] 4 0x12BC56F0 &&
      gives (.lop3 ⟨0, 0, 0xE8, 4, 1, 2, 3⟩) [(1, 0xF0), (2, 0xCC), (3, 0xAA)] 4 0xE8 && gives (.andn ⟨0, 0, 0x800, 4, 1, 0xF, 0⟩) [(1, 0xFF)] 4 0xF0 &&
      gives (.andOp ⟨0, 0, 0, 4, 1, 2, 0⟩) [(1, 0xFF), (2, 0x3C3)] 4 0xC3 && gives (.orOp ⟨0, 0, 0, 4, 1, 2, 0⟩) [(1, 0xF0), (2, 0x0C)] 4 0xFC &&
      gives (.xorOp ⟨0, 0, 0, 4, 1, 2, 0⟩) [(1, 0xF0), (2, 0x3C)] 4 0xCC &&
      gives (.andi ⟨0, 1, 4, 2, 0xFFFFFFFF⟩) [(2, 5), (3, 6)] 5 6 && gives (.ori ⟨0, 2, 4, 2, 0xFFFFFFFF⟩) [(3, 6)] 5 6 &&
      gives (.xori ⟨0, 0, 4, 2, 0xFF⟩) [(2, 0xF0)] 4 0xF = true := by decide

/-- R143, worked values: amounts of the width and more, a rotation past the width, the ends of FUNNEL, counts. -/
theorem test_shift :
    gives (.shl ⟨0, 0, 0x800, 4, 1, 32, 0⟩) [(1, 1)] 4 0 && gives (.shr ⟨0, 0, 0x800, 4, 1, 31, 0⟩) [(1, 0x80000000)] 4 1 &&
      gives (.shra ⟨0, 1, 0x800, 4, 1, 40, 0⟩) [(1, 0x80000000)] 4 0xFFFFFFFF && gives (.rotl ⟨0, 0, 0x800, 4, 1, 33, 0⟩) [(1, 0x80000001)] 4 3 &&
      gives (.funnel ⟨0, 0, 0, 4, 1, 2, 3⟩) [(1, 5), (2, 6), (3, 99)] 4 6 && gives (.funnel ⟨0, 0, 1, 4, 1, 2, 3⟩) [(1, 5), (2, 6), (3, 32)] 4 5 &&
      gives (.clz ⟨0, 4, 0, 4, 2, 0, 0⟩) [] 4 64 && gives (.popc ⟨0, 0, 0, 4, 1, 0, 0⟩) [(1, 0xF000000F)] 4 8 &&
      gives (.brev ⟨0, 0, 0, 4, 1, 0, 0⟩) [(1, 1)] 4 0x80000000 = true := by decide

/-- R144, R145, worked values. -/
theorem test_fields :
    gives (.bfi ⟨0, 0, 0x068, 4, 1, 2, 0⟩) [(1, 0xAAAAAAAA), (2, 5)] 4 0xAAAAA5AA && gives (.bfx ⟨0, 1, 0x0FC, 4, 1, 0, 0⟩) [(1, 0xF0000000)] 4 0xFFFFFFFF &&
      gives (.bfx ⟨0, 2, 0x400, 4, 1, 2, 0⟩) [(1, 0xF0000000), (2, 0x081C)] 4 0xF &&
      gives (.bperm ⟨0, 0, 0, 4, 1, 2, 3⟩) [(1, 0x44332211), (2, 0x88776655), (3, 0x0000F740)] 4 0xFF885511 = true := by decide

/-- R146, R147: predicates as numbers, and sign extension of an immediate. -/
theorem test_predicates_immediates :
    givesPred (.plop ⟨0, 0, 0x01, 3, 1, 2, 4⟩) [] 3 true && gives (.packp ⟨0, 0, 0, 4, 0, 0, 0⟩) [] 4 1 &&
      givesPred (.unpackp ⟨0, 0, 0x08, 0, 1, 0, 0⟩) [(1, 0xFF)] 3 true && givesPred (.unpackp ⟨0, 0, 0x08, 0, 1, 0, 0⟩) [(1, 0xFF)] 4 false &&
      gives (.movi ⟨0, 1, 4, 0, 0x80000000⟩) [] 5 0xFFFFFFFF && gives (.iaddi ⟨0, 2, 4, 2, 0xFFFFFFFF⟩) [(2, 1)] 5 1 &&
      gives (.imuli ⟨0, 0, 4, 2, 3⟩) [(2, 0x80000001)] 4 0x80000003 = true := by decide

/-- R149, worked values: conversion with and without saturation, and one element of a packed destination. -/
theorem test_cvti :
    gives (.cvti ⟨0, 1, 0x015, 4, 2, 0, 0⟩) [(3, 1)] 4 0x7FFFFFFF && gives (.cvti ⟨0, 1, 0x005, 4, 2, 0, 0⟩) [(3, 1)] 4 0 &&
      gives (.cvti ⟨0, 9, 0x081, 4, 2, 0, 0⟩) [(2, 0x12345), (4, 0x11112222)] 4 0x23452222 = true := by decide

/-! ## Floating point -/

/-- R153, R154, worked values. -/
theorem test_float_arithmetic :
    gives (.fadd ⟨0, 3, 0, 4, 1, 2, 0⟩) [(1, 0x3F800000), (2, 0x33800000)] 4 0x3F800000 &&
      gives (.fadd ⟨0, 3, 3, 4, 1, 2, 0⟩) [(1, 0x3F800000), (2, 0x33800000)] 4 0x3F800001 &&
      gives (.fsub ⟨0, 3, 0, 4, 1, 2, 0⟩) [(1, 0x7F800000), (2, 0x7F800000)] 4 0x7FC00000 &&
      gives (.fmul ⟨0, 3, 0, 4, 1, 2, 0⟩) [(1, 0x0D800000), (2, 0x27000000)] 4 1 &&
      gives (.fdiv ⟨0, 3, 0, 4, 1, 2, 0⟩) [(1, 0xBF800000)] 4 0xFF800000 && gives (.fsqrt ⟨0, 3, 0, 4, 1, 0, 0⟩) [(1, 0x80000000)] 4 0x80000000 &&
      gives (.fsqrt ⟨0, 3, 0, 4, 1, 0, 0⟩) [(1, 0xBF800000)] 4 0x7FC00000 && gives (.fmin ⟨0, 3, 0, 4, 1, 2, 0⟩) [(1, 0x7FC00000), (2, 0x40000000)] 4 0x40000000 &&
      gives (.fmax ⟨0, 3, 0, 4, 1, 2, 0⟩) [(1, 0x80000000), (2, 0)] 4 0 = true := by decide

/-- R78, R166: two FFMA in sequence each round to even, so the second gives 1.0 as the first did; FADDI and FMULI. -/
theorem test_float_fused :
    gives (.ffma ⟨0, 3, 0, 4, 1, 2, 3⟩) [(1, 0x39800000), (2, 0x39800000), (3, 0x3F800000)] 4 0x3F800000 &&
      gives (.faddi ⟨0, 0, 4, 3, 0x3F800000⟩) [(3, 0x3F800000)] 4 0x40000000 && gives (.fmuli ⟨0, 0, 4, 3, 0x7F800000⟩) [] 4 0x7FC00000 = true := by decide

/-- R155, R156, R157, worked values. -/
theorem test_float_tests :
    givesPred (.fcmp ⟨0, 3, 0, 2, 1, 1, 0⟩) [(1, 0x7FC00000)] 2 false && givesPred (.fcmp ⟨0, 3, 1, 2, 1, 1, 0⟩) [(1, 0x7FC00000)] 2 true &&
      gives (.frnd ⟨0, 3, 0, 4, 1, 0, 0⟩) [(1, 0xC0200000)] 4 0xC0000000 && gives (.frnd ⟨0, 3, 1, 4, 1, 0, 0⟩) [(1, 0xC0200000)] 4 0xC0000000 &&
      gives (.frnd ⟨0, 3, 2, 4, 1, 0, 0⟩) [(1, 0xC0200000)] 4 0xC0400000 && gives (.frnd ⟨0, 3, 3, 4, 1, 0, 0⟩) [(1, 0xC0200000)] 4 0xC0000000 = true := by decide

/-- R152, R158, worked values: an approximation is exact where the value is representable. -/
theorem test_approximations :
    gives (.frcp ⟨0, 3, 0, 4, 1, 0, 0⟩) [(1, 0x40800000)] 4 0x3E800000 && gives (.fex2 ⟨0, 3, 0, 4, 1, 0, 0⟩) [(1, 0xBF800000)] 4 0x3F000000 &&
      gives (.flg2 ⟨0, 3, 0, 4, 1, 0, 0⟩) [(1, 0x80000000)] 4 0xFF800000 && gives (.frsq ⟨0, 3, 0, 4, 1, 0, 0⟩) [(1, 0x40800000)] 4 0x3F000000 = true := by decide

/-- R159, the worked value of FRED: n = 1, q = 1, r = 0x333BBD2E. -/
theorem test_fred : gives (.fred ⟨0, 3, 0, 4, 1, 0, 0⟩) [(1, 0x3FC90FDB)] 4 0x333BBD2E = true := by decide +kernel

/-- R160 to R162, worked value: HADD2 of 1.0 and 2^-8 in BF16; HMNX2, HMUL2, HFMA2 and FDOT2 on small numbers. -/
theorem test_packed_float :
    gives (.hadd2 ⟨0, 8, 0, 4, 1, 2, 0⟩) [(1, 0x3F80), (2, 0x3B80)] 4 0x3F80 && gives (.hadd2 ⟨0, 8, 3, 4, 1, 2, 0⟩) [(1, 0x3F80), (2, 0x3B80)] 4 0x3F81 &&
      gives (.hmul2 ⟨0, 7, 0, 4, 1, 2, 0⟩) [(1, 0x40003C00), (2, 0x40003C00)] 4 0x44003C00 &&
      gives (.hfma2 ⟨0, 7, 0, 4, 1, 2, 3⟩) [(1, 0x3C00), (2, 0x3C00), (3, 0x3C00)] 4 0x4000 &&
      gives (.hmnx2 ⟨0, 7, 4, 4, 1, 2, 0⟩) [(1, 0x3C00), (2, 0x4000)] 4 0x4000 &&
      gives (.fdot2 ⟨0, 7, 0, 4, 1, 2, 3⟩) [(1, 0x3C003C00), (2, 0x40003C00), (3, 0x3F800000)] 4 0x40800000 = true := by decide

/-- R70, R163, R164, worked values. -/
theorem test_convert :
    gives (.cvt ⟨0, 8, 0x018, 4, 1, 0, 0⟩) [(1, 0x3EAAAAAB)] 4 0x3EAB && gives (.cvt ⟨0, 8, 0x019, 4, 1, 0, 0⟩) [(1, 0x3EAAAAAB)] 4 0x3EAA &&
      gives (.cvt ⟨0, 7, 0x018, 4, 1, 0, 0⟩) [(1, 0x477FF000)] 4 0x7C00 && gives (.cvt ⟨0, 3, 0x040, 4, 1, 0, 0⟩) [(1, 0x3F80)] 4 0x3F800000 &&
      gives (.cvt ⟨0, 1, 0x018, 4, 1, 0, 0⟩) [(1, 0x4F000000)] 4 0x7FFFFFFF && gives (.cvt ⟨0, 1, 0x018, 4, 1, 0, 0⟩) [(1, 0xC0200000)] 4 0xFFFFFFFE &&
      gives (.cvt ⟨0, 1, 0x01A, 4, 1, 0, 0⟩) [(1, 0xC0200000)] 4 0xFFFFFFFD && gives (.cvt ⟨0, 2, 0x018, 4, 1, 0, 0⟩) [(1, 0xBF800000)] 4 0 &&
      gives (.pack2 ⟨0, 8, 0, 4, 1, 2, 0⟩) [(1, 0x3F800000), (2, 0x40000000)] 4 0x40003F80 &&
      gives (.unpack2 ⟨0, 8, 0, 4, 1, 0, 0⟩) [(1, 0x40003F80)] 5 0x40000000 = true := by decide

/-- R165, the worked value: TRICV.tri16.f32.sc of 0.1 with e = 113. -/
theorem test_tricv : gives (.tricv ⟨0, 0, 0x024, 4, 1, 2, 0⟩) [(1, 0x3DCCCCCD), (2, 113)] 4 0x00DA = true := by decide

/-- R71, R72, worked values of the residue formats, and the canonical NaN. -/
theorem test_residues : triVal false 0xDE = some (-1) ∧ triVal true 0xDD08 = some 1000 ∧ triVal false 0xFF = none := by decide

/-! ## Groups of lanes -/

/-- Lanes 0, 1 and 2 hold a word each in v4. -/
def trio (a b c : Word) : State :=
  let l := base.lane 0
  ((base.setLane 0 { l with regs := [(4, a)] }).setLane 1 { l with regs := [(4, b)], tid := 1 }).setLane 2 { l with regs := [(4, c)], tid := 2 }

/-- Register `d` of the three lanes after one instruction that they execute together. -/
def trioGives (i : Instr) (s : State) (d : Nat) (x : List Nat) : Bool :=
  match exec i (s.withCur 0 0 { oneClause with mask := 7 } (encode i)) with
  | .next t => ([0, 1, 2].map fun k => ((t.lane k).regs.getD d 0).toNat) == x
  | _ => false

/-- R191, the worked value: one rounding of 1.0 + 2^-24 + 2^-24. -/
theorem test_gredux : trioGives (.gredux ⟨0, 3, 0, 5, 4, 0, 0⟩) (trio 0x3F800000 0x33800000 0x33800000) 5 [0x3F800001, 0x3F800001, 0x3F800001] = true := by
  decide

/-- R184 to R192: a ballot of bit 0, shuffles, a match, a scan, and the active mask. -/
theorem test_cross_lane :
    trioGives (.ballot ⟨0, 0, 0x804, 5, 4, 0, 0⟩) (trio 1 2 3) 5 [5, 5, 5] && trioGives (.actmask ⟨0, 0, 0, 6, 0, 0, 0⟩) (trio 1 2 3) 6 [7, 7, 7] &&
      trioGives (.shflx ⟨0, 0, 0x800, 5, 4, 1, 0⟩) (trio 1 2 3) 5 [2, 1, 3] && trioGives (.matchOp ⟨0, 0, 0, 6, 4, 0, 0⟩) (trio 9 8 9) 6 [5, 2, 5] &&
      trioGives (.gscan ⟨0, 2, 0, 5, 4, 0, 0⟩) (trio 1 2 3) 5 [1, 3, 6] && givesPred (.vote ⟨0, 0, 0, 5, 0, 0, 0⟩) [] 5 true &&
      trioGives (.pswap ⟨0, 0, 0, 5, 4, 0, 0⟩) (trio 0x12345678 0 0) 5 [0x56781234, 0, 0] = true := by decide

/-! ## Control transfers, traps and team instructions -/

/-- R177, R178: a branch goes to the header at H + 8 × OFF32, CALL leaves a sealed return capability, EXIT ends the lane. -/
theorem test_transfers :
    after (.bra ⟨0, 0, 0, 0, 0xFFFFFFFA⟩) base (fun t => (t.lane 0).pc == 0x0FD0) &&
      after (.brx ⟨0, 0, 0, 0, 8, 0, 0⟩) (regs base [(8, 0x1F00)]) (fun t => (t.lane 0).pc == 0x1F00) &&
      after (.call ⟨0, 0, 0, 8, 4⟩) base (fun t => (t.lane 0).pc == 0x1020 && reg t 8 == 0x1010) &&
      after (.ret ⟨0, 0, 0, 0, 8, 0, 0⟩) (regs base [(8, 0x1100)]) (fun t => (t.lane 0).pc == 0x1100) &&
      after (.exit ⟨0, 0, 0, 0, 0, 0, 0⟩) base (fun t => (t.lane 0).state == .exited) = true := by decide +kernel

/-- R181, R366, R370: TRAP records code 6 with its immediate and the address; with no handler the lane is SUSPENDED. -/
theorem test_trap :
    after (.trap ⟨0, 0, 0, 0, 0x2A⟩) base (fun t => (t.lane 0).fault.code == 6 && (t.lane 0).fault.info == 0x2A &&
      (t.lane 0).fault.pc == 0x1008 && (t.lane 0).state == .suspended) &&
      after (.brk ⟨0, 0, 0, 0, 1⟩) base (fun t => (t.lane 0).fault.code == 5 && (t.lane 0).fault.seq == 1) = true := by decide

/-- R43: SWEEP outside colour 0 raises PRIV. -/
theorem test_privilege : after (.sweep ⟨0, 0, 4, 0, 0⟩) (colour base 1) (fun t => (t.lane 0).fault.code == 4 && t.sweepCur == 0) = true := by decide

/-- R131 to R133: LANE, ARCHLEVEL and the grid are read; FPMODE keeps bit 0; a scratch word keeps all. -/
theorem test_special_registers :
    gives (.sread ⟨0, 0x15, 4, 0, 0⟩) [] 4 1 && gives (.sread ⟨0, 7, 4, 0, 0⟩) [] 4 1 && gives (.sread ⟨0, 1, 4, 0, 0⟩) [(4, 9)] 4 0 &&
      after (.swrite ⟨0, 0x30, 0, 0x140, 3⟩) base (fun t => (t.team 1).fpmode == 1) &&
      after (.swrite ⟨0, 0x41, 0, 8, 0⟩) (regs base [(8, 0xFFFFFFFF)]) (fun t => (t.team 1).scratch.getD 1 0 == 0xFFFFFFFF) = true := by decide

/-- R193, R202: REGROUP puts the thread to sleep with its key; RGQUERY reads where the last one placed it. -/
theorem test_regroup :
    after (.regroup ⟨0, 0, 0, 0, 8, 0, 0⟩) (regs base [(8, 7)]) (fun t => (t.lane 0).arrival == some ⟨1, 7⟩) &&
      after (.rgquery ⟨0, 0, 1, 4, 0, 0, 0⟩) (base.setLane 0 { base.lane 0 with rg := ⟨9, 5, 6, 7⟩ }) (fun t => reg t 4 == 5) = true := by decide

/-- R216 to R219: a barrier of one arrival completes at once and its phase flips; BWAIT on the phase that ended goes on. -/
theorem test_barrier :
    after (.binit ⟨0, 0, 3, 0, 0, 4, 8, 0, 0⟩) (regs base [(8, 1)]) (fun t => t.mem.nat (padBase + 48) 16 == 256) &&
      after (.barv ⟨0, 0, 3, 0, 0, 4, 0, 0, 0⟩) (word base (padBase + 48) 16 256) (fun t => t.mem.nat (padBase + 48) 16 == 257) &&
      after (.btest ⟨0, 0, 3, 0, 0, 4, 8, 0, 0⟩) (word base (padBase + 48) 16 257) (fun t => (t.lane 0).preds.getLsbD 4) &&
      after (.bwait ⟨0, 0, 3, 0, 0, 0, 8, 0, 0⟩) (word base (padBase + 48) 16 256) (fun t => (t.lane 0).state == .asleep false) = true := by
  decide +kernel

/-- R221, R222: CVINIT arms a convergence register for the lanes of its mask. -/
theorem test_convergence :
    after (.cvinit ⟨0, 0, 3, 0, 0, 4, 8, 0, 0⟩) (regs base [(8, 1)]) (fun t => (t.cv 1 3).state == .armed && (t.cv 1 3).set == 1) &&
      after (.cvdropFree ⟨0, 1, 3, 0, 0, 4, 0, 0, 0⟩) (cvAs base .armed 0 1) (fun t => (t.cv 1 3).state == .free) = true := by decide

/-! ## Memory -/

/-- R38, R251: a signed halfword load, and a byte store, in the team's pad. -/
theorem test_pad_access :
    after (.ld ⟨0, 3, 0, 0, 0, 0, 0, 0, 4, 8, 0x140, 0⟩) (word (with8 base padAt) (padBase + 0x200) 2 0x8001) (fun t => reg t 4 == 0xFFFF8001) &&
      after (.ld ⟨0, 2, 0, 0, 0, 0, 0, 0, 4, 8, 0x140, 0x1FF⟩) (word (with8 base padAt) (padBase + 0x1FE) 2 0x8001) (fun t => reg t 4 == 0x8001) &&
      after (.st ⟨0, 0, 0, 0, 0, 0, 0, 0, 4, 8, 0x140, 1⟩) (with8 base padAt [(4, 0x1234)]) (fun t => t.mem.nat (padBase + 0x200) 4 == 0x3400) = true := by
  decide

/-- R257, R258: ATOM.add and ACAS in the pad give the old value. -/
theorem test_atomics :
    after (.atom ⟨0, 4, 1, 1, 0, 0, 0, 0, 4, 8, 5, 0⟩) (word (with8 base padAt [(5, 0xFFFFFFFF)]) (padBase + 0x200) 4 3)
      (fun t => reg t 4 == 3 && t.mem.nat (padBase + 0x200) 4 == 2) = true := by decide

/-- R252, R89, R90: a misaligned access raises ALIGN, one past the bounds CAP_BOUNDS, one through an untagged quad CAP_TAG. -/
theorem test_access_faults :
    after (.ld ⟨0, 4, 0, 0, 0, 0, 0, 0, 4, 8, 5, 0⟩) (with8 base page [(5, 2)]) (fun t => (t.lane 0).fault.code == 0x20) &&
      after (.ld ⟨0, 4, 0, 0, 0, 0, 0, 0, 4, 8, 5, 0⟩) (with8 base page [(5, 4096)]) (fun t => (t.lane 0).fault.code == 0x15) &&
      after (.st ⟨0, 4, 0, 0, 0, 0, 0, 0, 4, 8, 5, 0⟩) base (fun t => (t.lane 0).fault.code == 0x10) = true := by decide

/-! ## Capabilities -/

/-- The worked capability: 100,000 bytes at 0x12_3456_7010. -/
def worked : Quad := Cap.toQuad ⟨0, 3, 1, 2, 0x1C04, 0x7DAC, 0x1234567010⟩

/-- R84, R86, the worked encoding: base, top, and the three cursors. -/
theorem test_capability_bounds :
    (Cap.ofQuad worked).base = 0x1234567010 ∧ (Cap.ofQuad worked).top = 0x123457F6B0 ∧
      ((Cap.ofQuad worked).setCursor 0x12345844D0).2 = true ∧ ((Cap.ofQuad worked).setCursor 0x1234587010).2 = false ∧
      ((Cap.ofQuad worked).setCursor 0x1234567000).2 = false := by decide

/-- R96, R102, the worked values: 100,001 bytes of a wide capability are rounded inward to 100,000, and .exact clears the tag; CALIGN.rlen
gives 100,004. -/
theorem test_set_bounds :
    let wide := Cap.make Kind.data 0 3 0 (2 ^ 40) 0x1234567010
    after (.csetb ⟨0, 4, 0, 4, 8, 0x30, 0⟩) (with8 base wide [(0x30, 100001)]) (fun t => t.quad 0 4 == (Cap.toQuad
      { Cap.ofQuad wide with exp := 2, basem := 0x1C04, topm := 0x7DAC, cur := 0x1234567010 }, true)) &&
      after (.csetb ⟨0, 4, 1, 4, 8, 0x30, 0⟩) (with8 base wide [(0x30, 100001)]) (fun t => !(t.quad 0 4).2) &&
      gives (.calign ⟨0, 4, 2, 4, 8, 0, 0⟩) [(8, 100001)] 4 100004 && gives (.calign ⟨0, 4, 3, 4, 8, 0, 0⟩) [(8, 100001)] 4 0xFFFFFFFC = true := by
  decide

/-- R95, R97 to R101: fields, permissions, tests and tags. -/
theorem test_capability_fields :
    after (.cget ⟨0, 4, 3, 4, 8, 0, 0⟩) (with8 base page) (fun t => reg t 4 == 4096) &&
      after (.cget ⟨0, 0, 9, 4, 8, 0, 0⟩) (with8 base page) (fun t => reg t 4 == 1) &&
      after (.candp ⟨0, 0, 0, 4, 8, 0x30, 0⟩) (with8 base page [(0x30, 1)]) (fun t => (Cap.ofQuad (t.quad 0 4).1).perm == 1 && (t.quad 0 4).2) &&
      after (.ctest ⟨0, 0, 0x811, 4, 8, 1, 0⟩) (with8 base page) (fun t => reg t 4 == 0x12) &&
      after (.cclr ⟨0, 0, 0, 4, 8, 0, 0⟩) (with8 base page) (fun t => t.quad 0 4 == (page, false)) &&
      after (.cmovq ⟨0, 0, 0, 4, 8, 0, 0⟩) (with8 base page) (fun t => t.quad 0 4 == (page, true)) &&
      after (.ceq ⟨0, 0, 0, 4, 8, 12, 0⟩) (with8 base page (quadRegs 3 page)) (fun t => reg t 4 == 0) &&
      after (.csub ⟨0, 5, 0, 4, 8, 12, 0⟩) (with8 base page [(12, 0xFFFF)]) (fun t => reg t 4 == 1) &&
      after (.cadd ⟨0, 5, 0x800, 4, 8, 272, 0⟩) (with8 base page) (fun t => reg t 4 == 0x10110) = true := by decide

/-! ## Queues, launches, the system -/

/-- R320, R321: a full queue refuses, an open one takes and gives back. -/
theorem test_queues :
    after (.qput ⟨0, 0, 0, 4, 8, 0x30, 0⟩) (queued 2 .opened []) (fun t => reg t 4 == 0 && ((t.queues.get? 0).map (·.msgs.length)) == some 1) &&
      after (.qput ⟨0, 0, 0, 4, 8, 0x30, 0⟩) (queued 2 .opened [[], []]) (fun t => reg t 4 == 1) &&
      after (.qget ⟨0, 0, 0, 4, 8, 0x30, 0⟩) (queued 2 .opened [[(5, false)]]) (fun t => reg t 4 == 0 && reg t 0x30 == 5) = true := by decide

/-- R117, R118, R350, R391: a pass starts as pass 1; a context that does not exist; a frame number past the table. -/
theorem test_system :
    after (.sweep ⟨0, 0, 4, 0, 0⟩) base (fun t => reg t 4 == 1 && t.sweepCur == 1 && t.sweepDone == 0) &&
      gives (.ctxgateState ⟨0, 2, 4, 8, 0⟩) [(8, 1)] 4 0 && gives (.ctxgateState ⟨0, 2, 4, 8, 0⟩) [(8, 1024)] 4 0xFFFFFFFF &&
      gives (.fstget ⟨0, 0, 0, 4, 0, 0x30, 0⟩) [(0x30, 655360)] 5 0xFFFFFFFF && gives (.ctxgateGate ⟨0, 0, 4, 8, 0⟩) [] 4 3 = true := by decide

/-- R390: frame 1 from FREE to OWNED by colour 1, then not from OWNED to LENT. -/
theorem test_fstset :
    let own := Fst.mk 0 0 0 false false 1 Fst.owned
    after (.fstset ⟨0, 0, 0, 4, 8, 0x30, 0⟩) (regs base [(8, own.extractLsb' 0 32), (9, own.extractLsb' 32 32), (0x30, 1)])
      (fun t => reg t 4 == 0 && frameEntry t.frames 1 == own) &&
      after (.fstset ⟨0, 0, 0, 4, 8, 0x30, 0⟩) (regs (frame1 base Fst.owned) [(8, BitVec.ofNat 32 Fst.lent), (0x30, 1)]) (fun t => reg t 4 == 2) =
        true := by decide

/-- R394, the worked value: TBOUND of a 64-frame extent. -/
theorem test_lease_bound : leaseBound 64 = 6677722 := by decide

/-- The word that is fetched is the one executed: IADD v1 := v2 + 5, one step from a placed team. -/
theorem test_step :
    (match step (State.reset.withFetchWord 64 0x1001800008080A00) with | .next t => reg t 1 == 5 | _ => false) = true := by decide

/-- R379, R113, R425: after reset every frame is FREE, no grant is valid, the part is booting. -/
theorem test_reset : frameEntry State.reset.frames 7 = 0 ∧ (State.reset.grant 5).valid = false ∧ State.reset.bootstat = 0 := by decide

/-! ## The cryptographic functions the manual names: published vectors -/

/-- R103: AES-256, the example of FIPS 197, appendix C.3. -/
theorem test_aes256 : beNat (aes256 ((List.range 32).map (BitVec.ofNat 8)) ((List.range 16).map fun k => BitVec.ofNat 8 (17 * k))) =
    0x8EA2B7CA516745BFEAFC49904B496089 := by decide +kernel

/-- R131: SHAKE256 of no bytes (FIPS 202). -/
theorem test_shake256 : beNat (shake256 []) = 0x46B9DD2B0BA88D13233B3FEB743EEB243FCD52EA62B81B82B50C27646ED5762F := by decide +kernel

/-- R103: the tag of the first example of 16 bytes in RFC 8452, appendix C.2. -/
theorem test_siv_tag : beNat (sivTag (1 :: List.replicate 31 0) (3 :: List.replicate 11 0) (1 :: List.replicate 15 0)) =
    0xC9EAC6FA700942702E90862383C6C366 := by decide +kernel

end Sys2Proof.Tests
end

section
/-! The logic instructions and LOP3 (R142) and the dot product IDOT4 (R139). -/

namespace Sys2Proof.Machine

/-! ## Bits and bytes of registers -/

/-- A number put together bit by bit from the lowest up stays below the next power of two. -/
theorem foldl_setBit_lt (p : Nat → Bool) (n : Nat) :
    (List.range n).foldl (fun x i => if p i then x + 2 ^ i else x) 0 < 2 ^ n := by
  induction n with
  | zero => simp
  | succ n ih =>
    rw [List.range_succ, List.foldl_append, List.foldl_cons, List.foldl_nil]
    split <;> omega

/-- Bit `k` of a number put together bit by bit is the bit that was put there. -/
theorem testBit_foldl_setBit (p : Nat → Bool) (n k : Nat) :
    ((List.range n).foldl (fun x i => if p i then x + 2 ^ i else x) 0).testBit k = (decide (k < n) && p k) := by
  induction n with
  | zero => simp
  | succ n ih =>
    rw [List.range_succ, List.foldl_append, List.foldl_cons, List.foldl_nil]
    -- bit `n` is clear in the number so far, so that adding 2^n sets it and leaves the others
    have hor := Nat.two_pow_add_eq_or_of_lt (foldl_setBit_lt p n) 1
    rw [mul_one, Nat.add_comm] at hor
    cases hp : p n with
    | true =>
      rw [if_pos rfl, hor, Nat.testBit_or, ih, Nat.testBit_two_pow]
      grind
    | false =>
      rw [if_neg (by decide), ih]
      grind

/-- A two's complement reading of the bits of a word is its signed value (R61). -/
theorem toSigned_toNat {w : Nat} (hw : 0 < w) (x : BitVec w) : toSigned w x.toNat = x.toInt := by
  have hpow : 2 ^ w = 2 * 2 ^ (w - 1) := (mul_pow_sub_one hw.ne' 2).symm
  have hneg : x.toNat < 2 ^ (w - 1) ↔ 2 * x.toNat < 2 ^ w := by omega
  simp only [toSigned, hneg, BitVec.toInt_eq_toNat_cond, Nat.cast_pow, Nat.cast_ofNat]

/-- Element `k` of width `w` of a register is the slice of its bits from `w * k` on (R36). -/
theorem elemU_toNat (r : Word) (w k : Nat) : elemU w r.toNat k = (r.extractLsb' (w * k) w).toNat := by
  rw [elemU, BitVec.extractLsb'_toNat, Nat.shiftRight_eq_div_pow]

/-- Element `k` of a register of an 8-bit type is its byte `k`, signed for .s8x4 and unsigned for .z8x4 (R36, R135). -/
theorem elemOf_byte {ty : Nat} (hty : ty = 11 ∨ ty = 12) (r : Word) (k : Nat) :
    elemOf ty r.toNat k =
      if ty = 11 then (r.extractLsb' (8 * k) 8).toInt else ((r.extractLsb' (8 * k) 8).toNat : Int) := by
  have hw : elemWidth ty = 8 := by rcases hty with rfl | rfl <;> rfl
  simp only [elemOf, hw, elemU_toNat, toSigned_toNat (w := 8) (by decide)]
  rcases hty with rfl | rfl <;> rfl

/-- No lane type is wider than 64 bits (R36). -/
theorem elemWidth_le (ty : Nat) : elemWidth ty ≤ 64 := by
  unfold elemWidth
  split_ifs <;> omega

/-- The table of R142 and R146, by the number that the three bits form. -/
theorem table3_modBits (m : BitVec 12) (a b c : Bool) :
    table3 (modBits m 7 0) a b c = m.getLsbD (4 * a.toNat + 2 * b.toNat + c.toNat) := by
  have hlt : 4 * a.toNat + 2 * b.toNat + c.toNat < 8 := by cases a <;> cases b <;> cases c <;> decide
  have hidx : (if a then 4 else 0) + (if b then 2 else 0) + (if c then 1 else 0) = 4 * a.toNat + 2 * b.toNat + c.toNat := by
    cases a <;> cases b <;> cases c <;> rfl
  rw [table3, hidx, modBits, pow_zero, Nat.div_one, Nat.testBit_mod_two_pow, BitVec.testBit_toNat]
  simp [hlt]

/-! ## Operands of a counted instruction -/

@[simp] theorem counted_raw (s : State) (i : Instr) (lk ty : Nat) (f : BitVec 9) : (s.counted i).raw lk ty f = s.raw lk ty f := rfl
@[simp] theorem counted_rawB (s : State) (i : Instr) (lk : Nat) (f : FmtT) : (s.counted i).rawB lk f = s.rawB lk f := rfl

/-- An instruction without a decode fault breaks no rule that ranks ILLEGAL (R34, R46). -/
theorem State.Clear.legal {s : State} {i : Instr} (h : s.Clear i) : (form i).legal = true := by
  obtain ⟨hdec, -⟩ := h
  by_contra hl
  have hill : s.illegalHere i = true := by simp [State.illegalHere, Bool.eq_false_iff.2 hl]
  simp [State.decodeCheck, hill] at hdec

/-- IDOT4 is legal for the types .s8x4 and .z8x4 alone (R136). -/
theorem idot4_ty_of_legal {f : FmtT} (h : (form (.idot4 f)).legal = true) : f.ty.toNat = 11 ∨ f.ty.toNat = 12 := by
  have hok : (shT f [11, 12] 0x001 true (.dst 1) (.src 1) (.src 1) (.src 1)).ok = true := (Bool.and_eq_true_iff.1 h).1
  simp only [shT, Bool.and_eq_true] at hok
  obtain ⟨⟨hty, -⟩, -⟩ := hok
  simpa using hty

/-! ## The logic instructions (R142) -/

/-- A bitwise operation that computes each bit by `g` gives the result with the bits that `g` gives of the operands' bits. -/
theorem bitsLane_gives {i : Instr} {f : FmtT} {s : State} {op : DWord → DWord → DWord} {g : Bool → Bool → Bool}
    (hx : exec i s = laneInstr i (bitsLane f op) s) (hc : s.Clear i)
    (hop : ∀ (x y : DWord) (k : Nat), k < 64 → (op x y).getLsbD k = g (x.getLsbD k) (y.getLsbD k)) :
    ∃ v : Nat → Nat, Gives i s (fun lk => put f.d (tyRegs f.ty.toNat) (v lk)) ∧
      ∀ lk k, k < elemWidth f.ty.toNat →
        (v lk).testBit k = g ((s.raw lk f.ty.toNat f.a).testBit k) ((s.rawB lk f).testBit k) := by
  refine ⟨_, laneInstr_gives hx hc fun lk _ => rfl, fun lk k hk => ?_⟩
  have hk64 : k < 64 := hk.trans_le (elemWidth_le _)
  rw [BitVec.testBit_toNat, hop _ _ k hk64]
  simp only [BitVec.getLsbD_ofNat, hk64, decide_true, Bool.true_and, counted_raw, counted_rawB]

/-- LOP3 gives the result whose bits are the entries of the table in MOD[7:0]. -/
theorem lop3_gives {f : FmtT} {s : State} (hc : s.Clear (.lop3 f)) :
    ∃ v : Nat → Nat, Gives (.lop3 f) s (fun lk => put f.d (tyRegs f.ty.toNat) (v lk)) ∧
      ∀ lk k, k < elemWidth f.ty.toNat → (v lk).testBit k =
        f.mod.getLsbD (4 * ((s.raw lk f.ty.toNat f.a).testBit k).toNat + 2 * ((s.raw lk f.ty.toNat f.b).testBit k).toNat +
          ((s.raw lk f.ty.toNat f.c).testBit k).toNat) := by
  refine ⟨_, laneInstr_gives (f := lop3Lane f) rfl hc fun lk _ => rfl, fun lk k hk => ?_⟩
  rw [testBit_foldl_setBit, table3_modBits]
  simp [hk]

/-- Settles O2: each logic instruction is a bitwise operation of its own bit function, and LOP3 its table. -/
theorem logicBits : Obligations.LogicBits :=
  ⟨fun _ _ hc => bitsLane_gives (g := and) rfl hc fun x y k _ => BitVec.getLsbD_and,
    fun _ _ hc => bitsLane_gives (g := or) rfl hc fun x y k _ => BitVec.getLsbD_or,
    fun _ _ hc => bitsLane_gives (g := bne) rfl hc fun x y k _ => BitVec.getLsbD_xor,
    fun _ _ hc => bitsLane_gives (g := fun a b => a && !b) rfl hc fun x y k hk => by simp [hk],
    fun _ _ hc => lop3_gives hc,
    rfl⟩

/-! ## The dot product (R139) -/

/-- Settles O5: the elements of the two legal types are the bytes of the registers, and the sum runs over the four. -/
theorem dotProduct : Obligations.DotProduct := by
  intro f s hc
  have hty := idot4_ty_of_legal hc.legal
  refine laneInstr_gives (f := idot4Lane f) rfl hc fun lk _ => ?_
  have hsum (g : Nat → Int) (c : Int) : (List.range 4).foldl (fun x k => x + g k) c = c + g 0 + g 1 + g 2 + g 3 := rfl
  simp only [idot4Lane, okReg, counted_reg1, hsum, elemOf_byte hty, sat]
  cases f.mod.getLsbD 0 with  -- MOD[0] is .sat
  | true => rfl
  | false => rfl

end Sys2Proof.Machine
end

section
/-! The classes of floating-point patterns: FCLASS (R156). -/

namespace Sys2Proof.Machine

/-! ## A pattern by its fields (R64) -/

/-- The pattern of a format with sign `neg`, exponent field `e` and fraction `m` (R64). -/
def FFmt.pattern (f : FFmt) (neg : Bool) (e m : Nat) : Nat := f.signBit * neg.toNat + (2 ^ f.fb * e + m)

/-- The exponent field and the fraction of a pattern fill the bits below its sign. -/
theorem FFmt.magnitude_lt_signBit (f : FFmt) {e m : Nat} (he : e < 2 ^ f.eb) (hm : m < 2 ^ f.fb) :
    2 ^ f.fb * e + m < f.signBit :=
  calc 2 ^ f.fb * e + m < 2 ^ f.fb * (e + 1) := by rw [mul_add_one]; omega
    _ ≤ 2 ^ f.fb * 2 ^ f.eb := Nat.mul_le_mul_left _ he
    _ = f.signBit := by rw [FFmt.signBit, pow_add, mul_comm]

/-- Below the largest exponent field, a pattern without its sign is less than that of the infinity. -/
theorem FFmt.magnitude_lt_infBits (f : FFmt) {e m : Nat} (he : e < 2 ^ f.eb - 1) (hm : m < 2 ^ f.fb) :
    2 ^ f.fb * e + m < f.infBits :=
  calc 2 ^ f.fb * e + m < 2 ^ f.fb * (e + 1) := by rw [mul_add_one]; omega
    _ ≤ 2 ^ f.fb * (2 ^ f.eb - 1) := Nat.mul_le_mul_left _ he
    _ = f.infBits := mul_comm _ _

/-- The value of a pattern by its fields (R64, R66). -/
theorem FFmt.val_pattern (f : FFmt) (neg : Bool) {e m : Nat} (he : e < 2 ^ f.eb) (hm : m < 2 ^ f.fb) :
    f.val (f.pattern neg e m) =
      if e = 2 ^ f.eb - 1 then (if m = 0 then .inf neg else .nan)
      else if e = 0 then .fin neg m f.emin
      else .fin neg (m + 2 ^ f.fb) (f.emin + (e - 1 : Nat)) := by
  have hx := f.magnitude_lt_signBit he hm
  have hneg : f.pattern neg e m / f.signBit % 2 = neg.toNat := by
    rw [FFmt.pattern, Nat.mul_add_div (by omega), Nat.div_eq_of_lt hx]
    cases neg <;> rfl
  have hmag : f.pattern neg e m % f.signBit = 2 ^ f.fb * e + m := by
    rw [FFmt.pattern, Nat.mul_add_mod, Nat.mod_eq_of_lt hx]
  have hexp : (2 ^ f.fb * e + m) / 2 ^ f.fb = e := by
    rw [Nat.mul_add_div (by omega), Nat.div_eq_of_lt hm, add_zero]
  have hfrac : (2 ^ f.fb * e + m) % 2 ^ f.fb = m := by rw [Nat.mul_add_mod, Nat.mod_eq_of_lt hm]
  simp only [FFmt.val, hneg, hmag, hexp, hfrac, Bool.toNat_eq_one, Bool.decide_eq_true]
  by_cases hmax : e = 2 ^ f.eb - 1
  · have hinf : 2 ^ f.fb * e = f.infBits := by rw [hmax, FFmt.infBits, mul_comm]
    rw [hinf, if_pos hmax]
    by_cases hm0 : m = 0
    · simp [hm0]
    · simp [hm0, Nat.pos_of_ne_zero hm0]
  · have hlt : 2 ^ f.fb * e + m < f.infBits := f.magnitude_lt_infBits (by omega) hm
    rw [if_neg hlt.le.not_gt, if_neg hlt.ne, if_neg hmax]

/-- The bit number of FCLASS by the fields of the pattern (R156): the significand of a subnormal lies below the hidden bit,
and that of a normal number has it. -/
theorem FFmt.classBit_pattern (f : FFmt) (neg : Bool) {e m : Nat} (he : e < 2 ^ f.eb) (hm : m < 2 ^ f.fb) :
    f.classBit (f.pattern neg e m) =
      if e = 2 ^ f.eb - 1 ∧ m ≠ 0 then 8
      else if e = 2 ^ f.eb - 1 then (if neg then 0 else 7)
      else if e = 0 ∧ m = 0 then (if neg then 3 else 4)
      else if e = 0 then (if neg then 2 else 5)
      else if neg then 1 else 6 := by
  rw [FFmt.classBit, f.val_pattern neg he hm]
  by_cases hmax : e = 2 ^ f.eb - 1
  · by_cases hm0 : m = 0
    · simp only [if_pos hmax, if_pos hm0, if_neg fun h : _ ∧ m ≠ 0 => h.2 hm0]
    · simp only [if_pos hmax, if_neg hm0, if_pos (And.intro hmax hm0)]
  · by_cases he0 : e = 0
    · subst he0
      simp only [hmax, hm, if_true, if_false, true_and, false_and]
    · have hnz : m + 2 ^ f.fb ≠ 0 := by omega
      simp only [hmax, he0, hnz, if_false, false_and, if_neg (Nat.le_add_left _ m).not_gt]

/-- A word is the F32 pattern of its bit 31, its bits [30:23] and its bits [22:0] (R64). -/
theorem toNat_eq_f32_pattern (a : Word) :
    a.toNat = f32.pattern (a.getLsbD 31) (a.extractLsb' 23 8).toNat (a.extractLsb' 0 23).toNat := by
  have hneg : (a.getLsbD 31).toNat = a.toNat / 2 ^ 31 % 2 := Nat.toNat_testBit _ _
  have ha : a.toNat < 2 ^ 32 := a.isLt
  rw [FFmt.pattern, hneg, BitVec.extractLsb'_toNat, BitVec.extractLsb'_toNat, Nat.shiftRight_zero, Nat.shiftRight_eq_div_pow]
  change a.toNat = 2 ^ 31 * _ + (2 ^ 23 * _ + _)
  omega

/-- A power of two as a word is the word with that one bit. -/
theorem ofNat_two_pow_eq_shiftLeft (w k : Nat) : BitVec.ofNat w (2 ^ k) = 1#w <<< k := by
  rw [← BitVec.twoPow_eq]
  exact BitVec.eq_of_toNat_eq (by rw [BitVec.toNat_ofNat, BitVec.toNat_twoPow])

/-! ## FCLASS (R156) -/

/-- Settles O7: the bit that is set is the bit number of the operand's class, read off the fields of its pattern. -/
theorem classBits : Obligations.ClassBits := by
  intro f s hc
  refine ⟨_, laneInstr_gives rfl hc fun lk _ => rfl, fun lk => ?_⟩
  rw [ofNat_two_pow_eq_shiftLeft, counted_reg1, toNat_eq_f32_pattern (s.reg1 lk f.a),
    f32.classBit_pattern _ (BitVec.isLt _) (BitVec.isLt _)]
  rfl

end Sys2Proof.Machine
end

section
/-! Votes and matches over the participating lanes: VOTE (R186) and MATCH (R189). -/

namespace Sys2Proof.Machine

/-! ## Lane positions and masks -/

theorem posOf_lt (lk : Nat) : posOf lk < 64 := Nat.mod_lt _ (by decide)

/-- The key of a lane is that of its group with its position in it. -/
theorem groupOf_mul_add_posOf (lk : Nat) : groupOf lk * 64 + posOf lk = lk := Nat.div_add_mod' lk 64

/-- Acting lanes are all of one group. -/
theorem groupOf_eq_of_acting {s : State} {x : Instr} {i j : Nat} (hi : i ∈ s.acting x) (hj : j ∈ s.acting x) :
    groupOf i = groupOf j :=
  (groupOf_setLanes (acting_sub hi)).trans (groupOf_setLanes (acting_sub hj)).symm

/-- The key of an acting lane, by the group of another acting lane and its own position. -/
theorem key_of_acting {s : State} {x : Instr} {i lk : Nat} (hi : i ∈ s.acting x) (hlk : lk ∈ s.acting x) :
    groupOf lk * 64 + posOf i = i := by
  rw [← groupOf_eq_of_acting hi hlk, groupOf_mul_add_posOf]

/-- A mask of positions has the bits that are listed. -/
theorem getLsbD_lanesMask (l : List Nat) (k : Nat) : (lanesMask l).getLsbD k = decide (k < 64 ∧ k ∈ l) := by
  have hbit (i : Nat) : (1#64 <<< i).getLsbD k = decide (k < 64 ∧ k = i) := by
    rw [← BitVec.twoPow_eq, BitVec.getLsbD_twoPow]
    grind
  have hfold (m : DWord) : (l.foldl (fun m i => m ||| (1#64 <<< i)) m).getLsbD k =
      (m.getLsbD k || decide (k < 64 ∧ k ∈ l)) := by
    induction l generalizing m with
    | nil => simp
    | cons i l ih => rw [List.foldl_cons, ih, BitVec.getLsbD_or, hbit]; grind
  rw [lanesMask, hfold, BitVec.ofNat_eq_ofNat, BitVec.getLsbD_zero, Bool.false_or]

/-- The bits of the mask of the lanes that satisfy a test. -/
theorem getLsbD_maskOf (ls : List Nat) (p : Nat → Bool) (k : Nat) :
    (maskOf ls p).getLsbD k = decide (∃ i ∈ ls, p i = true ∧ posOf i = k) := by
  rw [maskOf, getLsbD_lanesMask, decide_eq_decide]
  constructor
  · rintro ⟨-, hk⟩
    simpa [and_assoc] using hk
  · rintro ⟨i, hi, hp, rfl⟩
    exact ⟨posOf_lt i, List.mem_map_of_mem (List.mem_filter.2 ⟨hi, hp⟩)⟩

/-- In a mask over the acting lanes, the bit of one of them is its own test. -/
theorem getLsbD_maskOf_acting {s : State} {x : Instr} {i : Nat} (p : Nat → Bool) (hi : i ∈ s.acting x) :
    (maskOf (s.acting x) p).getLsbD (posOf i) = p i := by
  rw [getLsbD_maskOf, Bool.eq_iff_iff, decide_eq_true_iff]
  constructor
  · rintro ⟨j, hj, hp, hpos⟩
    rwa [← key_of_acting hi hi, ← hpos, key_of_acting hj hi]
  · exact fun hp => ⟨i, hi, hp, rfl⟩

/-- In a mask over the acting lanes, the bits of other lanes of their group are zero. -/
theorem getLsbD_maskOf_not_acting {s : State} {x : Instr} {lk k : Nat} (p : Nat → Bool) (hlk : lk ∈ s.acting x)
    (hk : groupOf lk * 64 + k ∉ s.acting x) : (maskOf (s.acting x) p).getLsbD k = false := by
  rw [getLsbD_maskOf, decide_eq_false_iff_not]
  rintro ⟨i, hi, -, rfl⟩
  rw [key_of_acting hi hlk] at hk
  exact hk hi

/-! ## The frame of the cross-lane instructions (R183, R377) -/

@[simp] theorem counted_party (s : State) (i : Instr) (g : BitVec 4) : (s.counted i).party g = s.party g := rfl

@[simp] theorem counted_poisonedReg (s : State) (i : Instr) (lk : Nat) (f : BitVec 9) (n : Nat) :
    (s.counted i).poisonedReg lk f n = s.poisonedReg lk f n := rfl

/-- A lane in which an instruction reads no poisoned register has none in a field that the instruction reads as a source. -/
theorem poisonedReg_eq_none {s : State} {i : Instr} {lk pos n : Nat} {a : BitVec 9} (h : s.poisonOf i lk = none)
    (hx : ⟨pos, a.toNat, .src n⟩ ∈ (form i).shape.flds) (hn : readRegs i ⟨pos, a.toNat, .src n⟩ n = n) :
    s.poisonedReg lk a n = none := by
  simp only [State.poisonOf, State.poisonedReg] at h ⊢
  split at h
  next hp => simp [List.isEmpty_iff.1 hp]
  next =>
    rw [Option.map_eq_none_iff, List.find?_eq_none] at h ⊢
    exact fun r hr => h r (List.mem_flatMap.2 ⟨_, hx, by
      change r ∈ (List.range (readRegs i ⟨pos, a.toNat, .src n⟩ n)).map (a.toNat + ·)
      rwa [hn]⟩)

/-- A cross-lane instruction that nothing stops and that takes field A of acting lanes, a source field of its own: each acting lane
gets what the body says. -/
theorem crossInstr_gives {i : Instr} {f : FmtT} {n pos : Nat} {takes : State → Nat → List Nat}
    {body : State → Nat → LaneRes} {s : State} {ws : Nat → List Wr} (hx : exec i s = crossInstr i f n takes body s)
    (hc : s.Clear i) (ha : ⟨pos, f.a.toNat, .src n⟩ ∈ (form i).shape.flds)
    (hn : readRegs i ⟨pos, f.a.toNat, .src n⟩ n = n)
    (ht : ∀ lk ∈ s.acting i, ∀ k ∈ takes (s.counted i) lk, k ∈ s.acting i)
    (hb : ∀ lk ∈ s.acting i, body (s.counted i) lk = .ok (ws lk)) : Gives i s ws := by
  refine laneInstr_gives hx hc fun lk hlk => ?_
  have hbad : ((takes (s.counted i) lk).findSome? fun k => (s.counted i).poisonedReg k f.a n) = none := by
    rw [List.findSome?_eq_none_iff]
    intro k hk
    rw [counted_poisonedReg]
    exact poisonedReg_eq_none (hc.2 k (ht lk hlk k hk)) ha hn
  simp only [hbad, hb lk hlk, withPoison]

/-! ## VOTE (R186) -/

/-- A test holds of all members or of none exactly when it answers equally for any two. -/
theorem all_or_all_not_iff (p : Nat → Bool) (ls : List Nat) :
    (ls.all p || ls.all fun i => !p i) = true ↔ ∀ i ∈ ls, ∀ j ∈ ls, p i = p j := by
  simp only [Bool.or_eq_true, List.all_eq_true, Bool.not_eq_true']
  constructor
  · rintro (h | h) i hi j hj <;> rw [h i hi, h j hj]
  · intro h
    by_cases hall : ∀ i ∈ ls, p i = true
    · exact .inl hall
    · push Not at hall
      obtain ⟨j, hj, hpj⟩ := hall
      exact .inr fun i hi => (h i hi j hj).trans (Bool.eq_false_iff.2 hpj)

/-- Settles O12: the three modes are the three tests of the list of participating lanes. -/
theorem voteResults : Obligations.VoteResults := by
  intro f s hc
  refine ⟨_, laneInstr_gives (f := voteLane f) rfl hc fun lk _ => rfl, fun hm => ?_, fun hm => ?_, fun hm => ?_⟩
  · rw [hm]
    exact List.all_eq_true
  · rw [hm]
    exact List.any_eq_true
  · rw [hm]
    exact all_or_all_not_iff _ _

/-! ## MATCH (R189) -/

/-- MATCH gives each acting lane the mask of the acting lanes whose A equals its own. -/
theorem matchOp_gives {f : FmtT} {s : State} (hc : s.Clear (.matchOp f)) :
    Gives (.matchOp f) s fun lk => put f.d 2
      (maskOf (s.acting (.matchOp f)) fun i => s.raw i f.ty.toNat f.a = s.raw lk f.ty.toNat f.a).toNat :=
  crossInstr_gives (pos := 18) rfl hc (.tail _ (.head _)) rfl (fun _ _ _ hk => hk) fun _ _ => rfl

/-- Settles O13: a mask over the acting lanes holds each one's own test, and no lane differs from itself. -/
theorem matchMasks : Obligations.MatchMasks := by
  intro f s hc
  refine ⟨_, matchOp_gives hc, fun lk hlk => ⟨fun i hi => ?_, fun k _ hk => ?_, ?_⟩⟩
  · exact getLsbD_maskOf_acting _ hi
  · exact getLsbD_maskOf_not_acting _ hlk hk
  · rw [getLsbD_maskOf_acting _ hlk, decide_eq_true rfl]

end Sys2Proof.Machine
end
